-- ==== Sys2Proof/Word.lean ====
section
/-! DEFINITION. The words of the machine: bytes, 32- and 64-bit words, lane masks, vector lanes (01 R11, R12; 04 R86). -/
namespace Sys2Proof

/-- One byte. -/
abbrev Byte := BitVec 8
/-- A 32-bit register or instruction word (10 R251). -/
abbrev Word := BitVec 32
/-- A 64-bit value (00 R2). -/
abbrev DWord := BitVec 64
/-- One bit for each of the 96 lanes of a warp (08 R202). -/
abbrev Mask := BitVec 96
/-- The 96 lanes of one vector register (04 R86). -/
abbrev Lanes := Vector Word 96

namespace Lanes
/-- Lane `n` of a vector register; lanes beyond 95 read zero. -/
def get (v : Lanes) (n : Nat) : Word := v.toArray.getD n 0
/-- The vector register whose lane `n` is `f n`. -/
def make (f : Nat → Word) : Lanes := Vector.ofFn (fun i => f i.val)
/-- The same word in every lane. -/
def fill (w : Word) : Lanes := make (fun _ => w)

@[simp] theorem get_make (f : Nat → Word) (n : Nat) (h : n < 96) : (make f).get n = f n := by
  simp [get, make, h]
@[simp] theorem get_fill (w : Word) (n : Nat) (h : n < 96) : (fill w).get n = w := by
  simp [fill, h]
end Lanes

end Sys2Proof
end

