-- ==== Sys2Proof/Config.lean ====
section
/-! DEFINITION. What one implementation fixes, and the free values: opaque constants without a body, so that no proof
can see a value of them (logs 4 and 9). Also the fixed figures of the module (01). -/
namespace Sys2Proof.Config

/-- Quills of the module (01 R19). -/
def quills : Nat := 768
/-- Quills of one die (01 R8). -/
def quillsPerDie : Nat := 96
/-- Threads of one quill: 32 warp slots and the nib (01 R11). -/
def threadsPerQuill : Nat := 33

/-- A byte that the spec leaves undefined (06 R163), for the n-th use of a free value. -/
opaque freeByte : Nat → Byte
/-- The texel at (x, y) of a compressed block: format code, ASTC register, block bytes, x, y give the texel's bytes: three F16
channels of BC6H, four UNORM8 channels of BC7, four 16-bit interpolated values of ASTC LDR, four F16 channels of ASTC HDR.
Used for the formats whose definition the spec leaves to the Khronos specification (05 R138). -/
opaque decodeBlock : Nat → DWord → List Byte → Nat → Nat → List Byte
/-- Whether an ASTC block is an error block, by its register and bytes (05 R138). -/
opaque astcError : DWord → List Byte → Bool
/-- SHA3-512 of a byte string (20 R489, R497): defined outside the spec. -/
opaque sha3 : List Byte → List Byte
/-- ML-DSA-87 verification of a signature block over a measurement with a key (20 R497). -/
opaque verify : List Byte → List Byte → List Byte → Bool
/-- The public key and the signature that a firmware image carries; the spec lays out no image (21 R504, R505). -/
opaque imageKey : List Byte → List Byte
opaque imageSignature : List Byte → List Byte
/-- The SHA3-512 digest of the firmware public key, fused at manufacture (21 R505). -/
opaque fusedDigest : List Byte
/-- Readings of Scriptorium offset 0x2200_4000 (public key and certificate chain, 21 R505), from
the firmware measurement, by offset. -/
opaque identity : List Byte → Nat → DWord
/-- The failure code of a refused firmware image (21 R504). -/
opaque firmwareFailure : List Byte → BitVec 16
/-- The signature of an attestation report (21 R505): firmware measurement (from which the key derives), signed bytes. -/
opaque sign : List Byte → List Byte → List Byte
/-- Whether the lines after the active ones take slots of the output ring; the spec lays out no ring (17 R446, R447, log 9). -/
opaque ringBlank : Bool
/-- The slot of the output ring at which a head's lines begin: lat, vt, va (17 R446, R447, log 9). -/
opaque ringStart : Nat → Nat → Nat → Nat
/-- The neighbour sensors on a die's sensor grid (19 R481): current?, index. -/
opaque sensorNeighbours : Bool → Nat → List Nat

end Sys2Proof.Config
end

