-- ==== Sys2Proof/Machine/Bits.lean ====
section
/-! DEFINITION. Bit fields, byte order (00 R2) and finite maps with natural keys in one canonical form. -/
namespace Sys2Proof.Machine

/-- Little-endian bytes of a number (00 R2). -/
def toBytes : Nat → Nat → List Byte
  | 0, _ => []
  | n + 1, x => BitVec.ofNat 8 x :: toBytes n (x / 256)

/-- The number held by little-endian bytes (00 R2). -/
def ofBytes : List Byte → Nat
  | [] => 0
  | b :: r => b.toNat + 256 * ofBytes r

/-- Bits [lo + n - 1 : lo] of a number. -/
def fieldN (x lo n : Nat) : Nat := x / 2 ^ lo % 2 ^ n

/-- Bit n of a number. -/
def bitN (x n : Nat) : Bool := x / 2 ^ n % 2 == 1

/-- The low n bits of x as two's complement (00, SignExtend). -/
def sext (x n : Nat) : Int := if fieldN x 0 n < 2 ^ (n - 1) then fieldN x 0 n else (fieldN x 0 n : Int) - 2 ^ n

/-- The low n bits of an integer (the casts of 00). -/
def wrapN (n : Nat) (x : Int) : Nat := (x % 2 ^ n).toNat

/-- A 32-bit cast. -/
def w32 (x : Int) : Word := BitVec.ofInt 32 x
/-- A 64-bit cast. -/
def w64 (x : Int) : DWord := BitVec.ofInt 64 x

/-- The low word of a 64-bit value (00 R2). -/
def lo32 (x : DWord) : Word := x.extractLsb' 0 32
/-- The high word of a 64-bit value (00 R2). -/
def hi32 (x : DWord) : Word := x.extractLsb' 32 32
/-- A 64-bit value from its high and low words (00 R2). -/
def join64 (hi lo : Word) : DWord := hi ++ lo

/-- A finite map with natural keys, as a list of entries with rising keys. -/
abbrev FMap (α : Type) := List (Nat × α)

namespace FMap
variable {α : Type}

/-- The entry at a key. -/
def find : FMap α → Nat → Option α
  | [], _ => none
  | (k, v) :: r, a => if a = k then some v else find r a

/-- Set the entry at a key. -/
def put : FMap α → Nat → α → FMap α
  | [], a, x => [(a, x)]
  | (k, v) :: r, a, x =>
    if a < k then (a, x) :: (k, v) :: r
    else if a = k then (a, x) :: r
    else (k, v) :: put r a x

/-- Remove the entry at a key. -/
def del (m : FMap α) (a : Nat) : FMap α := m.filter (fun e => e.1 != a)

/-- Change the entry at a key, if there is one. -/
def change (m : FMap α) (a : Nat) (f : α → α) : FMap α :=
  m.map (fun e => if e.1 = a then (e.1, f e.2) else e)

/-- The keys rise strictly. -/
def sorted : FMap α → Bool
  | [] => true
  | [_] => true
  | (a, _) :: (b, y) :: r => decide (a < b) && sorted ((b, y) :: r)

end FMap

/-- Replace the n-th element of a list. -/
def setAt {α : Type} (l : List α) (n : Nat) (x : α) : List α := l.set n x

/-- The least number below `n` that meets a test. -/
def firstBelow (n : Nat) (p : Nat → Bool) : Option Nat := (List.range n).find? p

/-- The integer square root, by fixing bits from the top. -/
def isqrtFrom (n : Nat) : Nat → Nat → Nat
  | 0, acc => acc
  | i + 1, acc => isqrtFrom n i (if (acc + 2 ^ i) * (acc + 2 ^ i) ≤ n then acc + 2 ^ i else acc)

/-- The integer square root. -/
def isqrt (n : Nat) : Nat := isqrtFrom n (Nat.log2 n / 2 + 1) 0

end Sys2Proof.Machine
end

