-- ==== Sys2Proof/Syntax.lean ====
section
/-! DEFINITION. The steps of the Kymoxis as syntax: one constructor per row of the opcode table. Instructions carry their
encoding's fields (10 R254-R257); the other steps carry what the outside world or the schedule supplies. -/
namespace Sys2Proof

/-- The fields of a 64-bit T64 instruction other than its major and function code (10 R256). -/
structure T64 where
  d : BitVec 8
  a : BitVec 8
  b : BitVec 8
  c : BitVec 8
  /-- the modifier byte, word 1 bits [31:24] -/
  md : BitVec 8
  hint : BitVec 4
  gneg : Bool
  guard : BitVec 3
deriving DecidableEq, Repr

/-- The long forms of a scalar function: T64 registers or I64 immediate (11 R284). -/
inductive SForm where
  | reg (f : T64)
  | imm (d a : BitVec 8) (y : Word)
  /-- the pair immediate form of sadd.d -/
  | immD (d a : BitVec 8) (y : Word)
deriving DecidableEq, Repr

/-- The long forms of a vector integer function: T64 with a width, or I64 (12 R314, R319). -/
inductive VForm where
  | reg (wd : BitVec 2) (f : T64)
  | imm (d a : BitVec 8) (y : Word)
deriving DecidableEq, Repr

/-- smul of the long forms (11 R284). -/
inductive SMulForm where
  | reg (f : T64)
  | imm (d a : BitVec 8) (y : Word)
  | hi (signed : Bool) (f : T64)
deriving DecidableEq, Repr

/-- Bit-field functions (11 R284, 12 R315). -/
inductive BfKind where | extractU | extractS | insert
deriving DecidableEq, Repr

/-- Bit counts (11 R284, 12 R315). -/
inductive CntKind where | pop | clz | ctz
deriving DecidableEq, Repr

/-- Long transfers (11 R293). -/
inductive JmpKind where | abs | reg | seg
deriving DecidableEq, Repr

/-- Instruction prefetches (11 R300). -/
inductive IpfKind where | pf | pin | unpin
deriving DecidableEq, Repr

/-- Moves of fstat (11 R299). -/
inductive FsKind where | rd | wr | clr
deriving DecidableEq, Repr

/-- Atomic operations (12 R334). -/
inductive AtomOp where
  | add | minS | minU | maxS | maxU | and | or | xor | xchg | cas | zmin | fadd
deriving DecidableEq, Repr

/-- Floating-point formats of the arithmetic instructions (13 R344). -/
inductive FFmt where | f32 | f64 | f16 | bf16
deriving DecidableEq, Repr

/-- Leaves of vcred (13 R360). -/
inductive CredKind where | f32 | dw | f64
deriving DecidableEq, Repr

/-- Modes of vtbl (13 R362). -/
inductive TblKind where | idx | lin | quad
deriving DecidableEq, Repr

/-- Operations of vred (12 R325). -/
inductive RedOp where | addS | addU | minS | minU | maxS | maxU | and | or | xor
deriving DecidableEq, Repr

/-- The two engine streams of a quill (14 R379). -/
inductive Stream where | copy | gather
deriving DecidableEq, Repr

/-- Who makes a register write, a stop or a page access (02 R58, 21 R499). -/
inductive Agent where | scriptorium | hypervisor | host | warp
deriving DecidableEq, Repr

/-- What a domain request asks for (07 R174, R188). -/
inductive ReqKind where
  | load
  | store
  | atomic (op : AtomOp) (wide : Bool)
  /-- remote reduce-store, with its operation code (14 R384) -/
  | rred (op : BitVec 4)
deriving DecidableEq, Repr

/-- One access of a domain request: the bytes at an offset, with the store data or atomic operands; `bad`: a flit marks some of
them poisoned (07 R188). -/
structure ReqAcc where
  off : Nat
  size : Nat
  data : List Byte
  bad : Bool
deriving DecidableEq, Repr

/-- A request as it reaches its destination: one 128-byte line (07 R174). -/
structure Request where
  src : Nat
  id : Nat
  kind : ReqKind
  accs : List ReqAcc
deriving DecidableEq, Repr

/-- A place of storage that a soft error may upset (04 R117, 05 R125, R126, R129). -/
inductive Cellref where
  | vreg (tid r lane : Nat)
  | sreg (tid r : Nat)
  | pred (tid k third : Nat)
  | acc (gang word : Nat)
  | scratch (gang word : Nat)
  | l1 (quill line : Nat)
  | l2Clean (line : Nat)
  | l2Dirty (unit : Nat)
  | staging (slice unit : Nat)
  | inkwell (line : Nat)
  | gddr (unit : Nat)
  /-- a cell of a saved quill's state, by its place among the saved partitions -/
  | shadow (saved : Nat) (c : Cellref)
deriving DecidableEq, Repr

/-- What training found on one domain port (07 R191, 21 R506): the lanes that pass at 224, 112 and 56 Gb/s, whether the lane order is
reversed, and the partner's peer and port number. -/
structure PortResult where
  port : Nat
  pass224 : BitVec 8
  pass112 : BitVec 8
  pass56 : BitVec 8
  rev : Bool
  ppeer : BitVec 9
  pport : BitVec 5
deriving DecidableEq, Repr

/-- The data of an event: what the outside world or the schedule supplies to a row of the table that is not an
instruction word. Each constructor of Instr names in its comment what it takes; numbers in the order n1, n2, n3, n4,
64-bit values in the order v1, v2. -/
structure Input where
  n1 : Nat
  n2 : Nat
  n3 : Nat
  n4 : Nat
  v1 : DWord
  v2 : DWord
  on : Bool
  on2 : Bool
  nums : List Nat
  nums2 : List Nat
  data : List Byte
  parts : List (List Byte)
  stream : Stream
  who : Agent
  req : Request
  cell : Cellref
  ports : List PortResult
deriving DecidableEq, Repr

/-- The input that carries nothing. -/
def Input.none : Input :=
  { n1 := 0, n2 := 0, n3 := 0, n4 := 0, v1 := 0, v2 := 0, on := false, on2 := false, nums := [], nums2 := [],
    data := [], parts := [], stream := .copy, who := .scriptorium, req := { src := 0, id := 0, kind := .load, accs := [] },
    cell := .l1 0 0, ports := [] }

/-- One step of the Kymoxis: a row of the opcode table (10, 11-14, 18 and the events of 95). -/
inductive Instr where
  -- prefixes (10 R262-R265)
  | xreg (bx ax dx : BitVec 3)
  | rmode (rm : BitVec 3) (rmset sat : Bool)
  | pairx (mode : BitVec 2)
  | cpol (evict policy : BitVec 2)
  -- scalar arithmetic (11 R284-R288)
  | saddT32 (d a b : BitVec 5)
  | saddT64 (f : SForm)
  | ssubT32 (d a b : BitVec 5)
  | ssubT64 (f : T64)
  | sandT32 (d a b : BitVec 5)
  | sandT64 (f : SForm)
  | sorT32 (d a b : BitVec 5)
  | sorT64 (f : SForm)
  | sxorT32 (d a b : BitVec 5)
  | sxorT64 (f : SForm)
  | sshlT32 (d a b : BitVec 5)
  | sshlT64 (f : T64)
  | sshrT32 (arith : Bool) (d a b : BitVec 5)
  | sshrT64 (arith : Bool) (f : T64)
  | smulT32 (d a b : BitVec 5)
  | smulT64 (f : SMulForm)
  | sminST32 (d a b : BitVec 5)
  | sminUT32 (d a b : BitVec 5)
  | sminT64 (signed : Bool) (f : SForm)
  | smaxST32 (d a b : BitVec 5)
  | smaxUT32 (d a b : BitVec 5)
  | smaxT64 (signed : Bool) (f : SForm)
  | sdiv (signed : Bool) (f : T64)
  | sbf (k : BfKind) (f : T64)
  | scnt (k : CntKind) (f : T64)
  | sset (dbl : Bool) (d a : BitVec 8) (y : Word)
  | saddi (imm : BitVec 12) (a d : BitVec 5)
  | sandi (imm : BitVec 12) (a d : BitVec 5)
  | sori (imm : BitVec 12) (a d : BitVec 5)
  | sshli (imm : BitVec 12) (a d : BitVec 5)
  | sshri (arith : Bool) (imm : BitVec 12) (a d : BitVec 5)
  | slh (imm : BitVec 20) (d : BitVec 5)
  | spch (imm : BitVec 20) (d : BitVec 5)
  -- compares, predicates and the mask (11 R289, R290)
  | scmp (cond : BitVec 3) (b a : BitVec 5) (p : BitVec 3)
  | ssel (neg : Bool) (n : BitVec 3) (b a d : BitVec 5)
  | kop (f : BitVec 3) (r q p : BitVec 3)
  | kopKs (a : BitVec 5) (p : BitVec 3)
  | kopSk (q : BitVec 3) (d : BitVec 5)
  | msplit (neg : Bool) (q : BitVec 3) (d : BitVec 5)
  | mjoin (a : BitVec 5)
  -- transfers (11 R291-R293)
  | b (off : BitVec 21) (neg : Bool) (g : BitVec 3)
  | call (off : BitVec 21) (neg : Bool) (g : BitVec 3)
  | jr (a : BitVec 5)
  | jrL (a d : BitVec 5)
  | ljmp (k : JmpKind) (d a : BitVec 8) (y : Word)
  | lcall (k : JmpKind) (d a : BitVec 8) (y : Word)
  -- loops, barriers and gang-wide services (11 R294-R305)
  | loop (imm : Bool) (f : T64)
  | loopCnt (f : T64)
  | barGang (f : T64)
  | barFol (f : T64)
  | ordbeg (f : T64)
  | ordend (f : T64)
  | ordrel (f : T64)
  | phase (f : T64)
  | clkdiv (f : T64)
  | rdtick (clk : Bool) (f : T64)
  | inkcal (f : T64)
  | mbx (f : T64)
  | ipf (k : IpfKind) (f : T64)
  | fsmov (k : FsKind) (f : T64)
  | dqpush (f : T64)
  | dqpop (f : T64)
  -- system (11 R306-R310)
  | syscallT32 (svc : BitVec 8)
  | syscallT64 (f : T64)
  | hcallT32 (svc : BitVec 8)
  | hcallT64 (f : T64)
  | tretT32
  | tretT64 (f : T64)
  | exitT32
  | exitT64 (f : T64)
  | halt (f : T64)
  | mfp (f : T64)
  | mtp (f : T64)
  -- vector integer (12 R314-R320)
  | vaddT32 (bs : Bool) (wd : BitVec 2) (u : Bool) (b a d : BitVec 5)
  | vaddI32 (imm : BitVec 12) (a d : BitVec 5)
  | vaddT64 (u : Bool) (f : VForm)
  | vsubT32 (bs : Bool) (wd : BitVec 2) (u : Bool) (b a d : BitVec 5)
  | vsubT64 (u : Bool) (f : VForm)
  | vmulT32 (bs : Bool) (wd : BitVec 2) (u : Bool) (b a d : BitVec 5)
  | vmulI32 (imm : BitVec 12) (a d : BitVec 5)
  | vmulT64 (u : Bool) (f : VForm)
  | vavgT32 (bs : Bool) (wd : BitVec 2) (u : Bool) (b a d : BitVec 5)
  | vavgT64 (u : Bool) (f : VForm)
  | vandT32 (bs : Bool) (wd : BitVec 2) (b a d : BitVec 5)
  | vandI32 (imm : BitVec 12) (a d : BitVec 5)
  | vandT64 (f : VForm)
  | vorT32 (bs : Bool) (wd : BitVec 2) (b a d : BitVec 5)
  | vorI32 (imm : BitVec 12) (a d : BitVec 5)
  | vorT64 (f : VForm)
  | vxorT32 (bs : Bool) (wd : BitVec 2) (b a d : BitVec 5)
  | vxorI32 (imm : BitVec 12) (a d : BitVec 5)
  | vxorT64 (f : VForm)
  | vandnT32 (bs : Bool) (wd : BitVec 2) (b a d : BitVec 5)
  | vandnT64 (f : VForm)
  | vshlT32 (bs : Bool) (wd : BitVec 2) (b a d : BitVec 5)
  | vshlI32 (imm : BitVec 12) (a d : BitVec 5)
  | vshlT64 (f : VForm)
  | vshrUT32 (bs : Bool) (wd : BitVec 2) (b a d : BitVec 5)
  | vshrST32 (bs : Bool) (wd : BitVec 2) (b a d : BitVec 5)
  | vshrUI32 (imm : BitVec 12) (a d : BitVec 5)
  | vshrSI32 (imm : BitVec 12) (a d : BitVec 5)
  | vshrT64 (arith : Bool) (f : VForm)
  | vrotT32 (bs : Bool) (wd : BitVec 2) (b a d : BitVec 5)
  | vrotT64 (f : VForm)
  | vminT32 (bs : Bool) (wd : BitVec 2) (u : Bool) (b a d : BitVec 5)
  | vminT64 (u : Bool) (f : VForm)
  | vmaxT32 (bs : Bool) (wd : BitVec 2) (u : Bool) (b a d : BitVec 5)
  | vmaxT64 (u : Bool) (f : VForm)
  | vabsdT32 (bs : Bool) (wd : BitVec 2) (u : Bool) (b a d : BitVec 5)
  | vabsdT64 (u : Bool) (f : VForm)
  | vaddaT32 (bs : Bool) (b a d : BitVec 5)
  | vaddaT64 (f : VForm)
  | vbrevT32 (a d : BitVec 5)
  | vbrevT64 (wd : BitVec 2) (f : T64)
  | vcntPopT32 (a d : BitVec 5)
  | vcntClzT32 (a d : BitVec 5)
  | vcntCtzT32 (a d : BitVec 5)
  | vcntT64 (k : CntKind) (wd : BitVec 2) (f : T64)
  | vmad (u : Bool) (wd : BitVec 2) (f : T64)
  | vclamp (u : Bool) (wd : BitVec 2) (f : T64)
  | vshf (wd : BitVec 2) (f : T64)
  | vbf (k : BfKind) (wd : BitVec 2) (f : T64)
  | vbyte (wd : BitVec 2) (f : T64)
  | vaddc (wd : BitVec 2) (f : T64)
  | vsubb (wd : BitVec 2) (f : T64)
  | vset (dbl : Bool) (d a : BitVec 8) (y : Word)
  | vdiv (u : Bool) (f : T64)
  | vmulhi (u : Bool) (f : T64)
  | vmulw (u : Bool) (f : T64)
  -- compares, selects, moves, permutes (12 R321-R326)
  | vcmpT32 (bs : Bool) (wd : BitVec 2) (cond : BitVec 4) (b a : BitVec 5) (p : BitVec 3)
  | vcmpT64 (wd : BitVec 2) (cond : BitVec 4) (f : T64)
  | vselT32 (neg : Bool) (n : BitVec 3) (b a d : BitVec 5)
  | vselT64 (f : T64)
  | vbcastT32 (a d : BitVec 5)
  | vbcastT64 (f : T64)
  | vextrT32 (n : BitVec 7) (a d : BitVec 5)
  | vextrT64 (f : T64)
  | vinsT32 (n : BitVec 7) (a d : BitVec 5)
  | vinsT64 (f : T64)
  | vlidT32 (d : BitVec 5)
  | vlidT64 (f : T64)
  | vkvT32 (n : BitVec 3) (d : BitVec 5)
  | vkvT64 (f : T64)
  | vpermT32 (b a d : BitVec 5)
  | vswzUpT32 (n : BitVec 7) (a d : BitVec 5)
  | vswzDnT32 (n : BitVec 7) (a d : BitVec 5)
  | vswzXorT32 (n : BitVec 7) (a d : BitVec 5)
  | vswzRotT32 (n : BitVec 7) (a d : BitVec 5)
  | vpermT64 (f : T64)
  | vswzT64 (k : BitVec 2) (f : T64)
  | match_ (f : T64)
  | vred (op : RedOp) (f : T64)
  | vscan (exc : Bool) (f : T64)
  -- loads, stores, atomics (12 R327-R341)
  | sldM32 (sz : BitVec 3) (imm : BitVec 12) (a d : BitVec 5)
  | sldT64 (scr : Bool) (sz : BitVec 3) (f : T64)
  | sstM32 (sz : BitVec 3) (imm : BitVec 12) (a d : BitVec 5)
  | sstT64 (scr : Bool) (sz : BitVec 3) (f : T64)
  | vldM32 (sz : BitVec 3) (imm : BitVec 12) (a d : BitVec 5)
  | vldT64 (sz : BitVec 3) (f : T64)
  | vstM32 (sz : BitVec 3) (imm : BitVec 12) (a d : BitVec 5)
  | vstT64 (sz : BitVec 3) (f : T64)
  | pldM32 (sz : BitVec 3) (imm : BitVec 12) (a d : BitVec 5)
  | pldT64 (sz : BitVec 3) (f : T64)
  | pstM32 (sz : BitVec 3) (imm : BitVec 12) (a d : BitVec 5)
  | pstT64 (sz : BitVec 3) (f : T64)
  | vpf (scalar : Bool) (f : T64)
  | vatom (scr wide : Bool) (op : AtomOp) (f : T64)
  | satom (scr wide : Bool) (op : AtomOp) (f : T64)
  | xpatSet (f : T64)
  | xpatGet (f : T64)
  | xld (f : T64)
  | markT32 (form scope : BitVec 3)
  | markT64 (f : T64)
  | arwait (f : T64)
  | arrive (f : T64)
  -- floating-point (13)
  | vfaddF32T32 (bs : Bool) (b a d : BitVec 5)
  | vfaddPackedT32 (bs bf : Bool) (b a d : BitVec 5)
  | vfaddT64 (fmt : FFmt) (f : T64)
  | vfsubF32T32 (bs : Bool) (b a d : BitVec 5)
  | vfsubPackedT32 (bs bf : Bool) (b a d : BitVec 5)
  | vfsubT64 (fmt : FFmt) (f : T64)
  | vfmulF32T32 (bs : Bool) (b a d : BitVec 5)
  | vfmulPackedT32 (bs bf : Bool) (b a d : BitVec 5)
  | vfmulT64 (fmt : FFmt) (f : T64)
  | vfminF32T32 (bs : Bool) (b a d : BitVec 5)
  | vfminPackedT32 (bs bf : Bool) (b a d : BitVec 5)
  | vfminT64 (fmt : FFmt) (f : T64)
  | vfmaxF32T32 (bs : Bool) (b a d : BitVec 5)
  | vfmaxPackedT32 (bs bf : Bool) (b a d : BitVec 5)
  | vfmaxT64 (fmt : FFmt) (f : T64)
  | vfma (fmt : FFmt) (f : T64)
  | vfsgn (fmt : FFmt) (f : T64)
  | vfclass (fmt : FFmt) (f : T64)
  | vfcmp (f64 : Bool) (cond : BitVec 3) (f : T64)
  | vfdot2 (bf : Bool) (f : T64)
  | vfdiv (fmt : FFmt) (f : T64)
  | vfsqrt (fmt : FFmt) (f : T64)
  | vfrcp (fmt : FFmt) (f : T64)
  | vcvtT32 (e : BitVec 2) (src dst : BitVec 4) (a d : BitVec 5)
  | vcvtT64 (src dst : BitVec 4) (f : T64)
  | vfrnd (fmt : FFmt) (f : T64)
  | vbxpk (f : T64)
  | vbxex (f : T64)
  | vdwadd (f : T64)
  | vdwmul (f : T64)
  | vdwnorm (f : T64)
  | vcred (k : CredKind) (f : T64)
  | vtbl (k : TblKind) (f : T64)
  -- texture, matrix, engines (14)
  | tex (f : T64)
  | texl (f : T64)
  | texg (f : T64)
  | texf (f : T64)
  | tex4 (f : T64)
  | texq (f : T64)
  | mma (as z : Bool) (f : T64)
  | mvote (f : T64)
  | aclr (f : T64)
  | ald (f : T64)
  | ast (f : T64)
  | aadd (f : T64)
  | acvt (f : T64)
  | acpy (f : T64)
  | amax (f : T64)
  | abx (f : T64)
  | cpy (dst src : BitVec 2) (f : T64)
  | cpyt (dst src : BitVec 2) (f : T64)
  | gat (dst src : BitVec 2) (f : T64)
  | sct (dst src : BitVec 2) (f : T64)
  | cfill (dst src : BitVec 2) (f : T64)
  | rred (dst src : BitVec 2) (f : T64)
  | edrain (f : T64)
  | ecnt (f : T64)
  -- The rows below are not words: events and effects. Their data is the turn's input (Input, in State).
  -- system effects, marks, engines (03, 06, 11, 14, 15)
  /-- input, when the Scriptorium issues it (on): (vmid asid addr : Nat) -/
  | xinvcAddress
  /-- input, when the Scriptorium issues it (on): (vmid asid addr : Nat) -/
  | xinvcContext
  /-- input, when the Scriptorium issues it (on): (vmid asid addr : Nat) -/
  | xinvcGuest
  /-- input, when the Scriptorium issues it (on): (vmid asid addr : Nat) -/
  | xinvcGuestPhysical
  /-- input, when the Scriptorium issues it (on): (vmid asid addr : Nat) -/
  | xinvcAll
  | shootdownRetire
  /-- the current thread's mtp; input: (v : DWord) -/
  | seginvalWrite
  /-- the current thread's mtp; input: (st : Bool) (v : DWord) -/
  | tflcntWrite
  /-- the current thread's mtp; input: (hyp : Bool) (v : DWord) -/
  | statusDepthWrite
  /-- input: (tid : Nat) -/
  | markRetire
  /-- input: (quill : Nat) -/
  | matrixEntryCommit
  /-- input: (quill : Nat) (st : Stream) -/
  | engineCommandStart
  /-- input: (quill : Nat) (st : Stream) (n : Nat) -/
  | engineBytesCommit
  /-- input: (quill : Nat) (st : Stream) (cmd e : Nat) -/
  | engineFault
  /-- input: (quill : Nat) -/
  | efstatResume
  /-- input: (quill : Nat) -/
  | efstatAbort
  -- waits that end (11, 12, 14)
  /-- input: (gang n : Nat) -/
  | gangBarrierRelease
  /-- input: (fg : Nat) -/
  | folioBarrierRelease
  /-- input: (tid : Nat) -/
  | dqpopWake
  /-- input: (quill : Nat) -/
  | dqpushWake
  /-- input: (tid : Nat) -/
  | ordbegEnter
  /-- input: (tid : Nat) -/
  | arwaitWake
  /-- input: (tid : Nat) -/
  | edrainComplete
  -- memory steps (06 R146, 07)
  /-- input: (tid op acc : Nat) -/
  | storeQuillPerform
  /-- input: (quill idx : Nat) -/
  | storeHomePerform
  /-- input: (ids : List Nat) -/
  | domainStoreAcknowledge
  /-- input: (id : Nat) (data : List (List Byte)) -/
  | domainResponseReceive
  /-- input: (quill line : Nat) -/
  | l1LineFill
  /-- input: (quill line : Nat) -/
  | l1LineDrop
  /-- input: (tid acc : Nat) -/
  | loadTakeValue
  /-- input: (tid acc : Nat) -/
  | atomicPerform
  /-- input: (die : Nat) -/
  | tlbMissWalkStart
  /-- input: (die idx : Nat) -/
  | walkComplete
  /-- input: (r : Request) -/
  | domainRequestArrive
  /-- input: (id : Nat) (cls : BitVec 5) -/
  | negativeAcknowledge
  /-- input: (id : Nat) -/
  | responseTimeout
  /-- input: (port : Nat) -/
  | linkReplay
  /-- input: (port : Nat) -/
  | linkLost
  /-- input: (port vl : Nat) -/
  | virtualLaneStop
  /-- input: (port vl : Nat) -/
  | virtualLaneResume
  /-- input: (t1 : DWord) -/
  | tickExchange
  /-- input: (t1 t4 : DWord) -/
  | tickExchangeClose
  /-- input: (reach : Nat), the lowest-numbered peer that the links beyond the partners reach; nums: for each port the hops from its
  partner to the time source, 0 where it has no path -/
  | timeSourceLost
  /-- input: (peer : Nat) (v : DWord) -/
  | domrouteWrite
  /-- input: (peer lane : Nat) -/
  | routeLaneSwitch
  /-- input: (v : DWord) -/
  | domexpWrite
  /-- input: (slice eighth : Nat) (owner : DWord) -/
  | stagingOwnershipChange
  /-- input: (ch : Nat) (v : DWord) -/
  | chrsvWrite
  /-- input: (ch lent : Nat) -/
  | reservationFrameBoundary
  /-- input: (i : Nat) (v : DWord) -/
  | astcfmtWrite
  /-- input: (bank : Nat) -/
  | inkwellRefreshWindowClose
  /-- input: (ch da : Nat) -/
  | gddrScrub
  -- placement, power, pre-emption (08, 15, 16, 19)
  /-- input: (grid : Nat) -/
  | gangPlace
  /-- input: (grid : Nat) -/
  | residentGridPlace
  /-- input: (gang : Nat) -/
  | allocationRelease
  /-- input: (die : Nat) -/
  | railSettled
  /-- input: (die : Nat) -/
  | railLower
  /-- input: (die : Nat) (thermal current : List (BitVec 16)) -/
  | sensorSample
  /-- input: (die : Nat) (cur : Bool) (i : Nat) -/
  | sensorSuspectClear
  /-- input: (asid : Nat) (share : BitVec 7) -/
  | throttleWrite
  /-- input: (grid : Nat) -/
  | preemptDelayExpiry
  /-- input: (part : Nat) -/
  | shadowExchange
  /-- input: (part : Nat) -/
  | stateSpill
  /-- input: (saved part : Nat) -/
  | stateFill
  /-- input: (saved part : Nat) -/
  | partitionResume
  /-- input: (part : Nat) -/
  | ptreqPartition
  /-- input: (q : Nat) -/
  | ptreqQueue
  -- queues and launch (16)
  /-- input: (q : Nat) -/
  | qctlEnable
  /-- input: (q : Nat) -/
  | qctlDisable
  /-- input: (q : Nat) -/
  | qnotify
  /-- input: (q : Nat) -/
  | packetFetch
  /-- input: (q : Nat) -/
  | packetPoll
  /-- input: (q : Nat) -/
  | noopPacket
  /-- input: (q : Nat) -/
  | launchPacket
  /-- input: (q : Nat) -/
  | waitPacket
  /-- input: (q : Nat) -/
  | waitEvaluate
  /-- input: (q : Nat) -/
  | waitTimeout
  /-- input: (q : Nat) -/
  | signalSet
  /-- input: (q : Nat) -/
  | signalSubtract
  /-- input: (q : Nat) -/
  | signalAdd
  /-- input: (q : Nat) -/
  | copyPacket
  /-- input: (q : Nat) -/
  | inkwellFillPacket
  /-- input: (q : Nat) -/
  | inkwellFillStart
  /-- input: (q : Nat) -/
  | fetchFence
  /-- input: (q : Nat) -/
  | reservedPacket
  /-- input: (q : Nat) -/
  | packetRetire
  /-- input: (q : Nat) -/
  | chainRecordExpand
  /-- input: (q : Nat) -/
  | launchBankSwap
  /-- input: (grid : Nat) -/
  | gridDrainComplete
  /-- input: (q : Nat) -/
  | chainRetire
  | segreqAllocate
  | segreqValidate
  | segreqRevoke
  | segreqSignedLoad
  -- Ductus, host, bring-up (17, 18, 21)
  /-- input: (h : Nat) (v : DWord) -/
  | hdctlEnable
  /-- input: (h : Nat) -/
  | hdctlDisable
  /-- input: (off : Nat) (data : List Byte) -/
  | ductusCodeWrite
  /-- input: (h : Nat) (link : DWord) -/
  | hotplug
  /-- input: (h : Nat) -/
  | bandStart
  /-- input: (core : Nat) -/
  | bandDispatch
  /-- input: (h n b : Nat) -/
  | bandDeadline
  /-- input: (h n b k : Nat) -/
  | reprojectionLineTimeout
  /-- input: (core : Nat) -/
  | ductusBundle
  /-- input: (fn bar off : Nat) (data : List Byte) (poisoned : Bool) -/
  | hostWrite
  /-- input: (fn bar off size : Nat) -/
  | hostRead
  | errorLogMsiSpanEnd
  | moduleReset
  /-- input: (image : List Byte) -/
  | firmwareAuthentication
  /-- input: (fail : BitVec 16) -/
  | gddr7Training
  /-- input: (ports : List PortResult) (peer size reach : Nat) (t1 t4 : DWord); nums as for timeSourceLost; parts: for each head with
  an attached sink the 8 bytes of its hdlink after training, else none -/
  | domainPortTraining
  | pcieLinkUp
  /-- input: (who : Agent) (off size : Nat) (v : DWord) -/
  | registerWrite
  /-- its words are in the current thread's latch -/
  | illegalInstruction
  /-- the fault is in the current thread's latch -/
  | instructionFetchFault
  /-- input: (c : Cellref) (corrected : Bool) -/
  | softError
  /-- input: (r : PortResult) -/
  | linkRetrain
  /-- input: (h : Nat) (link : DWord) -/
  | displayportLinkLost
  /-- input: (h : Nat) -/
  | scanOutLine
  /-- input: (bank : Nat) -/
  | inkwellRefreshWindowOpen
  /-- input: (ch idx : Nat) -/
  | poisonTableClear
  /-- input: (nonce : List Byte) -/
  | attestationReport
deriving DecidableEq, Repr

end Sys2Proof
end

