-- ==== Sys2Proof/WellFormed.lean ====
section
/-! DEFINITION. When an instruction is legal under its prefixes (R260, R262-R264, R271 and the rules of each instruction),
which prefixes act on it (R266, R269, R270), and which registers it names (R38, R91, R117). -/
namespace Sys2Proof
open Sys2Proof.Machine

/-- The prefixes of one unit (10 R261-R265). -/
structure Px where
  /-- xreg: (dx, ax, bx) -/
  x : Option (BitVec 3 × BitVec 3 × BitVec 3)
  /-- rmode: (rm, rmset, sat) -/
  r : Option (BitVec 3 × Bool × Bool)
  /-- pairx: mode -/
  p : Option (BitVec 2)
  /-- cpol: (evict, policy) -/
  c : Option (BitVec 2 × BitVec 2)
deriving DecidableEq, Repr

namespace Px
def none : Px := ⟨Option.none, Option.none, Option.none, Option.none⟩
def dx (x : Px) : Nat := match x.x with | some (d, _, _) => d.toNat | Option.none => 0
def ax (x : Px) : Nat := match x.x with | some (_, a, _) => a.toNat | Option.none => 0
def bx (x : Px) : Nat := match x.x with | some (_, _, b) => b.toNat | Option.none => 0
/-- Register numbers of a 32-bit instruction (R262). -/
def d (x : Px) (n : BitVec 5) : Nat := x.dx * 32 + n.toNat
def a (x : Px) (n : BitVec 5) : Nat := x.ax * 32 + n.toNat
def b (x : Px) (n : BitVec 5) : Nat := x.bx * 32 + n.toNat
def pairMode (x : Px) : Nat := match x.p with | some m => m.toNat | Option.none => 0
/-- Saturation requested by the prefix (R263). -/
def sat (x : Px) : Bool := match x.r with | some (_, _, s) => s | Option.none => false
/-- The prefix's rounding mode, if it sets one (R263). -/
def rm (x : Px) : Option (BitVec 3) := match x.r with | some (m, true, _) => some m | _ => Option.none
end Px

namespace T64
/-- Modifier bits [hi:lo], numbered as in word 1 (R256). -/
def m (f : T64) (hi lo : Nat) : Nat := fieldN f.md.toNat (lo - 24) (hi + 1 - lo)
/-- One modifier bit. -/
def mb (f : T64) (n : Nat) : Bool := bitN f.md.toNat (n - 24)
/-- Fields named false are reserved and must be zero (R260). -/
def only (f : T64) (d a b c : Bool) : Bool :=
  (d || f.d == 0) && (a || f.a == 0) && (b || f.b == 0) && (c || f.c == 0)
/-- A legal rounding field (R263). -/
def rndOk (f : T64) : Bool := if f.mb 27 then decide (f.m 26 24 ≤ 4) else f.m 26 24 == 0
/-- Saturation requested by the instruction or its prefix (R263). -/
def sat (f : T64) (x : Px) : Bool := f.mb 28 || x.sat
/-- Bit 29 as .d (R285). -/
def dbl (f : T64) : Bool := f.mb 29
/-- Bit 31 as bs (R314). -/
def bs (f : T64) : Bool := f.mb 31
end T64

/-- An even register number. -/
def ev (n : Nat) : Bool := n % 2 == 0

/-- Modifier of a scalar T64 function (R285). -/
def sMd (dOk satOk : Bool) (f : T64) : Bool :=
  f.m 31 30 == 0 && (dOk || !f.dbl) && (satOk || !f.mb 28) && f.m 27 24 == 0

/-- Two-operand scalar T64 function (R285); `sh`: b is a shift count, never a pair. -/
def sTwo (dOk satOk sh : Bool) (f : T64) : Bool :=
  sMd dOk satOk f && f.only true true true false &&
  (!f.dbl || (ev f.d.toNat && ev f.a.toNat && (sh || ev f.b.toNat)))

/-- Scalar long form (R285). -/
def sForm (dOk satOk : Bool) : SForm → Bool
  | .reg f => sTwo dOk satOk false f
  | .imm _ _ _ => true
  | .immD d a _ => ev d.toNat && ev a.toNat

/-- Widths a vector integer function allows (R315). -/
inductive WdSet where | all | wd | wh | w
deriving DecidableEq, Repr

/-- Whether a width is allowed. -/
def WdSet.ok (k : WdSet) (wd : BitVec 2) : Bool :=
  match k with
  | .all => true
  | .wd => wd == 0 || wd == 3
  | .wh => wd != 3
  | .w => wd == 0

/-- T32 vector integer function (R314, R317). -/
def v32 (k : WdSet) (x : Px) (wd : BitVec 2) (b a d : BitVec 5) : Bool :=
  k.ok wd && (wd != 3 || (ev (x.d d) && ev (x.a a) && ev (x.b b)))

/-- Modifier of a vector integer T64 function (R314). -/
def vMd (bsOk satOk : Bool) (f : T64) : Bool :=
  (bsOk || !f.bs) && f.m 30 29 == 0 && (satOk || !f.mb 28) && f.m 27 24 == 0

/-- Vector integer long form with two operands (R314-R319); `sh`: a shift. -/
def vForm (k : WdSet) (satOk sh : Bool) : VForm → Bool
  | .reg wd f => k.ok wd && vMd true satOk f && f.only true true true false &&
      (wd != 3 || (ev f.d.toNat && ev f.a.toNat && ev f.b.toNat))
  | .imm _ _ y => !sh || decide (y.toNat ≤ 31)

/-- A predicate field that may be written (R260, R289). -/
def pdst (n : Nat) : Bool := decide (1 ≤ n) && decide (n ≤ 7)

/-- Position and width of a bit-field function (R285, R317). -/
def bfOk (f : T64) : Bool :=
  decide (f.b.toNat ≤ 31) && decide (1 ≤ f.c.toNat) && decide (f.c.toNat ≤ 32) && decide (f.b.toNat + f.c.toNat ≤ 32)

/-- Register alignment for an access size code (R255): load or store. -/
def szOk (st : Bool) (sz : BitVec 3) (d : Nat) : Bool :=
  match sz.toNat with
  | 3 => ev d
  | 4 => !st
  | 5 => !st
  | 6 => d % 4 == 0
  | 7 => false
  | _ => true

/-- Modifier of a T64 load or store (R328, R330). -/
def ldMd (scr : Bool) (f : T64) : Bool :=
  decide (f.m 31 29 ≤ 5) && (f.mb 28 || f.m 31 29 == 0) &&
  (if scr then decide (f.m 27 25 ≤ 5) else f.m 27 25 == 0) && !f.mb 24

/-- T64 load or store (R328). -/
def ldOk (scr st : Bool) (sz : BitVec 3) (f : T64) : Bool :=
  szOk st sz f.d.toNat && ldMd scr f && (scr || ev f.a.toNat)

/-- M32 load or store (R327). -/
def m32Ok (scr st : Bool) (x : Px) (sz : BitVec 3) (a d : BitVec 5) : Bool :=
  szOk st sz (x.d d) && x.bx == 0 && (scr || ev (x.a a))

/-- Atomics (R333, R335). -/
def atomOk (scr wide : Bool) (op : AtomOp) (f : T64) : Bool :=
  (match op with | .zmin => wide | .fadd => !wide | _ => true) &&
  decide (f.m 31 29 ≤ 5) && (f.m 28 27 != 0 || f.m 31 29 == 0) &&
  (!f.mb 26 || f.d == 0) && f.m 25 24 == 0 && (op == .cas || f.c == 0) &&
  (!wide || (ev f.d.toNat && ev f.b.toNat && ev f.c.toNat)) && (scr || ev f.a.toNat)

/-- Pair and double-word register rules (R264, R357, R359) for numbers d, a, b. -/
def pairOk (x : Px) (f64 : Bool) (d a b : Nat) : Bool :=
  match x.pairMode with
  | 1 => if f64 then d % 4 == 0 else ev d
  | 2 => !f64 && ev d && ev a && ev b
  | _ => true

/-- Evenness of F64 fields d, a, b (R348). -/
def f64Ok (fmt : FFmt) (f : T64) : Bool :=
  fmt != .f64 || (ev f.d.toNat && ev f.a.toNat && ev f.b.toNat)

/-- vfadd, vfsub, vfmul in T64 (R346-R348). -/
def fArith (x : Px) (fmt : FFmt) (f : T64) : Bool :=
  f.rndOk && f.m 30 29 == 0 && f.only true true true false && f64Ok fmt f &&
  pairOk x (fmt == .f64) f.d.toNat f.a.toNat f.b.toNat

/-- vfmin, vfmax in T64. -/
def fSel (fmt : FFmt) (f : T64) : Bool :=
  f.m 30 24 == 0 && f.only true true true false && f64Ok fmt f

/-- vfdiv, vfsqrt, vfrcp (R352). -/
def fDivOk (two : Bool) (fmt : FFmt) (f : T64) : Bool :=
  f.rndOk && f.m 30 29 == 0 && f.only true true two false && (two || !f.bs) && f64Ok fmt f

/-- Element count of a conversion format that is narrow (R354). -/
def cvtElems (c : BitVec 4) : Option Nat :=
  match c.toNat with
  | 2 => some 2
  | 3 => some 2
  | 8 => some 2
  | 9 => some 2
  | 10 => some 4
  | 11 => some 4
  | _ => none

/-- A 64-bit conversion format (R353). -/
def cvtWide (c : BitVec 4) : Bool := c == 1 || c == 6 || c == 7

/-- Conversions (R354). -/
def cvtOk (e : Nat) (src dst : BitVec 4) (a d : Nat) : Bool :=
  decide (src.toNat < 12) && decide (dst.toNat < 12) && src != dst &&
  (decide (src.toNat < 4) || decide (dst.toNat < 4)) &&
  (!cvtWide src || ev a) && (!cvtWide dst || ev d) &&
  (match cvtElems src, cvtElems dst with
   | none, none => e == 0
   | some n, none => decide (e < n)
   | none, some n => decide (e < n)
   | some n, some k => decide (e < n) && decide (e < k))

/-- Engine commands (R380, R382): which spaces the command pairs. -/
def engOk (idx : Bool) (spaces : Nat → Nat → Bool) (mdMax : Nat) (dst src : BitVec 2) (f : T64) : Bool :=
  spaces src.toNat dst.toNat && f.only false true idx false && f.a.toNat % 8 == 0 &&
  decide (f.m 31 29 ≤ 5) && decide (f.m 27 24 ≤ mdMax)

/-- Listed numbers of privileged registers (R310). -/
def pregListed (n : Nat) : Bool :=
  decide (n ≤ 8) || (decide (0x10 ≤ n) && decide (n ≤ 0x18)) || (decide (0x20 ≤ n) && decide (n ≤ 0x26)) ||
  (decide (0x28 ≤ n) && decide (n ≤ 0x30)) || (decide (0x38 ≤ n) && decide (n ≤ 0x40))

/-- 64-bit privileged registers (R310). -/
def pregWide (n : Nat) : Bool :=
  n == 0 || n == 5 || n == 7 || n == 0x10 || n == 0x15 || n == 0x17 || n == 0x22 || n == 0x23 || n == 0x24 ||
  n == 0x26 || (decide (0x29 ≤ n) && decide (n ≤ 0x30)) || (decide (0x39 ≤ n) && decide (n ≤ 0x40))

/-- Instructions modified by xreg: T32, I32, M32 and W32 of the majors marked X (R262, R269). -/
def Instr.takesX : Instr → Bool
  | .saddT32 .. | .ssubT32 .. | .sandT32 .. | .sorT32 .. | .sxorT32 .. | .sshlT32 .. | .sshrT32 .. | .smulT32 ..
  | .sminST32 .. | .sminUT32 .. | .smaxST32 .. | .smaxUT32 .. | .saddi .. | .sandi .. | .sori .. | .sshli ..
  | .sshri .. | .slh .. | .spch .. | .scmp .. | .ssel .. | .kop .. | .kopKs .. | .kopSk .. | .msplit .. | .mjoin ..
  | .sldM32 .. | .sstM32 .. | .vldM32 .. | .vstM32 .. | .pldM32 .. | .pstM32 .. | .markT32 ..
  | .vaddT32 .. | .vaddI32 .. | .vsubT32 .. | .vmulT32 .. | .vmulI32 .. | .vavgT32 .. | .vandT32 .. | .vandI32 ..
  | .vorT32 .. | .vorI32 .. | .vxorT32 .. | .vxorI32 .. | .vandnT32 .. | .vshlT32 .. | .vshlI32 .. | .vshrUT32 ..
  | .vshrST32 .. | .vshrUI32 .. | .vshrSI32 .. | .vrotT32 .. | .vminT32 .. | .vmaxT32 .. | .vabsdT32 .. | .vaddaT32 ..
  | .vbrevT32 .. | .vcntPopT32 .. | .vcntClzT32 .. | .vcntCtzT32 .. | .vcmpT32 .. | .vselT32 .. | .vbcastT32 ..
  | .vextrT32 .. | .vinsT32 .. | .vlidT32 .. | .vkvT32 .. | .vpermT32 .. | .vswzUpT32 .. | .vswzDnT32 ..
  | .vswzXorT32 .. | .vswzRotT32 .. | .vfaddF32T32 .. | .vfaddPackedT32 .. | .vfsubF32T32 .. | .vfsubPackedT32 ..
  | .vfmulF32T32 .. | .vfmulPackedT32 .. | .vfminF32T32 .. | .vfminPackedT32 .. | .vfmaxF32T32 ..
  | .vfmaxPackedT32 .. | .vcvtT32 .. => true
  | _ => false

/-- Instructions that round (R263, R345); a form that converts exactly or only saturates, vbxex to F32 and aadd of S32, counts as its
instruction does (log 94). -/
def Instr.rounds : Instr → Bool
  | .vfaddF32T32 .. | .vfaddPackedT32 .. | .vfaddT64 .. | .vfsubF32T32 .. | .vfsubPackedT32 .. | .vfsubT64 ..
  | .vfmulF32T32 .. | .vfmulPackedT32 .. | .vfmulT64 .. | .vfma .. | .vfdot2 .. | .vfdiv .. | .vfsqrt .. | .vfrcp ..
  | .vcvtT32 .. | .vcvtT64 .. | .vfrnd .. | .vbxex .. | .vdwadd .. | .vdwmul .. | .vdwnorm .. | .vcred .. => true
  | .vtbl k _ => k != .idx
  | .aadd _ => true
  | .acvt _ => true
  | _ => false

/-- Integer functions marked as saturating (R285, R316, R318, R325). -/
def Instr.satMarked : Instr → Bool
  | .saddT32 .. | .saddT64 .. | .ssubT32 .. | .ssubT64 .. | .smulT32 .. | .saddi .. => true
  | .smulT64 f => match f with | .hi _ _ => false | _ => true
  | .vaddT32 .. | .vaddI32 .. | .vaddT64 .. | .vsubT32 .. | .vsubT64 .. | .vmulT32 .. | .vmulI32 .. | .vmulT64 ..
  | .vmad .. => true
  | .vred op _ => op == .addS || op == .addU
  | _ => false

/-- Instructions that pairx modifies (R264, R357, R359). -/
def Instr.takesPair : Instr → Bool
  | .vfaddF32T32 .. | .vfsubF32T32 .. | .vfmulF32T32 .. => true
  | .vfaddT64 fmt _ | .vfsubT64 fmt _ | .vfmulT64 fmt _ => fmt == .f32 || fmt == .f64
  | _ => false

/-- Instructions that cpol modifies (R265, R331, R338, R380). -/
def Instr.takesCpol : Instr → Bool
  | .sldM32 .. | .sstM32 .. | .vldM32 .. | .vstM32 .. | .vldT64 .. | .vstT64 .. | .xld .. | .vpf .. => true
  | .sldT64 scr _ _ | .sstT64 scr _ _ => !scr
  | .vatom scr _ _ _ | .satom scr _ _ _ => !scr
  | .cpy dst src _ | .cpyt dst src _ | .gat dst src _ | .sct dst src _ | .cfill dst src _ => dst == 0 || src == 0
  | .rred .. => true
  | _ => false

/-- Instructions of the majors marked transfer (R269, R270). -/
def Instr.isTransfer : Instr → Bool
  | .b .. | .call .. | .jr .. | .jrL .. | .ljmp .. | .lcall .. | .syscallT32 .. | .syscallT64 .. | .hcallT32 ..
  | .hcallT64 .. | .tretT32 | .tretT64 .. | .exitT32 | .exitT64 .. | .halt .. | .mfp .. | .mtp .. => true
  | _ => false

/-- Whether a prefix instruction modifies `i` (R263-R266). -/
def Instr.modifies (pre i : Instr) : Bool :=
  match pre with
  | .xreg .. => i.takesX
  | .rmode _ rmset sat => if rmset then i.rounds else sat && (i.rounds || i.satMarked)
  | .pairx _ => i.takesPair
  | .cpol _ _ => i.takesCpol
  | _ => false

/-- A prefix word whose payload is legal (R261-R265). -/
def Instr.prefixOk : Instr → Bool
  | .xreg .. => true
  | .rmode rm rmset _ => if rmset then decide (rm.toNat ≤ 4) else rm == 0
  | .pairx m => m == 1 || m == 2
  | .cpol ev _ => ev != 3
  | _ => true

/-- Whether an instruction is legal under the prefixes of its unit. The events are always legal. -/
def Instr.wf (x : Px) (i : Instr) : Bool :=
  match i with
  | .xreg .. | .rmode .. | .pairx .. | .cpol .. => i.prefixOk
  -- scalar
  | .saddT32 .. | .ssubT32 .. | .sandT32 .. | .sorT32 .. | .sxorT32 .. | .sshlT32 .. | .sshrT32 .. | .smulT32 ..
  | .sminST32 .. | .sminUT32 .. | .smaxST32 .. | .smaxUT32 .. => true
  | .saddT64 f => sForm true true f
  | .ssubT64 f => sTwo true true false f
  | .sandT64 f | .sorT64 f | .sxorT64 f =>
    (match f with | .immD .. => false | _ => true) && sForm true false f
  | .sshlT64 f | .sshrT64 _ f => sTwo true false true f
  | .smulT64 f => (match f with
    | .reg f => sTwo false true false f
    | .imm .. => true
    | .hi _ f => sTwo false false false f)
  | .sminT64 _ f | .smaxT64 _ f => (match f with | .immD .. => false | _ => true) && sForm false false f
  | .sdiv _ f => sMd false false f
  | .sbf _ f => sMd false false f && bfOk f
  | .scnt _ f => sMd false false f && f.only true true false false
  | .sset dbl d a _ => a == 0 && (!dbl || ev d.toNat)
  | .saddi .. | .sandi .. | .sori .. => x.bx == 0
  | .sshli imm _ _ | .sshri _ imm _ _ => x.bx == 0 && decide (imm.toNat ≤ 31)
  | .slh .. | .spch .. => x.ax == 0 && x.bx == 0
  | .scmp c _ _ p => decide (c.toNat ≤ 5) && p != 0 && x.dx == 0
  | .ssel .. => true
  | .kop f r _ p => decide (f.toNat ≤ 5) && p != 0 && (decide (f.toNat ≤ 3) || r == 0) &&
      x.dx == 0 && x.ax == 0 && x.bx == 0
  | .kopKs _ p => p != 0 && x.dx == 0 && x.bx == 0
  | .kopSk .. => x.ax == 0 && x.bx == 0
  | .msplit _ _ d => decide (3 ≤ x.d d) && x.ax == 0 && x.bx == 0
  | .mjoin _ => x.dx == 0 && x.bx == 0
  | .b .. | .call .. | .jr .. | .jrL .. => true
  | .ljmp k d a _ => d == 0 && (match k with | .abs => a == 0 | .reg => true | .seg => ev a.toNat)
  | .lcall k d a _ => ev d.toNat && (match k with | .abs => a == 0 | .reg => true | .seg => ev a.toNat)
  -- control
  | .loop imm f => f.d == 0 && (f.b != 0 || f.c != 0) && (imm || f.md == 0)
  | .loopCnt f => f.only true false false false && f.md == 0
  | .barGang f => f.only false false false true && decide (f.c.toNat ≤ 15) && f.md == 0
  | .barFol f => f.only false false false false && f.md == 0
  | .ordbeg f | .ordend f => f.only false true false false && f.md == 0
  | .ordrel f => f.only false false false false && f.md == 0
  | .phase f => f.only false false false true && f.md == 0
  | .clkdiv f => f.only false false false true && decide (2 ≤ f.c.toNat) && decide (f.c.toNat ≤ 32) && f.m 31 26 == 0
  | .rdtick _ f => f.only true false false false && ev f.d.toNat && f.md == 0
  | .inkcal f => f.only true true false false && f.md == 0
  | .mbx f => f.only true false false true && decide (f.c.toNat ≤ 15) && f.md == 0
  | .ipf _ f => f.only false true false true && f.md == 0
  | .fsmov k f => (if k == .rd then f.only true false false false else f.only false true false false) && f.md == 0
  | .dqpush f => f.only false true false false && f.md == 0
  | .dqpop f => f.only true false false false && f.md == 0
  | .syscallT32 _ | .hcallT32 _ | .tretT32 | .exitT32 => true
  | .syscallT64 f | .hcallT64 f => f.only false false false false
  | .tretT64 f | .exitT64 f | .halt f => f.only false false false false && f.md == 0
  | .mfp f => f.only true false false true && f.md == 0 && pregListed f.c.toNat && (!pregWide f.c.toNat || ev f.d.toNat)
  | .mtp f => f.only false true false true && f.md == 0 && pregListed f.c.toNat && (!pregWide f.c.toNat || ev f.a.toNat)
  -- vector integer
  | .vaddT32 _ wd _ rb a d | .vsubT32 _ wd _ rb a d | .vmulT32 _ wd _ rb a d | .vavgT32 _ wd _ rb a d
  | .vminT32 _ wd _ rb a d | .vmaxT32 _ wd _ rb a d | .vabsdT32 _ wd _ rb a d => v32 .all x wd rb a d
  | .vandT32 _ wd rb a d | .vorT32 _ wd rb a d | .vxorT32 _ wd rb a d | .vandnT32 _ wd rb a d => v32 .wd x wd rb a d
  | .vshlT32 _ wd rb a d | .vshrUT32 _ wd rb a d | .vshrST32 _ wd rb a d | .vrotT32 _ wd rb a d => v32 .all x wd rb a d
  | .vaddI32 .. | .vmulI32 .. | .vandI32 .. | .vorI32 .. | .vxorI32 .. => x.bx == 0
  | .vshlI32 imm _ _ | .vshrUI32 imm _ _ | .vshrSI32 imm _ _ => x.bx == 0 && decide (imm.toNat ≤ 31)
  | .vaddT64 _ f | .vsubT64 _ f | .vmulT64 _ f => vForm .all true false f
  | .vavgT64 _ f | .vminT64 _ f | .vmaxT64 _ f | .vabsdT64 _ f => vForm .all false false f
  | .vandT64 f | .vorT64 f | .vxorT64 f | .vandnT64 f => vForm .wd false false f
  | .vshlT64 f | .vshrT64 _ f => vForm .all false true f
  | .vrotT64 f => vForm .all false true f
  | .vaddaT32 _ _ a d => ev (x.d d) && ev (x.a a)
  | .vaddaT64 f => vForm .w false false f && (match f with
    | .reg _ f => ev f.d.toNat && ev f.a.toNat
    | .imm d a _ => ev d.toNat && ev a.toNat)
  | .vbrevT32 .. | .vcntPopT32 .. | .vcntClzT32 .. | .vcntCtzT32 .. => x.bx == 0
  | .vbrevT64 wd f | .vcntT64 _ wd f => wd == 0 && vMd false false f && f.only true true false false
  | .vmad _ wd f => WdSet.wh.ok wd && vMd true true f
  | .vclamp _ wd f => WdSet.wh.ok wd && vMd true false f
  | .vshf wd f => wd == 0 && vMd true false f
  | .vbf _ wd f => wd == 0 && vMd false false f && bfOk f
  | .vbyte wd f => wd == 0 && vMd false false f
  | .vaddc wd f | .vsubb wd f => wd == 0 && vMd true false f && pdst f.c.toNat
  | .vset dbl d a _ => a == 0 && (!dbl || ev d.toNat)
  | .vdiv _ f => f.m 30 24 == 0
  | .vmulhi _ f => f.m 30 24 == 0 && f.c == 0
  | .vmulw _ f => f.m 30 24 == 0 && f.c == 0 && ev f.d.toNat
  -- compares, selects, moves
  | .vcmpT32 _ wd cond rb a p => WdSet.wd.ok wd && decide (cond.toNat ≤ 9) && p != 0 && x.dx == 0 &&
      (wd != 3 || (ev (x.a a) && ev (x.b rb)))
  | .vcmpT64 wd cond f => WdSet.wd.ok wd && decide (cond.toNat ≤ 9) && pdst f.d.toNat && f.m 30 29 != 3 &&
      f.m 28 24 == 0 && (if f.m 30 29 == 0 then f.c == 0 else decide (f.c.toNat ≤ 7)) &&
      (wd != 3 || (ev f.a.toNat && ev f.b.toNat))
  | .vselT32 .. => true
  | .vselT64 f => f.m 28 24 == 0 && decide (f.c.toNat ≤ 7) &&
      (!f.dbl || (ev f.d.toNat && ev f.a.toNat && ev f.b.toNat))
  | .vbcastT32 .. => x.bx == 0
  | .vbcastT64 f => f.only true true false false && f.m 31 30 == 0 && f.m 28 24 == 0 &&
      (!f.dbl || (ev f.d.toNat && ev f.a.toNat))
  | .vextrT32 n _ _ | .vinsT32 n _ _ => x.bx == 0 && decide (n.toNat ≤ 95)
  | .vextrT64 f | .vinsT64 f => f.only true true false true && decide (f.c.toNat ≤ 95) && f.m 31 30 == 0 &&
      f.m 28 24 == 0 && (!f.dbl || (ev f.d.toNat && ev f.a.toNat))
  | .vlidT32 _ | .vkvT32 .. => x.ax == 0 && x.bx == 0
  | .vlidT64 f => f.only true false false false && f.md == 0
  | .vkvT64 f => f.only true false false true && decide (f.c.toNat ≤ 7) && f.md == 0
  | .vpermT32 .. => true
  | .vswzUpT32 n _ _ | .vswzDnT32 n _ _ | .vswzRotT32 n _ _ =>
    x.bx == 0 && decide (1 ≤ n.toNat) && decide (n.toNat ≤ 95)
  | .vswzXorT32 n _ _ => x.bx == 0 && decide (1 ≤ n.toNat)
  | .vpermT64 f => f.only true true true false && f.m 31 30 == 0 && f.m 28 24 == 0 &&
      (!f.dbl || (ev f.d.toNat && ev f.a.toNat))
  | .vswzT64 k f => f.only true true false true && f.m 31 30 == 0 && f.m 28 24 == 0 &&
      (!f.dbl || (ev f.d.toNat && ev f.a.toNat)) && decide (1 ≤ f.c.toNat) &&
      decide (f.c.toNat ≤ (if k == 2 then 127 else 95))
  | .match_ f => f.only true true false true && f.md == 0 && pdst f.c.toNat
  | .vred op f => f.only true true false false && f.m 31 30 == 0 && f.m 27 24 == 0 &&
      (!f.mb 28 || op == .addS || op == .addU) && (!f.dbl || (ev f.d.toNat && ev f.a.toNat))
  | .vscan _ f => f.only true true false false && f.md == 0
  -- memory
  | .sldM32 sz _ a d | .vldM32 sz _ a d => m32Ok false false x sz a d
  | .sstM32 sz _ a d | .vstM32 sz _ a d => m32Ok false true x sz a d
  | .pldM32 sz _ a d => m32Ok true false x sz a d
  | .pstM32 sz _ a d => m32Ok true true x sz a d
  | .sldT64 scr sz f => ldOk scr false sz f
  | .sstT64 scr sz f => ldOk scr true sz f
  | .vldT64 sz f => ldOk false false sz f
  | .vstT64 sz f => ldOk false true sz f
  | .pldT64 sz f => ldOk true false sz f
  | .pstT64 sz f => ldOk true true sz f
  | .vpf _ f => f.d == 0 && f.m 31 25 == 0 && ev f.a.toNat
  | .vatom scr wide op f | .satom scr wide op f => atomOk scr wide op f
  | .xpatSet f => f.only false true false true && decide (f.c.toNat ≤ 3) && f.md == 0
  | .xpatGet f => f.only true false false true && decide (f.c.toNat ≤ 3) && f.md == 0
  | .xld f => ev f.a.toNat && decide (f.c.toNat ≤ 3) && f.md == 0
  | .markT32 form scope => decide (form.toNat ≤ 4) && decide (scope.toNat ≤ 5) && x.dx == 0 && x.ax == 0 && x.bx == 0
  | .markT64 f => f.only false false false false && decide (f.m 31 29 ≤ 5) && decide (f.m 28 26 ≤ 4) && f.m 25 24 == 0
  | .arwait f => f.c == 0 && decide (f.m 31 29 ≤ 5) && (f.mb 28 || f.m 31 29 == 0) && (!f.mb 27 || f.mb 26) &&
      (f.mb 26 || f.d == 0) && f.m 25 24 == 0
  | .arrive f => f.only false true true false && decide (f.m 31 29 ≤ 5) && f.m 28 24 == 0
  -- floating-point
  | .vfaddF32T32 _ rb a d | .vfsubF32T32 _ rb a d | .vfmulF32T32 _ rb a d => pairOk x false (x.d d) (x.a a) (x.b rb)
  | .vfaddPackedT32 .. | .vfsubPackedT32 .. | .vfmulPackedT32 .. | .vfminF32T32 .. | .vfminPackedT32 ..
  | .vfmaxF32T32 .. | .vfmaxPackedT32 .. => true
  | .vfaddT64 fmt f | .vfsubT64 fmt f | .vfmulT64 fmt f => fArith x fmt f
  | .vfminT64 fmt f | .vfmaxT64 fmt f => fSel fmt f
  | .vfma fmt f => f.rndOk && f64Ok fmt f && (fmt != .f64 || ev f.c.toNat)
  | .vfsgn fmt f => f.m 28 24 == 0 && f.only true true true false && f64Ok fmt f &&
      (f.m 30 29 != 3 || (f.b == 0 && !f.bs))
  | .vfclass fmt f => f.md == 0 && f.only true true false false && (fmt != .f64 || ev f.a.toNat)
  | .vfcmp f64 _ f => f.m 28 24 == 0 && pdst f.d.toNat && f.m 30 29 != 3 &&
      (if f.m 30 29 == 0 then f.c == 0 else decide (f.c.toNat ≤ 7)) && (!f64 || (ev f.a.toNat && ev f.b.toNat))
  | .vfdot2 _ f => f.rndOk && f.m 30 29 == 0
  | .vfdiv fmt f => fDivOk true fmt f
  | .vfsqrt fmt f | .vfrcp fmt f => fDivOk false fmt f
  | .vcvtT32 e src dst a d => cvtOk e.toNat src dst (x.a a) (x.d d) && x.bx == 0
  | .vcvtT64 src dst f => cvtOk (f.m 31 30) src dst f.a.toNat f.d.toNat && f.only true true false false &&
      !f.mb 29 && f.rndOk
  | .vfrnd fmt f => f.m 31 29 == 0 && f.rndOk && f.only true true false false &&
      (fmt != .f64 || (ev f.d.toNat && ev f.a.toNat))
  | .vbxpk f => f.m 31 30 != 3 && f.m 29 24 == 0 && f.only true true false false
  | .vbxex f => f.m 31 30 != 3 && !f.mb 29 && f.rndOk && f.only true true false true &&
      (f.c == 0 || f.c == 2 || f.c == 3)
  | .vdwadd f | .vdwmul f => f.rndOk && f.c == 0 && ev f.d.toNat && ev f.a.toNat && (!f.mb 29 || ev f.b.toNat)
  | .vdwnorm f => f.rndOk && f.m 31 29 == 0 && f.only true true false false && ev f.d.toNat && ev f.a.toNat
  | .vcred k f => f.rndOk && f.m 31 29 == 0 && f.only true true false false && (match k with
    | .f32 => ev f.d.toNat
    | .dw => ev f.d.toNat && ev f.a.toNat
    | .f64 => f.d.toNat % 4 == 0 && ev f.a.toNat)
  | .vtbl k f => f.m 31 29 == 0 && (if k == .idx then f.md == 0 else f.rndOk) && f.c == 0 && f.b.toNat % 4 == 0
  -- texture, matrix, engines
  | .tex f | .texl f | .texg f | .texf f => f.md == 0 && f.c == 0 && f.b.toNat % 8 == 0
  | .tex4 f => f.m 29 24 == 0 && f.c == 0 && f.b.toNat % 8 == 0
  | .texq f => f.md == 0 && f.c == 0 && f.b.toNat % 8 == 0 && ev f.d.toNat
  | .mma as _ f => f.b.toNat % 4 == 0 && (!as || f.a.toNat % 4 == 0) && f.m 30 29 == 0
  | .mvote f => pdst f.d.toNat && f.a == 0 && f.b == 0 && f.m 30 24 == 0
  | .aclr f => f.only false true false true && f.md == 0
  | .ald f => f.only true true false false && f.md == 0
  | .ast f => f.only false true true false && f.md == 0
  | .aadd f => f.only false true true false && f.m 31 30 == 0 && f.rndOk
  | .acvt f => f.only true true false false && !f.mb 31 && !f.mb 29 && f.rndOk
  | .acpy f => f.only true true false true && f.md == 0
  | .amax f => f.only true true false true && f.m 31 30 == 0 && f.m 28 24 == 0
  | .abx f => f.only true true false false && !f.mb 31 && f.m 30 29 != 3 && f.m 28 24 == 0
  | .cpy dst src f => engOk false (fun s d => decide (s ≤ 2) && decide (d ≤ 2)) 0 dst src f
  | .cpyt dst src f => engOk false (fun s d => decide (s ≤ 2) && decide (d ≤ 2)) 3 dst src f
  | .gat dst src f => engOk true (fun s d => (s == 0 || s == 2) && decide (d ≤ 2)) 0 dst src f
  | .sct dst src f => engOk true (fun s d => s == 1 && (d == 0 || d == 2)) 0 dst src f
  | .cfill dst src f => engOk false (fun s d => s == 3 && decide (d ≤ 2)) 0 dst src f
  | .rred dst src f => engOk false (fun s d => s == 1 && d == 0) 6 dst src f
  | .edrain f => f.only false false false false && decide (f.m 31 29 ≤ 5) && f.m 28 24 == 0
  | .ecnt f => f.only true false false false && f.md == 0
  | _ => true

/-- Instructions that raise the illegal-instruction trap in the nib (R205, R282, R337, R365). -/
def Instr.nibIllegal : Instr → Bool
  | .msplit .. | .mjoin .. | .dqpop .. | .ordbeg .. | .ordend .. | .ordrel .. | .syscallT32 .. | .syscallT64 ..
  | .hcallT32 .. | .hcallT64 .. | .tretT32 | .tretT64 .. | .halt .. | .mfp .. | .mtp ..
  | .xpatSet .. | .xpatGet .. | .xld .. => true
  | .vaddT32 .. | .vaddI32 .. | .vaddT64 .. | .vsubT32 .. | .vsubT64 .. | .vmulT32 .. | .vmulI32 .. | .vmulT64 ..
  | .vavgT32 .. | .vavgT64 .. | .vandT32 .. | .vandI32 .. | .vandT64 .. | .vorT32 .. | .vorI32 .. | .vorT64 ..
  | .vxorT32 .. | .vxorI32 .. | .vxorT64 .. | .vandnT32 .. | .vandnT64 .. | .vshlT32 .. | .vshlI32 .. | .vshlT64 ..
  | .vshrUT32 .. | .vshrST32 .. | .vshrUI32 .. | .vshrSI32 .. | .vshrT64 .. | .vrotT32 .. | .vrotT64 .. | .vminT32 ..
  | .vminT64 .. | .vmaxT32 .. | .vmaxT64 .. | .vabsdT32 .. | .vabsdT64 .. | .vaddaT32 .. | .vaddaT64 .. | .vbrevT32 ..
  | .vbrevT64 .. | .vcntPopT32 .. | .vcntClzT32 .. | .vcntCtzT32 .. | .vcntT64 .. | .vmad .. | .vclamp .. | .vshf ..
  | .vbf .. | .vbyte .. | .vaddc .. | .vsubb .. | .vset .. | .vdiv .. | .vmulhi .. | .vmulw .. | .vcmpT32 ..
  | .vcmpT64 .. | .vselT32 .. | .vselT64 .. | .vbcastT32 .. | .vbcastT64 .. | .vextrT32 .. | .vextrT64 ..
  | .vinsT32 .. | .vinsT64 .. | .vlidT32 .. | .vlidT64 .. | .vkvT32 .. | .vkvT64 .. | .vpermT32 .. | .vswzUpT32 ..
  | .vswzDnT32 .. | .vswzXorT32 .. | .vswzRotT32 .. | .vpermT64 .. | .vswzT64 .. | .match_ .. | .vred .. | .vscan ..
  | .vldM32 .. | .vldT64 .. | .vstM32 .. | .vstT64 .. | .pldM32 .. | .pldT64 .. | .pstM32 .. | .pstT64 ..
  | .vatom .. => true
  | .vpf scalar _ => !scalar
  | .vfaddF32T32 .. | .vfaddPackedT32 .. | .vfaddT64 .. | .vfsubF32T32 .. | .vfsubPackedT32 .. | .vfsubT64 ..
  | .vfmulF32T32 .. | .vfmulPackedT32 .. | .vfmulT64 .. | .vfminF32T32 .. | .vfminPackedT32 .. | .vfminT64 ..
  | .vfmaxF32T32 .. | .vfmaxPackedT32 .. | .vfmaxT64 .. | .vfma .. | .vfsgn .. | .vfclass .. | .vfcmp .. | .vfdot2 ..
  | .vfdiv .. | .vfsqrt .. | .vfrcp .. | .vcvtT32 .. | .vcvtT64 .. | .vfrnd .. | .vbxpk .. | .vbxex .. | .vdwadd ..
  | .vdwmul .. | .vdwnorm .. | .vcred .. | .vtbl .. => true
  | .tex .. | .texl .. | .texg .. | .texf .. | .tex4 .. | .texq .. | .mma .. | .mvote .. | .aclr .. | .ald .. | .ast ..
  | .aadd .. | .acvt .. | .acpy .. | .amax .. | .abx .. => true
  | _ => false

end Sys2Proof
end

