-- ==== Sys2Proof/Decode.lean ====
section
/-! DEFINITION. From words to instructions and back (10 R251-R271 and the encoding tables of 11-14). The decoder reads
the pattern of a row and refuses every other word; Instr.wf says which of the forms are legal. The encoder is after it. -/
namespace Sys2Proof
open Sys2Proof.Machine

/-! ## Fields of a word -/

/-- The field of n bits from bit lo of a word. -/
def fld (w : Word) (lo n : Nat) : BitVec n := w.extractLsb' lo n

/-- The length class of a word, bits [1:0] (R251). -/
inductive WordClass where | short | long | pre
deriving DecidableEq, Repr

def wordClass (w : Word) : WordClass :=
  match (fld w 0 2).toNat with
  | 1 => .long
  | 3 => .pre
  | _ => .short

/-- The class of a prefix word, bits [4:2] (R261). -/
def prefixClass (w : Word) : Nat := (fld w 2 3).toNat

/-- The 32-bit major number (R254). -/
def major32 (w : Word) : Nat := (if (fld w 0 2).toNat = 2 then 32 else 0) + (fld w 2 5).toNat

/-- Bit n of a function field. -/
def fbit {k : Nat} (f : BitVec k) (n : Nat) : Bool := f.getLsbD n

/-! ## 32-bit forms -/

/-- 32-bit major 1 (R284). -/
def decS32 (fn : BitVec 10) (rb ra rd : BitVec 5) : Option Instr :=
  match fn.toNat with
  | 0x00 => some (.saddT32 rd ra rb)
  | 0x01 => some (.ssubT32 rd ra rb)
  | 0x02 => some (.sandT32 rd ra rb)
  | 0x03 => some (.sorT32 rd ra rb)
  | 0x04 => some (.sxorT32 rd ra rb)
  | 0x05 => some (.sshlT32 rd ra rb)
  | 0x06 => some (.sshrT32 false rd ra rb)
  | 0x07 => some (.sshrT32 true rd ra rb)
  | 0x08 => some (.smulT32 rd ra rb)
  | 0x09 => some (.sminST32 rd ra rb)
  | 0x0A => some (.sminUT32 rd ra rb)
  | 0x0B => some (.smaxST32 rd ra rb)
  | 0x0C => some (.smaxUT32 rd ra rb)
  | _ => none

/-- 32-bit major 2 (R287). -/
def decSI (fn3 : BitVec 3) (imm : BitVec 12) (ra rd : BitVec 5) : Option Instr :=
  match fn3.toNat with
  | 0 => some (.saddi imm ra rd)
  | 1 => some (.sandi imm ra rd)
  | 2 => some (.sori imm ra rd)
  | 3 => some (.sshli imm ra rd)
  | 4 => some (.sshri false imm ra rd)
  | 5 => some (.sshri true imm ra rd)
  | _ => none

/-- 32-bit major 5 (R289). -/
def decSC (fn : BitVec 10) (rb ra rd : BitVec 5) : Option Instr :=
  if fn.extractLsb' 3 7 = 0 then
    if rd.extractLsb' 3 2 = 0 then some (.scmp (fn.extractLsb' 0 3) rb ra (rd.extractLsb' 0 3)) else none
  else if fn.extractLsb' 4 6 = 2 then some (.ssel (fbit fn 3) (fn.extractLsb' 0 3) rb ra rd)
  else none

/-- 32-bit major 6 (R290). -/
def decKM (fn : BitVec 10) (rb ra rd : BitVec 5) : Option Instr :=
  if fn.extractLsb' 3 7 = 0 then
    if rb.extractLsb' 3 2 = 0 ∧ ra.extractLsb' 3 2 = 0 ∧ rd.extractLsb' 3 2 = 0 then
      some (.kop (fn.extractLsb' 0 3) (rb.extractLsb' 0 3) (ra.extractLsb' 0 3) (rd.extractLsb' 0 3))
    else none
  else if rb ≠ 0 then none
  else match fn.toNat with
  | 0x08 => if rd.extractLsb' 3 2 = 0 then some (.kopKs ra (rd.extractLsb' 0 3)) else none
  | 0x09 => if ra.extractLsb' 3 2 = 0 then some (.kopSk (ra.extractLsb' 0 3) rd) else none
  | 0x10 => if ra.extractLsb' 3 2 = 0 then some (.msplit false (ra.extractLsb' 0 3) rd) else none
  | 0x11 => if ra.extractLsb' 3 2 = 0 then some (.msplit true (ra.extractLsb' 0 3) rd) else none
  | 0x18 => if rd = 0 then some (.mjoin ra) else none
  | _ => none

/-- 32-bit major 10 (R292). -/
def decJR (fn : BitVec 10) (rb ra rd : BitVec 5) : Option Instr :=
  if rb ≠ 0 then none
  else match fn.toNat with
  | 0 => if rd = 0 then some (.jr ra) else none
  | 1 => some (.jrL ra rd)
  | _ => none

/-- 32-bit major 11 (R306). -/
def decSys (fn : BitVec 10) (rb ra rd : BitVec 5) : Option Instr :=
  if rb ≠ 0 ∨ ra ≠ 0 ∨ rd ≠ 0 then none
  else match (fn.extractLsb' 8 2).toNat with
  | 0 => some (.syscallT32 (fn.extractLsb' 0 8))
  | 1 => some (.hcallT32 (fn.extractLsb' 0 8))
  | 2 => if fn.extractLsb' 0 8 = 0 then some .tretT32 else none
  | _ => if fn.extractLsb' 0 8 = 0 then some .exitT32 else none

/-- 32-bit major 32 (R314, R315). -/
def decV32 (fn : BitVec 10) (rb ra rd : BitVec 5) : Option Instr :=
  let bs := fbit fn 8
  let wd : BitVec 2 := fn.extractLsb' 6 2
  if fbit fn 9 then none
  else match (fn.extractLsb' 0 6).toNat with
  | 0x00 => some (.vaddT32 bs wd false rb ra rd)
  | 0x01 => some (.vaddT32 bs wd true rb ra rd)
  | 0x02 => some (.vsubT32 bs wd false rb ra rd)
  | 0x03 => some (.vsubT32 bs wd true rb ra rd)
  | 0x04 => some (.vmulT32 bs wd false rb ra rd)
  | 0x05 => some (.vmulT32 bs wd true rb ra rd)
  | 0x06 => some (.vavgT32 bs wd false rb ra rd)
  | 0x07 => some (.vavgT32 bs wd true rb ra rd)
  | 0x08 => some (.vandT32 bs wd rb ra rd)
  | 0x09 => some (.vorT32 bs wd rb ra rd)
  | 0x0A => some (.vxorT32 bs wd rb ra rd)
  | 0x0B => some (.vandnT32 bs wd rb ra rd)
  | 0x0C => some (.vshlT32 bs wd rb ra rd)
  | 0x0D => some (.vshrUT32 bs wd rb ra rd)
  | 0x0E => some (.vshrST32 bs wd rb ra rd)
  | 0x0F => some (.vrotT32 bs wd rb ra rd)
  | 0x10 => some (.vminT32 bs wd false rb ra rd)
  | 0x11 => some (.vminT32 bs wd true rb ra rd)
  | 0x12 => some (.vmaxT32 bs wd false rb ra rd)
  | 0x13 => some (.vmaxT32 bs wd true rb ra rd)
  | 0x14 => some (.vabsdT32 bs wd false rb ra rd)
  | 0x15 => some (.vabsdT32 bs wd true rb ra rd)
  | 0x18 => if wd = 0 then some (.vaddaT32 bs rb ra rd) else none
  | 0x19 => if wd = 0 ∧ bs = false ∧ rb = 0 then some (.vbrevT32 ra rd) else none
  | 0x1A => if wd = 0 ∧ bs = false ∧ rb = 0 then some (.vcntPopT32 ra rd) else none
  | 0x1B => if wd = 0 ∧ bs = false ∧ rb = 0 then some (.vcntClzT32 ra rd) else none
  | 0x1C => if wd = 0 ∧ bs = false ∧ rb = 0 then some (.vcntCtzT32 ra rd) else none
  | _ => none

/-- 32-bit major 33 (R318). -/
def decVI (fn3 : BitVec 3) (imm : BitVec 12) (ra rd : BitVec 5) : Option Instr :=
  match fn3.toNat with
  | 0 => some (.vaddI32 imm ra rd)
  | 1 => some (.vandI32 imm ra rd)
  | 2 => some (.vorI32 imm ra rd)
  | 3 => some (.vxorI32 imm ra rd)
  | 4 => some (.vshlI32 imm ra rd)
  | 5 => some (.vshrUI32 imm ra rd)
  | 6 => some (.vshrSI32 imm ra rd)
  | _ => some (.vmulI32 imm ra rd)

/-- 32-bit major 34 (R346). -/
def decF32 (fn : BitVec 10) (rb ra rd : BitVec 5) : Option Instr :=
  let bs := fbit fn 8
  if fbit fn 9 ∨ fn.extractLsb' 3 5 ≠ 0 then none
  else match (fn.extractLsb' 0 3).toNat with
  | 0 => some (.vfaddF32T32 bs rb ra rd)
  | 1 => some (.vfsubF32T32 bs rb ra rd)
  | 2 => some (.vfmulF32T32 bs rb ra rd)
  | 3 => some (.vfminF32T32 bs rb ra rd)
  | 4 => some (.vfmaxF32T32 bs rb ra rd)
  | _ => none

/-- 32-bit major 35 (R346). -/
def decFP (fn : BitVec 10) (rb ra rd : BitVec 5) : Option Instr :=
  let bs := fbit fn 8
  let bf := fbit fn 4
  if fbit fn 9 ∨ fn.extractLsb' 5 3 ≠ 0 ∨ fbit fn 3 then none
  else match (fn.extractLsb' 0 3).toNat with
  | 0 => some (.vfaddPackedT32 bs bf rb ra rd)
  | 1 => some (.vfsubPackedT32 bs bf rb ra rd)
  | 2 => some (.vfmulPackedT32 bs bf rb ra rd)
  | 3 => some (.vfminPackedT32 bs bf rb ra rd)
  | 4 => some (.vfmaxPackedT32 bs bf rb ra rd)
  | _ => none

/-- 32-bit major 36 (R321). -/
def decVC (fn : BitVec 10) (rb ra rd : BitVec 5) : Option Instr :=
  if fbit fn 9 ∨ fn.extractLsb' 6 2 ≠ 0 ∨ rd.extractLsb' 3 2 ≠ 0 then none
  else some (.vcmpT32 (fbit fn 8) (fn.extractLsb' 4 2) (fn.extractLsb' 0 4) rb ra (rd.extractLsb' 0 3))

/-- 32-bit major 37 (R322). -/
def decVM (fn : BitVec 10) (rb ra rd : BitVec 5) : Option Instr :=
  let arg : BitVec 7 := fn.extractLsb' 0 7
  match (fn.extractLsb' 7 3).toNat with
  | 0 => if arg.extractLsb' 4 3 = 0 then some (.vselT32 (fbit arg 3) (arg.extractLsb' 0 3) rb ra rd) else none
  | 1 => if arg = 0 ∧ rb = 0 then some (.vbcastT32 ra rd) else none
  | 2 => if rb = 0 then some (.vextrT32 arg ra rd) else none
  | 3 => if rb = 0 then some (.vinsT32 arg ra rd) else none
  | 4 => if arg = 0 ∧ rb = 0 ∧ ra = 0 then some (.vlidT32 rd) else none
  | 5 => if arg.extractLsb' 3 4 = 0 ∧ rb = 0 ∧ ra = 0 then some (.vkvT32 (arg.extractLsb' 0 3) rd) else none
  | _ => none

/-- 32-bit major 38 (R323). -/
def decVP (fn : BitVec 10) (rb ra rd : BitVec 5) : Option Instr :=
  let n : BitVec 7 := fn.extractLsb' 0 7
  match (fn.extractLsb' 7 3).toNat with
  | 0 => if n = 0 then some (.vpermT32 rb ra rd) else none
  | 1 => if rb = 0 then some (.vswzUpT32 n ra rd) else none
  | 2 => if rb = 0 then some (.vswzDnT32 n ra rd) else none
  | 3 => if rb = 0 then some (.vswzXorT32 n ra rd) else none
  | 4 => if rb = 0 then some (.vswzRotT32 n ra rd) else none
  | _ => none

/-- A 32-bit instruction word. -/
def decode32 (w : Word) : Option Instr :=
  let fn := fld w 22 10
  let rb := fld w 17 5
  let ra := fld w 12 5
  let rd := fld w 7 5
  let fn3 := fld w 29 3
  let imm := fld w 17 12
  match major32 w with
  | 1 => decS32 fn rb ra rd
  | 2 => decSI fn3 imm ra rd
  | 3 => some (.slh (fld w 12 20) rd)
  | 4 => some (.spch (fld w 12 20) rd)
  | 5 => decSC fn rb ra rd
  | 6 => decKM fn rb ra rd
  | 8 => some (.b (fld w 11 21) (fbit w 10) (fld w 7 3))
  | 9 => some (.call (fld w 11 21) (fbit w 10) (fld w 7 3))
  | 10 => decJR fn rb ra rd
  | 11 => decSys fn rb ra rd
  | 12 => some (.sldM32 fn3 imm ra rd)
  | 13 => some (.sstM32 fn3 imm ra rd)
  | 14 => some (.vldM32 fn3 imm ra rd)
  | 15 => some (.vstM32 fn3 imm ra rd)
  | 16 => some (.pldM32 fn3 imm ra rd)
  | 17 => some (.pstM32 fn3 imm ra rd)
  | 18 => if fn.extractLsb' 6 4 = 0 ∧ rb = 0 ∧ ra = 0 ∧ rd = 0 then
      some (.markT32 (fn.extractLsb' 3 3) (fn.extractLsb' 0 3)) else none
  | 32 => decV32 fn rb ra rd
  | 33 => decVI fn3 imm ra rd
  | 34 => decF32 fn rb ra rd
  | 35 => decFP fn rb ra rd
  | 36 => decVC fn rb ra rd
  | 37 => decVM fn rb ra rd
  | 38 => decVP fn rb ra rd
  | 39 => if rb = 0 then some (.vcvtT32 (fn.extractLsb' 8 2) (fn.extractLsb' 4 4) (fn.extractLsb' 0 4) ra rd) else none
  | _ => none

/-! ## 64-bit forms -/

/-- The T64 fields of two words (R256). -/
def T64.ofWords (w0 w1 : Word) : T64 :=
  { d := fld w0 8 8, a := fld w0 16 8, b := fld w0 24 8, c := fld w1 0 8, md := fld w1 24 8, hint := fld w1 12 4,
    gneg := fbit w1 11, guard := fld w1 8 3 }

/-- Atomic operation codes (R334). -/
def atomOf (n : Nat) : Option AtomOp :=
  match n with
  | 0 => some .add
  | 1 => some .minS
  | 2 => some .minU
  | 3 => some .maxS
  | 4 => some .maxU
  | 5 => some .and
  | 6 => some .or
  | 7 => some .xor
  | 8 => some .xchg
  | 9 => some .cas
  | 10 => some .zmin
  | 11 => some .fadd
  | _ => none

/-- 64-bit major 1 (R284). -/
def dec64m1 (f : T64) (fn : BitVec 8) : Option Instr :=
  match fn.toNat with
  | 0x00 => some (.saddT64 (.reg f))
  | 0x01 => some (.ssubT64 f)
  | 0x02 => some (.sandT64 (.reg f))
  | 0x03 => some (.sorT64 (.reg f))
  | 0x04 => some (.sxorT64 (.reg f))
  | 0x05 => some (.sshlT64 f)
  | 0x06 => some (.sshrT64 false f)
  | 0x07 => some (.sshrT64 true f)
  | 0x08 => some (.smulT64 (.reg f))
  | 0x09 => some (.sminT64 true (.reg f))
  | 0x0A => some (.sminT64 false (.reg f))
  | 0x0B => some (.smaxT64 true (.reg f))
  | 0x0C => some (.smaxT64 false (.reg f))
  | 0x10 => some (.smulT64 (.hi true f))
  | 0x11 => some (.smulT64 (.hi false f))
  | 0x12 => some (.sdiv true f)
  | 0x13 => some (.sdiv false f)
  | 0x14 => some (.sbf .extractU f)
  | 0x15 => some (.sbf .extractS f)
  | 0x16 => some (.sbf .insert f)
  | 0x18 => some (.scnt .pop f)
  | 0x19 => some (.scnt .clz f)
  | 0x1A => some (.scnt .ctz f)
  | _ => none

/-- 64-bit major 4 (R294). -/
def dec64m4 (f : T64) (fn : BitVec 8) : Option Instr :=
  match fn.toNat with
  | 0x00 => some (.loop false f)
  | 0x01 => some (.loop true f)
  | 0x02 => some (.loopCnt f)
  | 0x08 => some (.barGang f)
  | 0x09 => some (.barFol f)
  | 0x10 => some (.ordbeg f)
  | 0x11 => some (.ordend f)
  | 0x12 => some (.ordrel f)
  | 0x18 => some (.phase f)
  | 0x19 => some (.clkdiv f)
  | 0x20 => some (.rdtick false f)
  | 0x21 => some (.rdtick true f)
  | 0x22 => some (.inkcal f)
  | 0x23 => some (.mbx f)
  | 0x28 => some (.ipf .pf f)
  | 0x29 => some (.ipf .pin f)
  | 0x2A => some (.ipf .unpin f)
  | 0x30 => some (.fsmov .rd f)
  | 0x31 => some (.fsmov .wr f)
  | 0x32 => some (.fsmov .clr f)
  | _ => none

/-- 64-bit major 5 (R294). -/
def dec64m5 (f : T64) (fn : BitVec 8) : Option Instr :=
  match fn.toNat with
  | 0x00 => some (.dqpush f)
  | 0x01 => some (.dqpop f)
  | _ => none

/-- 64-bit major 6 (R306). -/
def dec64m6 (f : T64) (fn : BitVec 8) : Option Instr :=
  match fn.toNat with
  | 0x00 => some (.syscallT64 f)
  | 0x01 => some (.hcallT64 f)
  | 0x02 => some (.tretT64 f)
  | 0x03 => some (.exitT64 f)
  | 0x04 => some (.halt f)
  | 0x08 => some (.mfp f)
  | 0x09 => some (.mtp f)
  | _ => none

/-- 64-bit major 9 (R320). -/
def dec64m9 (f : T64) (fn : BitVec 8) : Option Instr :=
  match fn.toNat with
  | 0x00 => some (.vdiv false f)
  | 0x01 => some (.vdiv true f)
  | 0x02 => some (.vmulhi false f)
  | 0x03 => some (.vmulhi true f)
  | 0x04 => some (.vmulw false f)
  | 0x05 => some (.vmulw true f)
  | _ => none

/-- 64-bit major 11 (R323, R324). -/
def dec64m11 (f : T64) (fn : BitVec 8) : Option Instr :=
  match fn.toNat with
  | 0x00 => some (.vpermT64 f)
  | 0x01 => some (.vswzT64 0 f)
  | 0x02 => some (.vswzT64 1 f)
  | 0x03 => some (.vswzT64 2 f)
  | 0x04 => some (.vswzT64 3 f)
  | 0x08 => some (.match_ f)
  | _ => none

/-- 64-bit major 12 (R325, R326). -/
def dec64m12 (f : T64) (fn : BitVec 8) : Option Instr :=
  match fn.toNat with
  | 0x00 => some (.vred .addS f)
  | 0x01 => some (.vred .addU f)
  | 0x02 => some (.vred .minS f)
  | 0x03 => some (.vred .minU f)
  | 0x04 => some (.vred .maxS f)
  | 0x05 => some (.vred .maxU f)
  | 0x06 => some (.vred .and f)
  | 0x07 => some (.vred .or f)
  | 0x08 => some (.vred .xor f)
  | 0x10 => some (.vscan false f)
  | 0x11 => some (.vscan true f)
  | _ => none

/-- 64-bit major 13 (R347). -/
def dec64m13 (f : T64) (fn : BitVec 8) : Option Instr :=
  if fn.extractLsb' 3 5 = 2 then some (.vfcmp true (fn.extractLsb' 0 3) f)
  else match fn.toNat with
  | 0x00 => some (.vfaddT64 .f64 f)
  | 0x01 => some (.vfsubT64 .f64 f)
  | 0x02 => some (.vfmulT64 .f64 f)
  | 0x03 => some (.vfminT64 .f64 f)
  | 0x04 => some (.vfmaxT64 .f64 f)
  | 0x05 => some (.vfma .f64 f)
  | 0x06 => some (.vfsgn .f64 f)
  | 0x07 => some (.vfclass .f64 f)
  | _ => none

/-- 64-bit major 14 (R347). -/
def dec64m14 (f : T64) (fn : BitVec 8) : Option Instr :=
  if fn.extractLsb' 3 5 = 2 then some (.vfcmp false (fn.extractLsb' 0 3) f)
  else match fn.toNat with
  | 0x00 => some (.vfaddT64 .f32 f)
  | 0x01 => some (.vfsubT64 .f32 f)
  | 0x02 => some (.vfmulT64 .f32 f)
  | 0x03 => some (.vfminT64 .f32 f)
  | 0x04 => some (.vfmaxT64 .f32 f)
  | 0x05 => some (.vfma .f32 f)
  | 0x06 => some (.vfsgn .f32 f)
  | 0x07 => some (.vfclass .f32 f)
  | _ => none

/-- 64-bit major 15 (R347). -/
def dec64m15 (f : T64) (fn : BitVec 8) : Option Instr :=
  match fn.toNat with
  | 0x00 => some (.vfaddT64 .f16 f)
  | 0x01 => some (.vfsubT64 .f16 f)
  | 0x02 => some (.vfmulT64 .f16 f)
  | 0x03 => some (.vfminT64 .f16 f)
  | 0x04 => some (.vfmaxT64 .f16 f)
  | 0x05 => some (.vfma .f16 f)
  | 0x06 => some (.vfsgn .f16 f)
  | 0x07 => some (.vfclass .f16 f)
  | 0x20 => some (.vfdot2 false f)
  | 0x80 => some (.vfaddT64 .bf16 f)
  | 0x81 => some (.vfsubT64 .bf16 f)
  | 0x82 => some (.vfmulT64 .bf16 f)
  | 0x83 => some (.vfminT64 .bf16 f)
  | 0x84 => some (.vfmaxT64 .bf16 f)
  | 0x85 => some (.vfma .bf16 f)
  | 0x86 => some (.vfsgn .bf16 f)
  | 0x87 => some (.vfclass .bf16 f)
  | 0xA0 => some (.vfdot2 true f)
  | _ => none

/-- 64-bit major 16 (R352). -/
def dec64m16 (f : T64) (fn : BitVec 8) : Option Instr :=
  match fn.toNat with
  | 0x00 => some (.vfdiv .f32 f)
  | 0x01 => some (.vfdiv .f64 f)
  | 0x02 => some (.vfdiv .f16 f)
  | 0x03 => some (.vfdiv .bf16 f)
  | 0x04 => some (.vfsqrt .f32 f)
  | 0x05 => some (.vfsqrt .f64 f)
  | 0x06 => some (.vfsqrt .f16 f)
  | 0x07 => some (.vfsqrt .bf16 f)
  | 0x08 => some (.vfrcp .f32 f)
  | 0x09 => some (.vfrcp .f64 f)
  | 0x0A => some (.vfrcp .f16 f)
  | 0x0B => some (.vfrcp .bf16 f)
  | _ => none

/-- 64-bit major 18 (R359, R360). -/
def dec64m18 (f : T64) (fn : BitVec 8) : Option Instr :=
  match fn.toNat with
  | 0x00 => some (.vdwadd f)
  | 0x01 => some (.vdwmul f)
  | 0x02 => some (.vdwnorm f)
  | 0x10 => some (.vcred .f32 f)
  | 0x11 => some (.vcred .dw f)
  | 0x12 => some (.vcred .f64 f)
  | _ => none

/-- 64-bit major 23 (R337, R338). -/
def dec64m23 (f : T64) (fn : BitVec 8) : Option Instr :=
  match fn.toNat with
  | 0x00 => some (.xld f)
  | 0x10 => some (.xpatSet f)
  | 0x11 => some (.xpatGet f)
  | _ => none

/-- 64-bit major 24 (R339-R341). -/
def dec64m24 (f : T64) (fn : BitVec 8) : Option Instr :=
  match fn.toNat with
  | 0x00 => some (.markT64 f)
  | 0x08 => some (.arwait f)
  | 0x10 => some (.arrive f)
  | _ => none

/-- 64-bit major 25 (R362). -/
def dec64m25 (f : T64) (fn : BitVec 8) : Option Instr :=
  match fn.toNat with
  | 0x00 => some (.vtbl .idx f)
  | 0x01 => some (.vtbl .lin f)
  | 0x02 => some (.vtbl .quad f)
  | _ => none

/-- 64-bit major 26 (R389). -/
def dec64m26 (f : T64) (fn : BitVec 8) : Option Instr :=
  match fn.toNat with
  | 0x00 => some (.tex f)
  | 0x01 => some (.texl f)
  | 0x02 => some (.texg f)
  | 0x03 => some (.texf f)
  | 0x04 => some (.tex4 f)
  | 0x05 => some (.texq f)
  | _ => none

/-- 64-bit major 27 (R367). -/
def dec64m27 (f : T64) (fn : BitVec 8) : Option Instr :=
  match fn.toNat with
  | 0x00 => some (.mma false false f)
  | 0x10 => some (.mma false true f)
  | 0x20 => some (.mma true false f)
  | 0x30 => some (.mma true true f)
  | 0x40 => some (.mvote f)
  | _ => none

/-- 64-bit major 28 (R377). -/
def dec64m28 (f : T64) (fn : BitVec 8) : Option Instr :=
  match fn.toNat with
  | 0x00 => some (.aclr f)
  | 0x01 => some (.ald f)
  | 0x02 => some (.ast f)
  | 0x03 => some (.aadd f)
  | 0x04 => some (.acvt f)
  | 0x05 => some (.acpy f)
  | 0x06 => some (.amax f)
  | 0x07 => some (.abx f)
  | _ => none

/-- 64-bit major 17 (R353-R356). -/
def dec64m17 (f : T64) (fn : BitVec 8) : Option Instr :=
  if fn.toNat < 0xC0 then some (.vcvtT64 (fn.extractLsb' 4 4) (fn.extractLsb' 0 4) f)
  else match fn.toNat with
  | 0xE0 => some (.vfrnd .f32 f)
  | 0xE1 => some (.vfrnd .f64 f)
  | 0xE2 => some (.vfrnd .f16 f)
  | 0xE3 => some (.vfrnd .bf16 f)
  | 0xF0 => some (.vbxpk f)
  | 0xF1 => some (.vbxex f)
  | _ => none

/-- 64-bit major 2 (R284): fn8 is the b field. -/
def dec64m2 (fn8 rd ra : BitVec 8) (y : Word) : Option Instr :=
  match fn8.toNat with
  | 0x00 => some (.saddT64 (.imm rd ra y))
  | 0x02 => some (.sandT64 (.imm rd ra y))
  | 0x03 => some (.sorT64 (.imm rd ra y))
  | 0x04 => some (.sxorT64 (.imm rd ra y))
  | 0x08 => some (.smulT64 (.imm rd ra y))
  | 0x09 => some (.sminT64 true (.imm rd ra y))
  | 0x0A => some (.sminT64 false (.imm rd ra y))
  | 0x0B => some (.smaxT64 true (.imm rd ra y))
  | 0x0C => some (.smaxT64 false (.imm rd ra y))
  | 0x20 => some (.sset false rd ra y)
  | 0x40 => some (.saddT64 (.immD rd ra y))
  | 0x60 => some (.sset true rd ra y)
  | _ => none

/-- 64-bit major 3 (R293): fn8 is the b field. -/
def dec64m3 (fn8 rd ra : BitVec 8) (y : Word) : Option Instr :=
  match fn8.toNat with
  | 0x00 => some (.ljmp .abs rd ra y)
  | 0x01 => some (.ljmp .reg rd ra y)
  | 0x02 => some (.ljmp .seg rd ra y)
  | 0x10 => some (.lcall .abs rd ra y)
  | 0x11 => some (.lcall .reg rd ra y)
  | 0x12 => some (.lcall .seg rd ra y)
  | _ => none

/-- 64-bit major 8 (R319): fn8 is the b field. -/
def dec64m8 (fn8 rd ra : BitVec 8) (y : Word) : Option Instr :=
  match fn8.toNat with
  | 0x00 => some (.vaddT64 false (.imm rd ra y))
  | 0x01 => some (.vaddT64 true (.imm rd ra y))
  | 0x02 => some (.vsubT64 false (.imm rd ra y))
  | 0x03 => some (.vsubT64 true (.imm rd ra y))
  | 0x04 => some (.vmulT64 false (.imm rd ra y))
  | 0x05 => some (.vmulT64 true (.imm rd ra y))
  | 0x06 => some (.vavgT64 false (.imm rd ra y))
  | 0x07 => some (.vavgT64 true (.imm rd ra y))
  | 0x08 => some (.vandT64 (.imm rd ra y))
  | 0x09 => some (.vorT64 (.imm rd ra y))
  | 0x0A => some (.vxorT64 (.imm rd ra y))
  | 0x0B => some (.vandnT64 (.imm rd ra y))
  | 0x0C => some (.vshlT64 (.imm rd ra y))
  | 0x0D => some (.vshrT64 false (.imm rd ra y))
  | 0x0E => some (.vshrT64 true (.imm rd ra y))
  | 0x0F => some (.vrotT64 (.imm rd ra y))
  | 0x10 => some (.vminT64 false (.imm rd ra y))
  | 0x11 => some (.vminT64 true (.imm rd ra y))
  | 0x12 => some (.vmaxT64 false (.imm rd ra y))
  | 0x13 => some (.vmaxT64 true (.imm rd ra y))
  | 0x14 => some (.vabsdT64 false (.imm rd ra y))
  | 0x15 => some (.vabsdT64 true (.imm rd ra y))
  | 0x18 => some (.vaddaT64 (.imm rd ra y))
  | 0x30 => some (.vset false rd ra y)
  | 0x31 => some (.vset true rd ra y)
  | _ => none

/-- 64-bit major 7 (R314, R315). -/
def dec64m7 (f : T64) (fn : BitVec 8) : Option Instr :=
  let wd : BitVec 2 := fn.extractLsb' 6 2
  match (fn.extractLsb' 0 6).toNat with
  | 0x00 => some (.vaddT64 false (.reg wd f))
  | 0x01 => some (.vaddT64 true (.reg wd f))
  | 0x02 => some (.vsubT64 false (.reg wd f))
  | 0x03 => some (.vsubT64 true (.reg wd f))
  | 0x04 => some (.vmulT64 false (.reg wd f))
  | 0x05 => some (.vmulT64 true (.reg wd f))
  | 0x06 => some (.vavgT64 false (.reg wd f))
  | 0x07 => some (.vavgT64 true (.reg wd f))
  | 0x08 => some (.vandT64 (.reg wd f))
  | 0x09 => some (.vorT64 (.reg wd f))
  | 0x0A => some (.vxorT64 (.reg wd f))
  | 0x0B => some (.vandnT64 (.reg wd f))
  | 0x0C => some (.vshlT64 (.reg wd f))
  | 0x0D => some (.vshrT64 false (.reg wd f))
  | 0x0E => some (.vshrT64 true (.reg wd f))
  | 0x0F => some (.vrotT64 (.reg wd f))
  | 0x10 => some (.vminT64 false (.reg wd f))
  | 0x11 => some (.vminT64 true (.reg wd f))
  | 0x12 => some (.vmaxT64 false (.reg wd f))
  | 0x13 => some (.vmaxT64 true (.reg wd f))
  | 0x14 => some (.vabsdT64 false (.reg wd f))
  | 0x15 => some (.vabsdT64 true (.reg wd f))
  | 0x18 => some (.vaddaT64 (.reg wd f))
  | 0x19 => some (.vbrevT64 wd f)
  | 0x1A => some (.vcntT64 .pop wd f)
  | 0x1B => some (.vcntT64 .clz wd f)
  | 0x1C => some (.vcntT64 .ctz wd f)
  | 0x20 => some (.vmad false wd f)
  | 0x21 => some (.vmad true wd f)
  | 0x22 => some (.vclamp false wd f)
  | 0x23 => some (.vclamp true wd f)
  | 0x24 => some (.vshf wd f)
  | 0x25 => some (.vbf .extractU wd f)
  | 0x26 => some (.vbf .extractS wd f)
  | 0x27 => some (.vbf .insert wd f)
  | 0x28 => some (.vbyte wd f)
  | 0x29 => some (.vaddc wd f)
  | 0x2A => some (.vsubb wd f)
  | _ => none

/-- 64-bit major 10 (R321, R322). -/
def dec64m10 (f : T64) (fn : BitVec 8) : Option Instr :=
  if fn.extractLsb' 6 2 = 0 then some (.vcmpT64 (fn.extractLsb' 4 2) (fn.extractLsb' 0 4) f)
  else match fn.toNat with
  | 0x40 => some (.vselT64 f)
  | 0x41 => some (.vbcastT64 f)
  | 0x42 => some (.vextrT64 f)
  | 0x43 => some (.vinsT64 f)
  | 0x44 => some (.vkvT64 f)
  | 0x45 => some (.vlidT64 f)
  | _ => none

/-- 64-bit majors 20 and 21 (R328, R332). -/
def dec64mem (st : Bool) (f : T64) (fn : BitVec 8) : Option Instr :=
  let sz : BitVec 3 := fn.extractLsb' 2 3
  if fn.extractLsb' 5 3 = 0 then
    match (fn.extractLsb' 0 2).toNat with
    | 0 => some (if st then .vstT64 sz f else .vldT64 sz f)
    | 1 => some (if st then .pstT64 sz f else .pldT64 sz f)
    | 2 => some (if st then .sstT64 false sz f else .sldT64 false sz f)
    | _ => some (if st then .sstT64 true sz f else .sldT64 true sz f)
  else if st then none
  else match fn.toNat with
  | 0x40 => some (.vpf false f)
  | 0x42 => some (.vpf true f)
  | _ => none

/-- 64-bit major 22 (R333). -/
def dec64m22 (f : T64) (fn : BitVec 8) : Option Instr :=
  if fbit fn 7 then none
  else match atomOf (fn.extractLsb' 2 4).toNat with
  | none => none
  | some op => some (if fbit fn 1 then .satom (fbit fn 0) (fbit fn 6) op f else .vatom (fbit fn 0) (fbit fn 6) op f)

/-- 64-bit major 29 (R380). -/
def dec64m29 (f : T64) (fn : BitVec 8) : Option Instr :=
  let dst : BitVec 2 := fn.extractLsb' 2 2
  let src : BitVec 2 := fn.extractLsb' 0 2
  match (fn.extractLsb' 4 4).toNat with
  | 0 => some (.cpy dst src f)
  | 1 => some (.cpyt dst src f)
  | 2 => some (.gat dst src f)
  | 3 => some (.sct dst src f)
  | 4 => some (.cfill dst src f)
  | 5 => some (.rred dst src f)
  | 8 => if fn.extractLsb' 0 4 = 0 then some (.edrain f) else none
  | 9 => if fn.extractLsb' 0 4 = 0 then some (.ecnt f) else none
  | _ => none

/-- A 64-bit instruction (R256, R257, R270). -/
def decode64 (w0 w1 : Word) : Option Instr :=
  let f := T64.ofWords w0 w1
  let fn := fld w1 16 8
  match (fld w0 2 6).toNat with
  | 1 => dec64m1 f fn
  | 2 => dec64m2 f.b f.d f.a w1
  | 3 => dec64m3 f.b f.d f.a w1
  | 4 => dec64m4 f fn
  | 5 => dec64m5 f fn
  | 6 => dec64m6 f fn
  | 7 => dec64m7 f fn
  | 8 => dec64m8 f.b f.d f.a w1
  | 9 => dec64m9 f fn
  | 10 => dec64m10 f fn
  | 11 => dec64m11 f fn
  | 12 => dec64m12 f fn
  | 13 => dec64m13 f fn
  | 14 => dec64m14 f fn
  | 15 => dec64m15 f fn
  | 16 => dec64m16 f fn
  | 17 => dec64m17 f fn
  | 18 => dec64m18 f fn
  | 20 => dec64mem false f fn
  | 21 => dec64mem true f fn
  | 22 => dec64m22 f fn
  | 23 => dec64m23 f fn
  | 24 => dec64m24 f fn
  | 25 => dec64m25 f fn
  | 26 => dec64m26 f fn
  | 27 => dec64m27 f fn
  | 28 => dec64m28 f fn
  | 29 => dec64m29 f fn
  | _ => none

/-! ## Prefixes and whole instructions -/

/-- A prefix word (R261-R265); a nonzero undefined bit is refused. -/
def decodePrefix (w : Word) : Option Instr :=
  match prefixClass w with
  | 0 => if fld w 14 18 = 0 then some (.xreg (fld w 11 3) (fld w 8 3) (fld w 5 3)) else none
  | 1 => if fld w 10 22 = 0 then some (.rmode (fld w 7 3) (fbit w 6) (fbit w 5)) else none
  | 2 => if fld w 7 25 = 0 then some (.pairx (fld w 5 2)) else none
  | 3 => if fld w 9 23 = 0 then some (.cpol (fld w 7 2) (fld w 5 2)) else none
  | _ => none

/-- The instruction whose first word is `w0`, followed by `w1`. -/
def decode (w0 w1 : Word) : Option Instr :=
  match wordClass w0 with
  | .short => decode32 w0
  | .long => decode64 w0 w1
  | .pre => decodePrefix w0

/-- Whether an instruction beginning with this word has two words (R251). -/
def twoWords (w0 : Word) : Bool := wordClass w0 == .long

/-- The instruction in a list of bytes, with the bytes after it (R2, R251). Missing bytes refuse. -/
def decodeBytes (bs : List Byte) : Option (Instr × List Byte) :=
  if bs.length < 4 then none
  else
    let w0 := BitVec.ofNat 32 (ofBytes (bs.take 4))
    if twoWords w0 then
      if bs.length < 8 then none
      else (decode w0 (BitVec.ofNat 32 (ofBytes ((bs.drop 4).take 4)))).map (fun i => (i, bs.drop 8))
    else (decode w0 0).map (fun i => (i, bs.drop 4))

/-- The decoder on an instruction whose bits are `w`; bits above `nbits` are zero. -/
def decodeTableWord (nbits w : Nat) : Option Instr :=
  (decodeBytes (toBytes 8 (w % 2 ^ nbits))).map Prod.fst

/-! ## The encoder -/

/-- A T32 word (R254). -/
def encT32 (maj : BitVec 6) (fn : BitVec 10) (rb ra rd : BitVec 5) : Word :=
  fn ++ rb ++ ra ++ rd ++ maj.extractLsb' 0 5 ++ maj.extractLsb' 5 1 ++ 0#1

/-- An I32 or M32 word (R254). -/
def encI32 (maj : BitVec 6) (fn3 : BitVec 3) (imm : BitVec 12) (ra rd : BitVec 5) : Word :=
  fn3 ++ imm ++ ra ++ rd ++ maj.extractLsb' 0 5 ++ maj.extractLsb' 5 1 ++ 0#1

/-- A W32 word (R254). -/
def encW32 (maj : BitVec 6) (imm : BitVec 20) (rd : BitVec 5) : Word :=
  imm ++ rd ++ maj.extractLsb' 0 5 ++ maj.extractLsb' 5 1 ++ 0#1

/-- A B32 word (R254). -/
def encB32 (maj : BitVec 6) (off : BitVec 21) (neg : Bool) (g : BitVec 3) : Word :=
  off ++ BitVec.ofBool neg ++ g ++ maj.extractLsb' 0 5 ++ maj.extractLsb' 5 1 ++ 0#1

/-- Two T64 words (R256). -/
def encT64 (maj : BitVec 6) (fn : BitVec 8) (f : T64) : List Word :=
  [f.b ++ f.a ++ f.d ++ maj ++ 1#2, f.md ++ fn ++ f.hint ++ BitVec.ofBool f.gneg ++ f.guard ++ f.c]

/-- Two I64 words (R257). -/
def encI64 (maj : BitVec 6) (fn8 rd ra : BitVec 8) (y : Word) : List Word :=
  [fn8 ++ ra ++ rd ++ maj ++ 1#2, y]

/-- The function field of a vector T32 word (R314). -/
def fnV (bs : Bool) (wd : BitVec 2) (op : BitVec 6) : BitVec 10 := 0#1 ++ BitVec.ofBool bs ++ wd ++ op

/-- A bit added to an even function code. -/
def orU {n : Nat} (op : BitVec n) (u : Bool) : BitVec n := if u then op ||| 1#n else op

/-- A predicate in a 5-bit field (R260). -/
def encP (p : BitVec 3) : BitVec 5 := 0#2 ++ p

/-- Atomic operation codes (R334). -/
def atomCode : AtomOp → BitVec 4
  | .add => 0
  | .minS => 1
  | .minU => 2
  | .maxS => 3
  | .maxU => 4
  | .and => 5
  | .or => 6
  | .xor => 7
  | .xchg => 8
  | .cas => 9
  | .zmin => 10
  | .fadd => 11

/-- Format codes of majors 16 and 17 (R352, R355). -/
def fmtCode : FFmt → BitVec 2
  | .f32 => 0
  | .f64 => 1
  | .f16 => 2
  | .bf16 => 3

/-- Arithmetic functions of majors 13, 14 and 15 (R346). -/
def encF (fmt : FFmt) (fn : BitVec 8) (f : T64) : List Word :=
  match fmt with
  | .f64 => encT64 13 fn f
  | .f32 => encT64 14 fn f
  | .f16 => encT64 15 fn f
  | .bf16 => encT64 15 (fn ||| 0x80#8) f

/-- Scalar functions that have register and immediate forms (R284). -/
def encSF (fn : BitVec 8) (f : SForm) : List Word :=
  match f with
  | .reg f => encT64 1 fn f
  | .imm d a y => encI64 2 fn d a y
  | .immD d a y => encI64 2 (fn ||| 0x40#8) d a y

/-- Vector integer functions of majors 7 and 8 (R314, R319). -/
def encVF (op : BitVec 6) (f : VForm) : List Word :=
  match f with
  | .reg wd f => encT64 7 (wd ++ op) f
  | .imm d a y => encI64 8 (0#2 ++ op) d a y

/-- The words of an instruction; no words for the rows that are not words. -/
def encode (i : Instr) : List Word :=
  match i with
  | .xreg bx ax dx => [0#18 ++ bx ++ ax ++ dx ++ 0#3 ++ 3#2]
  | .rmode rm rmset sat => [0#22 ++ rm ++ BitVec.ofBool rmset ++ BitVec.ofBool sat ++ 1#3 ++ 3#2]
  | .pairx m => [0#25 ++ m ++ 2#3 ++ 3#2]
  | .cpol ev pol => [0#23 ++ ev ++ pol ++ 3#3 ++ 3#2]
  | .saddT32 d a rb => [encT32 1 0 rb a d]
  | .ssubT32 d a rb => [encT32 1 1 rb a d]
  | .sandT32 d a rb => [encT32 1 2 rb a d]
  | .sorT32 d a rb => [encT32 1 3 rb a d]
  | .sxorT32 d a rb => [encT32 1 4 rb a d]
  | .sshlT32 d a rb => [encT32 1 5 rb a d]
  | .sshrT32 x d a rb => [encT32 1 (orU 6 x) rb a d]
  | .smulT32 d a rb => [encT32 1 8 rb a d]
  | .sminST32 d a rb => [encT32 1 9 rb a d]
  | .sminUT32 d a rb => [encT32 1 10 rb a d]
  | .smaxST32 d a rb => [encT32 1 11 rb a d]
  | .smaxUT32 d a rb => [encT32 1 12 rb a d]
  | .saddT64 f => encSF 0 f
  | .ssubT64 f => encT64 1 1 f
  | .sandT64 f => encSF 2 f
  | .sorT64 f => encSF 3 f
  | .sxorT64 f => encSF 4 f
  | .sshlT64 f => encT64 1 5 f
  | .sshrT64 x f => encT64 1 (orU 6 x) f
  | .smulT64 f => (match f with
    | .reg f => encT64 1 8 f
    | .imm d a y => encI64 2 8 d a y
    | .hi s f => encT64 1 (orU 0x10 (!s)) f)
  | .sminT64 s f => encSF (if s then 9 else 10) f
  | .smaxT64 s f => encSF (if s then 11 else 12) f
  | .sdiv s f => encT64 1 (orU 0x12 (!s)) f
  | .sbf k f => encT64 1 (match k with | .extractU => 0x14 | .extractS => 0x15 | .insert => 0x16) f
  | .scnt k f => encT64 1 (match k with | .pop => 0x18 | .clz => 0x19 | .ctz => 0x1A) f
  | .sset dbl d a y => encI64 2 (if dbl then 0x60 else 0x20) d a y
  | .saddi imm a d => [encI32 2 0 imm a d]
  | .sandi imm a d => [encI32 2 1 imm a d]
  | .sori imm a d => [encI32 2 2 imm a d]
  | .sshli imm a d => [encI32 2 3 imm a d]
  | .sshri x imm a d => [encI32 2 (orU 4 x) imm a d]
  | .slh imm d => [encW32 3 imm d]
  | .spch imm d => [encW32 4 imm d]
  | .scmp c rb a p => [encT32 5 (0#7 ++ c) rb a (encP p)]
  | .ssel neg n rb a d => [encT32 5 (2#6 ++ BitVec.ofBool neg ++ n) rb a d]
  | .kop f r q p => [encT32 6 (0#7 ++ f) (encP r) (encP q) (encP p)]
  | .kopKs a p => [encT32 6 8 0 a (encP p)]
  | .kopSk q d => [encT32 6 9 0 (encP q) d]
  | .msplit neg q d => [encT32 6 (orU 0x10 neg) 0 (encP q) d]
  | .mjoin a => [encT32 6 0x18 0 a 0]
  | .b off neg g => [encB32 8 off neg g]
  | .call off neg g => [encB32 9 off neg g]
  | .jr a => [encT32 10 0 0 a 0]
  | .jrL a d => [encT32 10 1 0 a d]
  | .ljmp k d a y => encI64 3 (match k with | .abs => 0 | .reg => 1 | .seg => 2) d a y
  | .lcall k d a y => encI64 3 (match k with | .abs => 0x10 | .reg => 0x11 | .seg => 0x12) d a y
  | .loop imm f => encT64 4 (orU 0 imm) f
  | .loopCnt f => encT64 4 2 f
  | .barGang f => encT64 4 8 f
  | .barFol f => encT64 4 9 f
  | .ordbeg f => encT64 4 0x10 f
  | .ordend f => encT64 4 0x11 f
  | .ordrel f => encT64 4 0x12 f
  | .phase f => encT64 4 0x18 f
  | .clkdiv f => encT64 4 0x19 f
  | .rdtick clk f => encT64 4 (orU 0x20 clk) f
  | .inkcal f => encT64 4 0x22 f
  | .mbx f => encT64 4 0x23 f
  | .ipf k f => encT64 4 (match k with | .pf => 0x28 | .pin => 0x29 | .unpin => 0x2A) f
  | .fsmov k f => encT64 4 (match k with | .rd => 0x30 | .wr => 0x31 | .clr => 0x32) f
  | .dqpush f => encT64 5 0 f
  | .dqpop f => encT64 5 1 f
  | .syscallT32 svc => [encT32 11 (0#2 ++ svc) 0 0 0]
  | .hcallT32 svc => [encT32 11 (1#2 ++ svc) 0 0 0]
  | .tretT32 => [encT32 11 (2#2 ++ 0#8) 0 0 0]
  | .exitT32 => [encT32 11 (3#2 ++ 0#8) 0 0 0]
  | .syscallT64 f => encT64 6 0 f
  | .hcallT64 f => encT64 6 1 f
  | .tretT64 f => encT64 6 2 f
  | .exitT64 f => encT64 6 3 f
  | .halt f => encT64 6 4 f
  | .mfp f => encT64 6 8 f
  | .mtp f => encT64 6 9 f
  | .vaddT32 bs wd u rb a d => [encT32 32 (fnV bs wd (orU 0 u)) rb a d]
  | .vsubT32 bs wd u rb a d => [encT32 32 (fnV bs wd (orU 2 u)) rb a d]
  | .vmulT32 bs wd u rb a d => [encT32 32 (fnV bs wd (orU 4 u)) rb a d]
  | .vavgT32 bs wd u rb a d => [encT32 32 (fnV bs wd (orU 6 u)) rb a d]
  | .vandT32 bs wd rb a d => [encT32 32 (fnV bs wd 8) rb a d]
  | .vorT32 bs wd rb a d => [encT32 32 (fnV bs wd 9) rb a d]
  | .vxorT32 bs wd rb a d => [encT32 32 (fnV bs wd 10) rb a d]
  | .vandnT32 bs wd rb a d => [encT32 32 (fnV bs wd 11) rb a d]
  | .vshlT32 bs wd rb a d => [encT32 32 (fnV bs wd 12) rb a d]
  | .vshrUT32 bs wd rb a d => [encT32 32 (fnV bs wd 13) rb a d]
  | .vshrST32 bs wd rb a d => [encT32 32 (fnV bs wd 14) rb a d]
  | .vrotT32 bs wd rb a d => [encT32 32 (fnV bs wd 15) rb a d]
  | .vminT32 bs wd u rb a d => [encT32 32 (fnV bs wd (orU 16 u)) rb a d]
  | .vmaxT32 bs wd u rb a d => [encT32 32 (fnV bs wd (orU 18 u)) rb a d]
  | .vabsdT32 bs wd u rb a d => [encT32 32 (fnV bs wd (orU 20 u)) rb a d]
  | .vaddaT32 bs rb a d => [encT32 32 (fnV bs 0 0x18) rb a d]
  | .vbrevT32 a d => [encT32 32 0x19 0 a d]
  | .vcntPopT32 a d => [encT32 32 0x1A 0 a d]
  | .vcntClzT32 a d => [encT32 32 0x1B 0 a d]
  | .vcntCtzT32 a d => [encT32 32 0x1C 0 a d]
  | .vaddI32 imm a d => [encI32 33 0 imm a d]
  | .vandI32 imm a d => [encI32 33 1 imm a d]
  | .vorI32 imm a d => [encI32 33 2 imm a d]
  | .vxorI32 imm a d => [encI32 33 3 imm a d]
  | .vshlI32 imm a d => [encI32 33 4 imm a d]
  | .vshrUI32 imm a d => [encI32 33 5 imm a d]
  | .vshrSI32 imm a d => [encI32 33 6 imm a d]
  | .vmulI32 imm a d => [encI32 33 7 imm a d]
  | .vaddT64 u f => encVF (orU 0 u) f
  | .vsubT64 u f => encVF (orU 2 u) f
  | .vmulT64 u f => encVF (orU 4 u) f
  | .vavgT64 u f => encVF (orU 6 u) f
  | .vandT64 f => encVF 8 f
  | .vorT64 f => encVF 9 f
  | .vxorT64 f => encVF 10 f
  | .vandnT64 f => encVF 11 f
  | .vshlT64 f => encVF 12 f
  | .vshrT64 x f => encVF (if x then 14 else 13) f
  | .vrotT64 f => encVF 15 f
  | .vminT64 u f => encVF (orU 16 u) f
  | .vmaxT64 u f => encVF (orU 18 u) f
  | .vabsdT64 u f => encVF (orU 20 u) f
  | .vaddaT64 f => encVF 0x18 f
  | .vbrevT64 wd f => encT64 7 (wd ++ 0x19#6) f
  | .vcntT64 k wd f => encT64 7 (wd ++ (match k with | .pop => 0x1A#6 | .clz => 0x1B#6 | .ctz => 0x1C#6)) f
  | .vmad u wd f => encT64 7 (wd ++ orU 0x20#6 u) f
  | .vclamp u wd f => encT64 7 (wd ++ orU 0x22#6 u) f
  | .vshf wd f => encT64 7 (wd ++ 0x24#6) f
  | .vbf k wd f => encT64 7 (wd ++ (match k with | .extractU => 0x25#6 | .extractS => 0x26#6 | .insert => 0x27#6)) f
  | .vbyte wd f => encT64 7 (wd ++ 0x28#6) f
  | .vaddc wd f => encT64 7 (wd ++ 0x29#6) f
  | .vsubb wd f => encT64 7 (wd ++ 0x2A#6) f
  | .vset dbl d a y => encI64 8 (if dbl then 0x31 else 0x30) d a y
  | .vdiv u f => encT64 9 (orU 0 u) f
  | .vmulhi u f => encT64 9 (orU 2 u) f
  | .vmulw u f => encT64 9 (orU 4 u) f
  | .vcmpT32 bs wd c rb a p => [encT32 36 (0#1 ++ BitVec.ofBool bs ++ 0#2 ++ wd ++ c) rb a (encP p)]
  | .vcmpT64 wd c f => encT64 10 (0#2 ++ wd ++ c) f
  | .vselT32 neg n rb a d => [encT32 37 (0#6 ++ BitVec.ofBool neg ++ n) rb a d]
  | .vselT64 f => encT64 10 0x40 f
  | .vbcastT32 a d => [encT32 37 (1#3 ++ 0#7) 0 a d]
  | .vbcastT64 f => encT64 10 0x41 f
  | .vextrT32 n a d => [encT32 37 (2#3 ++ n) 0 a d]
  | .vextrT64 f => encT64 10 0x42 f
  | .vinsT32 n a d => [encT32 37 (3#3 ++ n) 0 a d]
  | .vinsT64 f => encT64 10 0x43 f
  | .vlidT32 d => [encT32 37 (4#3 ++ 0#7) 0 0 d]
  | .vlidT64 f => encT64 10 0x45 f
  | .vkvT32 n d => [encT32 37 (5#3 ++ 0#4 ++ n) 0 0 d]
  | .vkvT64 f => encT64 10 0x44 f
  | .vpermT32 rb a d => [encT32 38 0 rb a d]
  | .vswzUpT32 n a d => [encT32 38 (1#3 ++ n) 0 a d]
  | .vswzDnT32 n a d => [encT32 38 (2#3 ++ n) 0 a d]
  | .vswzXorT32 n a d => [encT32 38 (3#3 ++ n) 0 a d]
  | .vswzRotT32 n a d => [encT32 38 (4#3 ++ n) 0 a d]
  | .vpermT64 f => encT64 11 0 f
  | .vswzT64 k f => encT64 11 (match k.toNat with | 0 => 1 | 1 => 2 | 2 => 3 | _ => 4) f
  | .match_ f => encT64 11 8 f
  | .vred op f => encT64 12 (match op with
    | .addS => 0 | .addU => 1 | .minS => 2 | .minU => 3 | .maxS => 4 | .maxU => 5 | .and => 6 | .or => 7 | .xor => 8) f
  | .vscan exc f => encT64 12 (orU 0x10 exc) f
  | .sldM32 sz imm a d => [encI32 12 sz imm a d]
  | .sstM32 sz imm a d => [encI32 13 sz imm a d]
  | .vldM32 sz imm a d => [encI32 14 sz imm a d]
  | .vstM32 sz imm a d => [encI32 15 sz imm a d]
  | .pldM32 sz imm a d => [encI32 16 sz imm a d]
  | .pstM32 sz imm a d => [encI32 17 sz imm a d]
  | .vldT64 sz f => encT64 20 (0#3 ++ sz ++ 0#2) f
  | .pldT64 sz f => encT64 20 (0#3 ++ sz ++ 1#2) f
  | .sldT64 scr sz f => encT64 20 (0#3 ++ sz ++ 1#1 ++ BitVec.ofBool scr) f
  | .vstT64 sz f => encT64 21 (0#3 ++ sz ++ 0#2) f
  | .pstT64 sz f => encT64 21 (0#3 ++ sz ++ 1#2) f
  | .sstT64 scr sz f => encT64 21 (0#3 ++ sz ++ 1#1 ++ BitVec.ofBool scr) f
  | .vpf scalar f => encT64 20 (if scalar then 0x42 else 0x40) f
  | .vatom scr wide op f => encT64 22 (0#1 ++ BitVec.ofBool wide ++ atomCode op ++ 0#1 ++ BitVec.ofBool scr) f
  | .satom scr wide op f => encT64 22 (0#1 ++ BitVec.ofBool wide ++ atomCode op ++ 1#1 ++ BitVec.ofBool scr) f
  | .xpatSet f => encT64 23 0x10 f
  | .xpatGet f => encT64 23 0x11 f
  | .xld f => encT64 23 0 f
  | .markT32 form scope => [encT32 18 (0#4 ++ form ++ scope) 0 0 0]
  | .markT64 f => encT64 24 0 f
  | .arwait f => encT64 24 8 f
  | .arrive f => encT64 24 0x10 f
  | .vfaddF32T32 bs rb a d => [encT32 34 (fnV bs 0 0) rb a d]
  | .vfaddPackedT32 bs bf rb a d => [encT32 35 (0#1 ++ BitVec.ofBool bs ++ 0#3 ++ BitVec.ofBool bf ++ 0#4) rb a d]
  | .vfaddT64 fmt f => encF fmt 0 f
  | .vfsubF32T32 bs rb a d => [encT32 34 (fnV bs 0 1) rb a d]
  | .vfsubPackedT32 bs bf rb a d => [encT32 35 (0#1 ++ BitVec.ofBool bs ++ 0#3 ++ BitVec.ofBool bf ++ 1#4) rb a d]
  | .vfsubT64 fmt f => encF fmt 1 f
  | .vfmulF32T32 bs rb a d => [encT32 34 (fnV bs 0 2) rb a d]
  | .vfmulPackedT32 bs bf rb a d => [encT32 35 (0#1 ++ BitVec.ofBool bs ++ 0#3 ++ BitVec.ofBool bf ++ 2#4) rb a d]
  | .vfmulT64 fmt f => encF fmt 2 f
  | .vfminF32T32 bs rb a d => [encT32 34 (fnV bs 0 3) rb a d]
  | .vfminPackedT32 bs bf rb a d => [encT32 35 (0#1 ++ BitVec.ofBool bs ++ 0#3 ++ BitVec.ofBool bf ++ 3#4) rb a d]
  | .vfminT64 fmt f => encF fmt 3 f
  | .vfmaxF32T32 bs rb a d => [encT32 34 (fnV bs 0 4) rb a d]
  | .vfmaxPackedT32 bs bf rb a d => [encT32 35 (0#1 ++ BitVec.ofBool bs ++ 0#3 ++ BitVec.ofBool bf ++ 4#4) rb a d]
  | .vfmaxT64 fmt f => encF fmt 4 f
  | .vfma fmt f => encF fmt 5 f
  | .vfsgn fmt f => encF fmt 6 f
  | .vfclass fmt f => encF fmt 7 f
  | .vfcmp f64 c f => encT64 (if f64 then 13 else 14) (2#5 ++ c) f
  | .vfdot2 bf f => encT64 15 (if bf then 0xA0 else 0x20) f
  | .vfdiv fmt f => encT64 16 (0#6 ++ fmtCode fmt) f
  | .vfsqrt fmt f => encT64 16 (1#6 ++ fmtCode fmt) f
  | .vfrcp fmt f => encT64 16 (2#6 ++ fmtCode fmt) f
  | .vcvtT32 e s t a d => [encT32 39 (e ++ s ++ t) 0 a d]
  | .vcvtT64 s t f => encT64 17 (s ++ t) f
  | .vfrnd fmt f => encT64 17 (0x38#6 ++ fmtCode fmt) f
  | .vbxpk f => encT64 17 0xF0 f
  | .vbxex f => encT64 17 0xF1 f
  | .vdwadd f => encT64 18 0 f
  | .vdwmul f => encT64 18 1 f
  | .vdwnorm f => encT64 18 2 f
  | .vcred k f => encT64 18 (match k with | .f32 => 0x10 | .dw => 0x11 | .f64 => 0x12) f
  | .vtbl k f => encT64 25 (match k with | .idx => 0 | .lin => 1 | .quad => 2) f
  | .tex f => encT64 26 0 f
  | .texl f => encT64 26 1 f
  | .texg f => encT64 26 2 f
  | .texf f => encT64 26 3 f
  | .tex4 f => encT64 26 4 f
  | .texq f => encT64 26 5 f
  | .mma as z f => encT64 27 (0#2 ++ BitVec.ofBool as ++ BitVec.ofBool z ++ 0#4) f
  | .mvote f => encT64 27 0x40 f
  | .aclr f => encT64 28 0 f
  | .ald f => encT64 28 1 f
  | .ast f => encT64 28 2 f
  | .aadd f => encT64 28 3 f
  | .acvt f => encT64 28 4 f
  | .acpy f => encT64 28 5 f
  | .amax f => encT64 28 6 f
  | .abx f => encT64 28 7 f
  | .cpy dst src f => encT64 29 (0#4 ++ dst ++ src) f
  | .cpyt dst src f => encT64 29 (1#4 ++ dst ++ src) f
  | .gat dst src f => encT64 29 (2#4 ++ dst ++ src) f
  | .sct dst src f => encT64 29 (3#4 ++ dst ++ src) f
  | .cfill dst src f => encT64 29 (4#4 ++ dst ++ src) f
  | .rred dst src f => encT64 29 (5#4 ++ dst ++ src) f
  | .edrain f => encT64 29 0x80 f
  | .ecnt f => encT64 29 0x90 f
  | _ => []

end Sys2Proof
end

