-- ==== Sys2Proof/Machine/Float.lean ====
section
/-! DEFINITION. Number formats (09): exact values, Round, special values, conversions, BX blocks, the lane tree. -/
namespace Sys2Proof.Machine

/-- The ten sticky flags in the order of fstat (09 R241). -/
abbrev Flags := BitVec 10
def flNv : Flags := 1#10
def flDz : Flags := 2#10
def flOf : Flags := 4#10
def flUf : Flags := 8#10
def flNx : Flags := 16#10
def flPi : Flags := 32#10
def flIdz : Flags := 64#10
def flIov : Flags := 128#10
def flSat : Flags := 256#10
def flBxo : Flags := 512#10

/-- A flag when a condition holds. -/
def flagIf (c : Bool) (f : Flags) : Flags := if c then f else 0#10

/-- Rounding modes (09 R234). -/
inductive RM where | rne | rtz | rdn | rup | rna
deriving DecidableEq, Repr

/-- The mode of a rounding code; codes 5-7 are reserved (09 R234) and never reach an operation. -/
def RM.ofCode (c : BitVec 3) : RM :=
  match c.toNat with
  | 1 => .rtz
  | 2 => .rdn
  | 3 => .rup
  | 4 => .rna
  | _ => .rne

/-- A binary format: exponent bits and fraction bits (09 R232). -/
structure Fmt where
  eb : Nat
  fb : Nat
deriving DecidableEq, Repr

namespace Fmt
def f64 : Fmt := ⟨11, 52⟩
def f32 : Fmt := ⟨8, 23⟩
def f16 : Fmt := ⟨5, 10⟩
def bf16 : Fmt := ⟨8, 7⟩
def bias (f : Fmt) : Nat := 2 ^ (f.eb - 1) - 1
def bitsN (f : Fmt) : Nat := f.eb + f.fb + 1
def signBit (f : Fmt) : Nat := 2 ^ (f.eb + f.fb)
def infBits (f : Fmt) : Nat := (2 ^ f.eb - 1) * 2 ^ f.fb
/-- The largest finite magnitude (09 R232). -/
def maxBits (f : Fmt) : Nat := f.infBits - 1
def qBit (f : Fmt) : Nat := 2 ^ (f.fb - 1)
/-- The default NaN (09 R232). -/
def nanBits (f : Fmt) : Nat := f.infBits + f.qBit
def withSign (f : Fmt) (neg : Bool) (x : Nat) : Nat := if neg then f.signBit + x else x
end Fmt

/-- The format of an arithmetic instruction (13 R344). -/
def fmtOf : FFmt → Fmt
  | .f32 => Fmt.f32
  | .f64 => Fmt.f64
  | .f16 => Fmt.f16
  | .bf16 => Fmt.bf16

/-- A value: a NaN with sign and fraction, an infinity, or exactly (-1)^neg * m * 2^e. -/
inductive FV where
  | nan (neg : Bool) (frac : Nat)
  | inf (neg : Bool)
  | fin (neg : Bool) (m : Nat) (e : Int)
deriving DecidableEq, Repr

namespace FV
def isNan : FV → Bool
  | .nan _ _ => true
  | _ => false
def isInf : FV → Bool
  | .inf _ => true
  | _ => false
def isZero : FV → Bool
  | .fin _ 0 _ => true
  | _ => false
def neg : FV → Bool
  | .nan n _ => n
  | .inf n => n
  | .fin n _ _ => n
def negate : FV → FV
  | .nan n f => .nan n f
  | .inf n => .inf (!n)
  | .fin n m e => .fin (!n) m e
def zero (n : Bool) : FV := .fin n 0 0
def ofInt (x : Int) : FV := .fin (decide (x < 0)) x.natAbs 0
end FV

/-- The value of a bit pattern (09 R232). -/
def unpack (f : Fmt) (x : Nat) : FV :=
  let neg := bitN x (f.eb + f.fb)
  let ex := fieldN x f.fb f.eb
  let fr := fieldN x 0 f.fb
  if ex = 2 ^ f.eb - 1 then
    if fr = 0 then .inf neg else .nan neg fr
  else if ex = 0 then .fin neg fr (1 - (f.bias : Int) - f.fb)
  else .fin neg (2 ^ f.fb + fr) ((ex : Int) - f.bias - f.fb)

/-- Whether a pattern is a signalling NaN (09 R232). -/
def isSnan (f : Fmt) (x : Nat) : Bool :=
  match unpack f x with
  | .nan _ fr => !bitN fr (f.fb - 1)
  | _ => false

/-- A result with the flags it raises. -/
structure FRes where
  bits : Nat
  flags : Flags
deriving DecidableEq, Repr

/-- Round a magnitude (m, plus less than one unit if sticky) * 2^e to a multiple of 2^qe: the multiple and whether it is
inexact (09 R234). -/
def roundAt (neg : Bool) (m : Nat) (e : Int) (sticky : Bool) (qe : Int) (rm : RM) : Nat × Bool :=
  let sh := qe - e
  if sh ≤ 0 then (m * 2 ^ (-sh).toNat, sticky)
  else
    let k := sh.toNat
    let n := m / 2 ^ k
    let r := m % 2 ^ k
    let half := 2 ^ (k - 1)
    let inexact := r != 0 || sticky
    let gt := decide (r > half) || (r == half && sticky)
    let eq := r == half && !sticky
    let up := match rm with
      | .rne => gt || (eq && n % 2 == 1)
      | .rtz => false
      | .rdn => neg && inexact
      | .rup => !neg && inexact
      | .rna => gt || eq
    (if up then n + 1 else n, inexact)

/-- Whether an overflow delivers the infinity (09 R235). -/
def ovfInf (neg : Bool) (rm : RM) : Bool :=
  match rm with
  | .rne => true
  | .rna => true
  | .rup => !neg
  | .rdn => neg
  | .rtz => false

/-- Round of 09 R235 for a finite exact magnitude with a sign. -/
def roundMag (f : Fmt) (rm : RM) (neg : Bool) (m : Nat) (e : Int) (sticky : Bool) : FRes :=
  if m = 0 then ⟨f.withSign neg 0, 0#10⟩
  else
    let ex : Int := Nat.log2 m + e
    let n := roundAt neg m e sticky (ex - f.fb) rm
    let ex' : Int := if n.1 ≥ 2 ^ (f.fb + 1) then ex + 1 else ex
    if ex' > f.bias then
      ⟨f.withSign neg (if ovfInf neg rm then f.infBits else f.maxBits), flOf ||| flNx⟩
    else if ex' < 1 - (f.bias : Int) then
      let t := roundAt neg m e sticky (1 - (f.bias : Int) - f.fb) rm
      ⟨f.withSign neg t.1, flagIf t.2 (flUf ||| flNx)⟩
    else
      let field : Int := ex + f.bias
      ⟨f.withSign neg (n.1 + field.toNat * 2 ^ f.fb - 2 ^ f.fb), flagIf n.2 flNx⟩

/-- Saturation of a floating-point result (09 R236). -/
def saturate (f : Fmt) (sat : Bool) (r : FRes) : FRes :=
  if sat then
    match unpack f r.bits with
    | .inf n => ⟨f.withSign n f.maxBits, r.flags ||| flSat⟩
    | _ => r
  else r

/-- Round a value that is not a NaN. -/
def roundFV (f : Fmt) (rm : RM) (v : FV) : FRes :=
  match v with
  | .inf n => ⟨f.withSign n f.infBits, 0#10⟩
  | .fin n m e => roundMag f rm n m e false
  | .nan n fr => ⟨f.withSign n (f.infBits + fr), 0#10⟩

/-- A quiet NaN of the result format made from an operand NaN (09 R237). -/
def nanFrom (src dst : Fmt) (x : Nat) : Nat :=
  let neg := bitN x (src.eb + src.fb)
  let fr := fieldN x 0 src.fb
  let q := if bitN fr (src.fb - 1) then fr else fr + src.qBit
  let fr' := if dst.fb ≤ src.fb then q / 2 ^ (src.fb - dst.fb) else q * 2 ^ (dst.fb - src.fb)
  dst.withSign neg (dst.infBits + fr')

/-- The default NaN with nv (09 R237). -/
def invalid (f : Fmt) : FRes := ⟨f.nanBits, flNv⟩

/-- The NaN result of an operation whose operand patterns hold a NaN (09 R237): the first NaN, quieted; nv if any signals. -/
def firstNan (src dst : Fmt) (xs : List Nat) : Option FRes :=
  match xs.find? (fun x => (unpack src x).isNan) with
  | none => none
  | some x => some ⟨nanFrom src dst x, flagIf (xs.any (isSnan src)) flNv⟩

/-- The exact sum of finite terms; a zero takes the sign of 09 R238. -/
def sumFin (rm : RM) (ts : List (Bool × Nat × Int)) : FV :=
  let e0 := ts.foldl (fun a t => min a t.2.2) ((ts.map (fun t => t.2.2)).headD 0)
  let tot : Int := ts.foldl (fun a t =>
    let x : Int := (t.2.1 : Int) * 2 ^ (t.2.2 - e0).toNat
    if t.1 then a - x else a + x) 0
  if tot = 0 then
    let n := if ts.all (fun t => t.1) && !ts.isEmpty then true
             else if ts.all (fun t => !t.1) then false
             else rm == .rdn
    .fin n 0 0
  else .fin (decide (tot < 0)) tot.natAbs e0

/-- The exact sum of values without NaN; none for infinities of both signs. -/
def sumFV (rm : RM) (vs : List FV) : Option FV :=
  let infs := vs.filter FV.isInf
  if infs.isEmpty then
    some (sumFin rm (vs.filterMap (fun v => match v with
      | .fin n m e => some (n, m, e)
      | _ => none)))
  else if infs.all FV.neg then some (.inf true)
  else if infs.all (fun v => !v.neg) then some (.inf false)
  else none

/-- The exact product of two values without NaN; none for 0 * infinity (09 R237, R238). -/
def mulFV (a b : FV) : Option FV :=
  let n := a.neg != b.neg
  match a, b with
  | .fin _ m1 e1, .fin _ m2 e2 => some (.fin n (m1 * m2) (e1 + e2))
  | _, _ => if a.isZero || b.isZero then none else some (.inf n)

/-- Deliver an exact value, or the default NaN when there is none. -/
def deliver (f : Fmt) (rm : RM) (sat : Bool) (v : Option FV) : FRes :=
  match v with
  | some x => saturate f sat (roundFV f rm x)
  | none => invalid f

/-- Add (13 R347). -/
def fAdd (f : Fmt) (rm : RM) (sat : Bool) (a b : Nat) : FRes :=
  match firstNan f f [a, b] with
  | some r => r
  | none => deliver f rm sat (sumFV rm [unpack f a, unpack f b])

/-- Subtract (13 R347). -/
def fSub (f : Fmt) (rm : RM) (sat : Bool) (a b : Nat) : FRes :=
  match firstNan f f [a, b] with
  | some r => r
  | none => deliver f rm sat (sumFV rm [unpack f a, (unpack f b).negate])

/-- Multiply (13 R347). -/
def fMul (f : Fmt) (rm : RM) (sat : Bool) (a b : Nat) : FRes :=
  match firstNan f f [a, b] with
  | some r => r
  | none => deliver f rm sat (mulFV (unpack f a) (unpack f b))

/-- Fused multiply-add with optional negations of product and addend (13 R347). -/
def fFma (f : Fmt) (rm : RM) (sat np nc : Bool) (a b c : Nat) : FRes :=
  match firstNan f f [a, b, c] with
  | some r => r
  | none =>
    match mulFV (unpack f a) (unpack f b) with
    | none => invalid f
    | some p =>
      deliver f rm sat (sumFV rm [if np then p.negate else p, if nc then (unpack f c).negate else unpack f c])

/-- vfdot2: two packed products and an F32 addend, rounded once to F32 (13 R347). Of two NaN elements of one operand element 0 comes first
(R237, log 92). -/
def fDot2 (f : Fmt) (rm : RM) (sat : Bool) (a0 b0 a1 b1 c : Nat) : FRes :=
  let pk := firstNan f Fmt.f32 [a0, a1, b0, b1]
  let sn := [a0, a1, b0, b1].any (isSnan f) || isSnan Fmt.f32 c
  match pk with
  | some r => ⟨r.bits, flagIf sn flNv⟩
  | none =>
    match firstNan Fmt.f32 Fmt.f32 [c] with
    | some r => ⟨r.bits, flagIf sn flNv⟩
    | none =>
      match mulFV (unpack f a0) (unpack f b0), mulFV (unpack f a1) (unpack f b1) with
      | some p, some q => deliver Fmt.f32 rm sat (sumFV rm [p, q, unpack Fmt.f32 c])
      | _, _ => invalid Fmt.f32

/-- Comparison of two values without NaN: negative, zero or positive. -/
def cmpFV (a b : FV) : Int :=
  match a, b with
  | .inf x, .inf y => if x = y then 0 else if x then -1 else 1
  | .inf x, _ => if x then -1 else 1
  | _, .inf y => if y then 1 else -1
  | _, _ =>
    match sumFV .rne [a, b.negate] with
    | some (.fin n m _) => if m = 0 then 0 else if n then -1 else 1
    | _ => 0

/-- Minimum or maximum of 13 R349. -/
def fMinMax (f : Fmt) (mx : Bool) (a b : Nat) : FRes :=
  let fl := flagIf (isSnan f a || isSnan f b) flNv
  let x := unpack f a
  let y := unpack f b
  if x.isNan && y.isNan then ⟨nanFrom f f a, fl⟩
  else if x.isNan then ⟨b, fl⟩
  else if y.isNan then ⟨a, fl⟩
  else
    let c := cmpFV x y
    let aLess := decide (c < 0) || (c == 0 && x.neg && !y.neg)
    ⟨if aLess != mx then a else if c == 0 && x.neg == y.neg then a else b, fl⟩

/-- vfsgn (13 R349): kind 0 copy, 1 negated copy, 2 xor, 3 absolute. -/
def fSgn (f : Fmt) (kind : Nat) (a b : Nat) : Nat :=
  let mag := fieldN a 0 (f.eb + f.fb)
  let sa := bitN a (f.eb + f.fb)
  let sb := bitN b (f.eb + f.fb)
  f.withSign (match kind with
    | 0 => sb
    | 1 => !sb
    | 2 => sa != sb
    | _ => false) mag

/-- vfclass (13 R350): the class mask. -/
def fClass (f : Fmt) (a : Nat) : Nat :=
  let ex := fieldN a f.fb f.eb
  match unpack f a with
  | .nan _ _ => if isSnan f a then 256 else 512
  | .inf n => if n then 1 else 128
  | .fin n m _ =>
    if m = 0 then (if n then 8 else 16)
    else if ex = 0 then (if n then 4 else 32)
    else (if n then 2 else 64)

/-- vfcmp (13 R351): the condition and the flags. -/
def fCmp (f : Fmt) (cond : Nat) (a b : Nat) : Bool × Flags :=
  let x := unpack f a
  let y := unpack f b
  let un := x.isNan || y.isNan
  let sn := isSnan f a || isSnan f b
  let quiet := flagIf sn flNv
  let c := cmpFV x y
  match cond with
  | 0 => (!un && c == 0, quiet)
  | 1 => (un || c != 0, quiet)
  | 2 => (!un && decide (c < 0), flagIf un flNv)
  | 3 => (!un && decide (c ≤ 0), flagIf un flNv)
  | 4 => (!un && decide (c > 0), flagIf un flNv)
  | 5 => (!un && decide (c ≥ 0), flagIf un flNv)
  | 6 => (un, quiet)
  | _ => (!un, quiet)

/-- Round the quotient of two finite nonzero magnitudes. -/
def roundQuot (f : Fmt) (rm : RM) (neg : Bool) (m1 : Nat) (e1 : Int) (m2 : Nat) (e2 : Int) : FRes :=
  let k := f.fb + 4 + Nat.log2 m2
  let num := m1 * 2 ^ k
  roundMag f rm neg (num / m2) (e1 - e2 - k) (num % m2 != 0)

/-- Division (13 R352). -/
def fDiv (f : Fmt) (rm : RM) (sat : Bool) (a b : Nat) : FRes :=
  match firstNan f f [a, b] with
  | some r => r
  | none =>
    let x := unpack f a
    let y := unpack f b
    let n := x.neg != y.neg
    match x, y with
    | .inf _, .inf _ => invalid f
    | .inf _, _ => saturate f sat ⟨f.withSign n f.infBits, 0#10⟩
    | _, .inf _ => ⟨f.withSign n 0, 0#10⟩
    | .fin _ m1 e1, .fin _ m2 e2 =>
      if m2 = 0 then
        if m1 = 0 then invalid f
        else saturate f sat ⟨f.withSign n f.infBits, flDz⟩
      else if m1 = 0 then ⟨f.withSign n 0, 0#10⟩
      else saturate f sat (roundQuot f rm n m1 e1 m2 e2)
    | _, _ => invalid f

/-- The pattern of 1.0. -/
def Fmt.one (f : Fmt) : Nat := f.bias * 2 ^ f.fb

/-- Reciprocal (13 R352). -/
def fRcp (f : Fmt) (rm : RM) (sat : Bool) (a : Nat) : FRes :=
  match firstNan f f [a] with
  | some r => r
  | none => fDiv f rm sat f.one a

/-- Round the root of m * 2^e. -/
def roundRoot (f : Fmt) (rm : RM) (m : Nat) (e : Int) : FRes :=
  let k0 := 2 * (f.fb + 4)
  let k := if (e - k0) % 2 = 0 then k0 else k0 + 1
  let n := m * 2 ^ k
  let r := isqrt n
  roundMag f rm false r ((e - k) / 2) (r * r != n)

/-- Square root (13 R352). -/
def fSqrt (f : Fmt) (rm : RM) (sat : Bool) (a : Nat) : FRes :=
  match firstNan f f [a] with
  | some r => r
  | none =>
    match unpack f a with
    | .inf false => saturate f sat ⟨f.infBits, 0#10⟩
    | .fin n m e => if m = 0 then ⟨f.withSign n 0, 0#10⟩ else if n then invalid f else roundRoot f rm m e
    | _ => invalid f

/-- 1 over the square root (18 R469 frsq). -/
def fRsq (f : Fmt) (rm : RM) (a : Nat) : FRes :=
  match firstNan f f [a] with
  | some r => r
  | none =>
    match unpack f a with
    | .inf false => ⟨0, 0#10⟩
    | .inf true => invalid f
    | .nan _ _ => invalid f
    | .fin n m e =>
      if m = 0 then ⟨f.withSign n f.infBits, flDz⟩
      else if n then invalid f
      else
        -- 1/sqrt(m 2^e): root of 2^K / m with K even enough, one sticky for both remainders
        let k0 := 2 * (f.fb + 4) + Nat.log2 m + 2
        let k := if (k0 : Int) % 2 = e % 2 then k0 else k0 + 1
        let q := 2 ^ k / m
        let r := isqrt q
        roundMag f rm false r ((-(e + (k : Int))) / 2) (r * r * m != 2 ^ k)

/-- Round a value to an integral value in its own format (13 R355). -/
def fRnd (f : Fmt) (rm : RM) (a : Nat) : FRes :=
  match firstNan f f [a] with
  | some r => r
  | none =>
    match unpack f a with
    | .fin n m e =>
      let t := roundAt n m e false 0 rm
      if t.2 then ⟨(roundMag f rm n t.1 0 false).bits, flNx⟩ else ⟨a, 0#10⟩
    | _ => ⟨a, 0#10⟩

/-- Convert between float formats (09 R240). -/
def fToF (src dst : Fmt) (rm : RM) (sat : Bool) (a : Nat) : FRes :=
  match firstNan src dst [a] with
  | some r => r
  | none => saturate dst sat (roundFV dst rm (unpack src a))

/-- Convert an integer (09 R240). -/
def intToF (dst : Fmt) (rm : RM) (sat : Bool) (x : Int) : FRes :=
  saturate dst sat (roundFV dst rm (FV.ofInt x))

/-- The range of an integer format of n bits (09 R231). -/
def intMin (signed : Bool) (n : Nat) : Int := if signed then -(2 ^ (n - 1) : Int) else 0
def intMax (signed : Bool) (n : Nat) : Int := if signed then 2 ^ (n - 1) - 1 else 2 ^ n - 1

/-- Convert to an integer of n bits (09 R240): the value and flags. -/
def fToInt (src : Fmt) (rm : RM) (signed : Bool) (n : Nat) (a : Nat) : Int × Flags :=
  match unpack src a with
  | .nan _ _ => (0, flNv)
  | .inf s => (if s then intMin signed n else intMax signed n, flNv)
  | .fin s m e =>
    let t := roundAt s m e false 0 rm
    let v : Int := if s then -(t.1 : Int) else t.1
    if v < intMin signed n then (intMin signed n, flNv)
    else if v > intMax signed n then (intMax signed n, flNv)
    else (v, flagIf t.2 flNx)

/-! Paired and double-word results (13 R357, R358). -/

/-- A value with its error word. -/
structure PairRes where
  v : Nat
  e : Nat
  flags : Flags
deriving DecidableEq, Repr

/-- Whether a rounding delivered exactly the value. -/
def exactly (f : Fmt) (r : Nat) (v : FV) : Bool :=
  match unpack f r, v with
  | .fin _ _ _, .fin _ _ _ => cmpFV (unpack f r) v == 0
  | _, _ => false

/-- The error word of a delivered value: x - v rounded to nearest, pi when that is not exact (13 R357, R358). -/
def errorOf (f : Fmt) (x : Option FV) (v : FRes) : PairRes :=
  if v.flags &&& flOf != 0#10 then ⟨v.bits, 0, v.flags ||| flPi⟩
  else
    match x, unpack f v.bits with
    | some (.fin n m e), .fin n2 m2 e2 =>
      match sumFV .rne [.fin n m e, .fin (!n2) m2 e2] with
      | some d =>
        let r := roundFV f .rne d
        ⟨v.bits, r.bits, v.flags ||| flagIf (!exactly f r.bits d) flPi⟩
      | none => ⟨v.bits, 0, v.flags⟩
    | _, .fin _ _ _ => ⟨v.bits, 0, v.flags ||| flPi⟩
    | _, _ => ⟨v.bits, 0, v.flags⟩

/-- The pair mode of add, subtract and multiply (13 R357): op 0, 1, 2. -/
def fPair (f : Fmt) (rm : RM) (sat : Bool) (op : Nat) (a b : Nat) : PairRes :=
  match firstNan f f [a, b] with
  | some r => ⟨r.bits, 0, r.flags⟩
  | none =>
    let x := match op with
      | 0 => sumFV rm [unpack f a, unpack f b]
      | 1 => sumFV rm [unpack f a, (unpack f b).negate]
      | _ => mulFV (unpack f a) (unpack f b)
    errorOf f x (deliver f rm sat x)

/-- Deliver a double-word result (13 R358). -/
def dwDeliver (rm : RM) (sat : Bool) (x : Option FV) (fl : Flags) : PairRes :=
  let r := errorOf Fmt.f32 x (deliver Fmt.f32 rm sat x)
  ⟨r.v, r.e, r.flags ||| fl⟩

/-- The value of a DW32 pair without NaN parts; none for infinities of opposite sign (13 R358); an exact zero takes the sign of R238. -/
def dwValue (rm : RM) (hi lo : Nat) : Option FV := sumFV rm [unpack Fmt.f32 hi, unpack Fmt.f32 lo]

/-- Patterns among which infinities of both signs stand raise nv (13 R358, R360). -/
def nvInfs (f : Fmt) (xs : List Nat) : Flags :=
  let has := fun (n : Bool) => xs.any (fun x => match unpack f x with
    | .inf m => m == n
    | _ => false)
  flagIf (has true && has false) flNv

/-- A double-word add, subtract or multiply of two pairs (13 R359): op 0, 1, 2. The first NaN among the four parts is the result, and
a pair of opposite infinities still raises nv (R358, log 74). -/
def dwOp (rm : RM) (sat : Bool) (op : Nat) (negB : Bool) (ahi alo bhi blo : Nat) : PairRes :=
  match firstNan Fmt.f32 Fmt.f32 [ahi, alo, bhi, blo] with
  | some r => ⟨r.bits, 0, r.flags ||| nvInfs Fmt.f32 [ahi, alo] ||| nvInfs Fmt.f32 [bhi, blo]⟩
  | none =>
    match dwValue rm ahi alo, dwValue rm bhi blo with
    | some x, some y0 =>
      let y := if negB then y0.negate else y0
      let t := match op with
        | 0 => sumFV rm [x, y]
        | 1 => sumFV rm [x, y.negate]
        | _ => mulFV x y
      dwDeliver rm sat t 0#10
    | _, _ => dwDeliver rm sat none 0#10

/-! BX blocks (09 R243, R244). -/

/-- Block bytes for a magnitude width p (09 R243). -/
def bxBytes (p : Nat) : Nat := 2 + 2 * (p + 1)

/-- Element i of a block held as a number; none for a NaN block. -/
def bxElem (p blk i : Nat) : Option FV :=
  let ex := fieldN blk 0 8
  if ex = 255 then none
  else
    let el := fieldN blk (16 + i * (p + 1)) (p + 1)
    let mu : Int := if bitN blk (8 + i / 2) then 1 else 0
    some (.fin (bitN el p) (fieldN el 0 p) ((ex : Int) - 127 - p + 1 - 2 * mu))

/-- The larger of two finite magnitudes. -/
def maxMag (a b : Nat × Int) : Nat × Int :=
  if cmpFV (.fin false a.1 a.2) (.fin false b.1 b.2) ≥ 0 then a else b

/-- Pack 16 F32 patterns into a block (09 R244). bxo: a magnitude saturates that lies below the binade of E, or an infinite element
(log 73). -/
def bxPack (p : Nat) (xs : List Nat) : Nat × Flags :=
  let vs := xs.map (unpack Fmt.f32)
  if vs.any FV.isNan then (255, flagIf (xs.any (isSnan Fmt.f32)) flNv)
  else
    let anyInf := vs.any FV.isInf
    let mags : List (Nat × Int) := vs.map (fun v => match v with
      | .fin _ m e => (m, e)
      | _ => (1, 1000))
    let top := mags.foldl maxMag (0, 0)
    let ex : Nat := if top.1 = 0 then 0
      else (max 0 (min 254 ((Nat.log2 top.1 : Int) + top.2 + 127))).toNat
    let pairMag := fun j => maxMag (mags.getD (2 * j) (0, 0)) (mags.getD (2 * j + 1) (0, 0))
    let mu := fun j => decide (cmpFV (.fin false (pairMag j).1 (pairMag j).2) (.fin false 1 ((ex : Int) - 128)) < 0)
    let elem := fun i =>
      let v := vs.getD i (.fin false 0 0)
      let sc : Int := (ex : Int) - 127 - p + 1 - 2 * (if mu (i / 2) then 1 else 0)
      match v with
      | .fin n m e =>
        let t := roundAt n m e false sc .rne
        let q := if t.1 > 2 ^ p - 1 then 2 ^ p - 1 else t.1
        let big := decide (2 ^ p ≤ t.1) && decide (cmpFV (.fin false m e) (.fin false 1 ((ex : Int) - 127)) < 0)
        (n, q, flagIf big flBxo ||| flagIf (cmpFV (.fin false q sc) (.fin false m e) != 0) flNx)
      | w => (w.neg, 2 ^ p - 1, flBxo ||| flNx)
    let els := (List.range 16).map elem
    let body := (List.range 16).foldl (fun a i =>
      let t := els.getD i (false, 0, 0#10)
      a + (t.2.1 + (if t.1 then 2 ^ p else 0)) * 2 ^ (16 + i * (p + 1))) 0
    let mus := (List.range 8).foldl (fun a j => if mu j then a + 2 ^ (8 + j) else a) 0
    (body + mus + ex, els.foldl (fun a t => a ||| t.2.2) (flagIf anyInf flBxo))

/-! The lane tree (09 R249). -/

/-- Combine two nodes of the tree. -/
def combine {α : Type} (op : α → α → α) (a b : Option α) : Option α :=
  match a, b with
  | some x, some y => some (op x y)
  | some x, none => some x
  | none, y => y

/-- One level: pairs of neighbours. -/
def treeLevel {α : Type} (op : α → α → α) : List (Option α) → List (Option α)
  | a :: b :: r => combine op a b :: treeLevel op r
  | r => r

/-- The tree of 96 leaves: widths 48, 24, 12, 6, 3, then the last two combinations. -/
def laneTree {α : Type} (op : α → α → α) (leaves : List (Option α)) : Option α :=
  let l3 := treeLevel op (treeLevel op (treeLevel op (treeLevel op (treeLevel op leaves))))
  combine op (combine op (l3.getD 0 none) (l3.getD 1 none)) (l3.getD 2 none)

/-- The matrix sum of 09 R250 for F32: exact, rounded once under RNE. -/
def matrixSum (acc : Nat) (prods : List (FV × FV)) : FRes :=
  let a := unpack Fmt.f32 acc
  let ps := prods.map (fun p => if p.1.isNan || p.2.isNan then none else mulFV p.1 p.2)
  if a.isNan || ps.any Option.isNone then invalid Fmt.f32
  else
    match sumFV .rne (a :: ps.filterMap id) with
    | none => invalid Fmt.f32
    | some v =>
      let v' := match v with
        | .fin _ 0 e => .fin ((a :: ps.filterMap id).all (fun t => t.neg && t.isZero)) 0 e
        | w => w
      roundFV Fmt.f32 .rne v'

end Sys2Proof.Machine
end

