-- ==== Sys2Proof/Machine/State.lean ====
section
/-! DEFINITION. The state of the whole module as plain data: threads, gangs, quills, translation, the memory system, the
domain fabric, queues and launch, Ductus, power, host interface; why a step can stop; the machine after reset.
Finite maps (FMap) list only what exists or differs from reset. -/
namespace Sys2Proof.Machine
open Sys2Proof

/-- Why the machine stops. -/
inductive Fault where
  /-- A row that acts as a thread was executed while State.cur names no live thread: no instruction stream of the
  machine executes it. Raised by Issue.instr and the meanings of Unit.lean. Safe. -/
  | noThread
deriving DecidableEq, Repr

/-- Why a row has no meaning. -/
inductive Refusal where
  /-- The row has no meaning in this model yet. Raised by Dispatch alone. Safe. -/
  | notModelled (mnemonic : String)
deriving DecidableEq, Repr

/-! ## Threads (04, 08, 11, 15) -/

/-- Privilege modes (R220). -/
inductive Mode where | user | sup | hyp
deriving DecidableEq, Repr

/-- A vector register: lanes, poisoned lanes, tag (R86, R90, R117). -/
structure VReg where
  lanes : Lanes
  poison : Mask
  tag : Bool
deriving DecidableEq, Repr

/-- A scalar register (R88, R117). -/
structure SReg where
  val : Word
  poison : Bool
deriving DecidableEq, Repr

/-- A predicate; poison per 32 bits (R89, R117). -/
structure KReg where
  bits : Mask
  poison : BitVec 3
deriving DecidableEq, Repr

/-- A loop level: its handle, the offsets of its start and end, which never wrap (R55), and the remaining count (R295). -/
structure Level where
  handle : BitVec 16
  start : Nat
  stop : Nat
  left : Word
deriving DecidableEq, Repr

/-- A trap frame (R402, R310). -/
structure Frame where
  pc : DWord
  mask : Mask
  /-- which of tfmask0-2 hold a poisoned word of s0-s2 (R117; log 95) -/
  pois : BitVec 3
  cause : Word
  val : DWord
  syn : Word
  rdom : DWord
  rinfo : Word
  levels : List Level
deriving DecidableEq, Repr

/-- A frame whose registers are all zero (R404). -/
def Frame.zero : Frame := { pc := 0, mask := 0, pois := 0, cause := 0, val := 0, syn := 0, rdom := 0, rinfo := 0, levels := [] }

/-- A pattern register (R336). -/
structure Pat where
  hdr : Word
  fields : List (BitVec 16)
deriving DecidableEq, Repr

/-- A remote-fault record (R160). -/
structure RFault where
  addr : DWord
  peer : BitVec 9
  cls : BitVec 5
  count : BitVec 16
deriving DecidableEq, Repr

/-- A handle-table entry that a thread holds (R53, R57). -/
structure SegEnt where
  base : Nat
  limit : Nat
  shared : Bool
  hyp : Bool
  sys : Bool
deriving DecidableEq, Repr

/-- A trap waiting to be taken: cause, trapping set, value, syndrome. -/
structure TrapInfo where
  cause : Nat
  set : Mask
  val : DWord
  syn : Word
deriving DecidableEq, Repr

/-- A resource that an instruction may find full (R406): the matrix queue, an engine stream, the 1,024 domain requests of a quill
with the number of those that the instruction sends, or the miss table of the die (R76, R175, R364, R379). -/
inductive Room where
  | matrix
  | stream (st : Stream)
  | requests (n : Nat)
  | misses
deriving DecidableEq, Repr

/-- The unit being executed: its prefixes, the words of its instruction, and what fetching found (R252, R261-R267). -/
structure Latch where
  px : Px
  /-- words of the prefixes executed so far -/
  n : Nat
  w0 : Word
  w1 : Word
  /-- the orphan reason and the following word, for a prefix that is orphaned (R266) -/
  orphan : Option (Nat × Word)
  /-- cause, value and syndrome of a fetch fault -/
  fetch : Option (Nat × DWord × Word)
  /-- the unit has ended in a trap or a wait -/
  closed : Bool
  /-- the unit waits: its next turn executes it again without a fetch (R406) -/
  kept : Bool
  /-- the full resource for which the unit waits, if that is why it waits (R406) -/
  full : Option Room
deriving DecidableEq, Repr

/-- The latch between units. -/
def Latch.empty : Latch :=
  { px := Px.none, n := 0, w0 := 0, w1 := 0, orphan := none, fetch := none, closed := false, kept := false, full := none }

/-- What a thread waits for (R215). -/
inductive Wait where
  | none
  | bar (n : Nat)
  | fol
  | pop (d : Nat)
  | push (w : Word)
  /-- an ordbeg that waits while the gang holds a section: its key, and the active lanes that its ordered-key trap names (R303) -/
  | ordheld (key : Word) (set : Mask)
  | ordbeg (key : Word)
  | mark (form scope : Nat)
  | arwait (aw : Nat × Nat) (gen : Word) (acq : Option Nat) (wr : Option Nat)
  | edrain (scope : Nat)
  | shootdown
deriving DecidableEq, Repr

/-- Where an access goes: memory by kind, effective policy (for device registers, the code of the mode that accesses them)
and physical address, with the context, the virtual address and the size in bits of the page that translated it; a peer's
window; a scratchpad of a gang by physical offset; nowhere. -/
inductive Tgt where
  | mem (kind pol pa : Nat) (vmid asid va sz : Nat)
  /-- a texel block read through the decoder: L1 key of its decoded line, and its compressed bytes (R136, R137) -/
  | dec (key pa : Nat) (vmid asid va sz : Nat)
  | dom (peer off : Nat)
  | scr (gang p : Nat)
  | skip
deriving DecidableEq, Repr

/-- How far an access has come (R143, R145, R158-R160); `again`: a load that was abandoned and translates afresh before it is
pending again (R83, R173). -/
inductive APhase where
  | pend | sent | taken | quill | home | acked | refused (cls : Nat) | again
deriving DecidableEq, Repr

/-- One access of one lane: single-copy atomic (R142). -/
structure Acc where
  lane : Nat
  tgt : Tgt
  size : Nat
  /-- store bytes or atomic operand; the bytes taken by a load or returned by an atomic -/
  data : List Byte
  cmp : List Byte
  got : List Byte
  ph : APhase
  poison : Bool
  /-- domain request that carries it -/
  req : Option Nat
  /-- bytes of its result that R163 leaves undefined, by number -/
  und : List Nat
deriving DecidableEq, Repr

/-- What kind of entry an operation is in the queues of its thread (R148, R149). -/
inductive OpKind where
  | load | store
  | atomic (op : AtomOp) (wide : Bool)
  /-- push to the decision queue (R169) -/
  | push
deriving DecidableEq, Repr

/-- What becomes of the values of a load or an atomic. -/
inductive Fin where
  | none
  | vload (sz d : Nat)
  | sload (sz d : Nat)
  /-- extracting load: register, and per lane the first bit, the width and the sign extension (R338) -/
  | xload (d : Nat) (lanes : List (Nat × Nat × Nat × Bool))
  /-- table unit: mode, register, rounding mode, saturation, and per lane the value t, flags and entry count (R362) -/
  | table (k : TblKind) (d rm : Nat) (sat : Bool) (x0 inv n : Nat) (lanes : List (Nat × Nat))
  /-- texture: function, channel, register, descriptor words, and per lane its inputs and status (R389) -/
  | texture (fn ch d : Nat) (desc : List Word) (lanes : List (Nat × List Nat × Nat))
  | vatom (d : Nat) (wide : Bool)
  | satom (d : Nat) (wide : Bool)
deriving DecidableEq, Repr

/-- An entry of a thread's load and store queues, in program order. -/
structure MemOp where
  ser : Nat
  kind : OpKind
  /-- the mode in which the instruction issued (R67) -/
  mode : Mode
  /-- the cache policy that the instruction requests (R68) -/
  pol : Nat
  accs : List Acc
  acq : Option Nat
  rel : Option Nat
  fin : Fin
  /-- the values have gone to their registers, or there is nothing to deliver -/
  dlv : Bool
deriving DecidableEq, Repr

/-- A translation: physical address of the page, kind, policy, permissions of both stages together, decode format, then
the permissions of stage 1 alone, the levels of the leaves of stages 1 and 2, and the size of the page in bits
(R63, R66, R72). -/
structure Leaf where
  pa : Nat
  kind : Nat
  pol : Nat
  r : Bool
  w : Bool
  x : Bool
  user : Bool
  dw : Option Nat
  r1 : Bool
  w1 : Bool
  x1 : Bool
  l1 : Nat
  l2 : Nat
  sz : Nat
deriving DecidableEq, Repr

/-- The answer of a walk for one page (R77, R78): a translation, or the class, level and stage at which it ended. -/
inductive WalkRes where
  | ok (l : Leaf)
  | bad (cls level stage : Nat)
deriving DecidableEq, Repr

/-- A late flag (R366): from a matrix entry, or from an access that writes vector (scal false) or scalar registers. -/
structure LateFlag where
  fl : Flags
  matrix : Bool
  scal : Bool
  d : Nat
  len : Nat
deriving DecidableEq, Repr

/-- A thread: a warp or a nib. -/
structure Thread where
  gang : Nat
  quill : Nat
  slot : Nat
  nib : Bool
  warp : Nat
  asid : Nat
  vmid : Nat
  prio : Nat
  pcH : BitVec 16
  pcO : Nat
  seg : Option SegEnt
  /-- the segment entry has to be read before the next fetch (R57, resumed warps) -/
  segFresh : Bool
  /-- the next fetch is the first unit at an entry vector: 1 at svec, 2 at hvec (R401) -/
  atVec : Nat
  mode : Mode
  v : List VReg
  s : List SReg
  k : List KReg
  fstat : Word
  loops : List Level
  sup : List Frame
  hyp : List Frame
  bankS : List SReg
  bankH : List SReg
  uck : Bool
  take : BitVec 7
  svec : DWord
  hvec : DWord
  xpat : List Pat
  rfault : Option RFault
  mq : List MemOp
  ser : Nat
  /-- enabled flags raised late whose trap is pending, with the register run of the access (R366) -/
  late : List LateFlag
  /-- last phase crossed (R476) -/
  phase : Option (BitVec 8)
  /-- the control-clock count that it has read last (R298) -/
  clkLow : Nat
  dqpos : Nat
  wait : Wait
  /-- offset after the waiting unit -/
  wend : Nat
  latch : Latch
  /-- translations delivered for the waiting instruction: page number and result (R75, R76) -/
  dlvd : List (Nat × WalkRes)
  exited : Bool
deriving DecidableEq, Repr

/-! ## Gangs, folio gangs, grids (08, 16) -/

/-- A run of allocation units. -/
structure Run where
  first : Nat
  len : Nat
deriving DecidableEq, Repr

/-- A gang; its key is its launch sequence number (R227). -/
structure Gang where
  grid : Nat
  quill : Nat
  index : Nat
  member : Nat
  fgang : Option Nat
  warps : List Nat
  nib : Option Nat
  sregs : Nat
  vregs : Nat
  vrun : Run
  srun : Run
  scrRun : Run
  accRun : Run
  slots : List Nat
  scr : FMap Byte
  scrPoison : List Nat
  acc : FMap Word
  accPoison : List Nat
  /-- arrivals at the 16 gang barriers: barrier, thread -/
  bars : List (Nat × Nat)
  /-- decision queue: words, and the index of the first -/
  dq : List Word
  dqBase : Nat
  /-- frontier of the ordered sections and the section held (R303) -/
  frontier : Nat
  held : Option (Nat × Word)
  clkreq : List (Option Nat)
  phaseMark : Option (BitVec 8)
  /-- a clkdiv since the previous mark (R480) -/
  divSet : Bool
  level : Option Nat
  pins : List (Nat × Nat)
  ended : Bool
deriving DecidableEq, Repr

/-- A folio gang (R204). -/
structure FGang where
  grid : Nat
  folio : Nat
  slot : Nat
  members : List Nat
  arrived : List Nat
deriving DecidableEq, Repr

/-- The fields of a kernel descriptor that launch uses (R489). -/
structure Kernel where
  handle : Nat
  entry : Nat
  nibEntry : Nat
  warps : Nat
  vregs : Nat
  sregs : Nat
  nibSregs : Nat
  scr : Nat
  acc : Nat
  members : Nat
  kid : Nat
  mbx : Nat
deriving DecidableEq, Repr

/-- The fields of an operator record that a grid keeps (R430). -/
structure Oper where
  arg : DWord
  gx : Nat
  gy : Nat
  gz : Nat
  order : Nat
  bx : Nat
  by' : Nat
  resident : Bool
  join : Bool
  uck : Bool
  take : BitVec 7
  mbx : List Word
deriving DecidableEq, Repr

/-- A grid in flight. -/
structure Grid where
  queue : Nat
  recNo : Nat
  op : Oper
  ker : Kernel
  asid : Nat
  vmid : Nat
  active : Nat
  /-- gangs (or folio gangs) handed over so far, in walker order (R433) -/
  next : Nat
  /-- tick since which the head gang waits (R436) -/
  since : Option Nat
  lastQuill : Option Nat
  lastFolio : Option Nat
  halt : Bool
  overflow : Bool
  abort : Bool
  refused : Bool
  done : Bool
deriving DecidableEq, Repr

/-! ## Quills (04, 06, 14, 15, 19) -/

/-- A pending store (R145) with the context and address that it was translated from; `vis`: its line may be held in an L1, so its
quill-perform changed state (R147); `red`: an element of a reduce-store that has been sent to its home, with its operation
(R384). -/
structure PEnt where
  tid : Nat
  ser : Nat
  acc : Nat
  kind : Nat
  pol : Nat
  pa : Nat
  data : List Byte
  vis : Bool
  vmid : Nat
  asid : Nat
  va : Nat
  red : Option Nat
deriving DecidableEq, Repr

/-- An entry of the matrix queue (R364): the instruction, its thread, the register numbers' values it read at issue. -/
structure MEnt where
  tid : Nat
  gang : Nat
  /-- function of major 28, or 16 + z for mma -/
  fn : Nat
  mask : Mask
  rm : Nat
  sat : Bool
  s32 : Bool
  fmt : Nat
  n : Nat
  d : Nat
  a : Nat
  /-- register operands read at issue -/
  regs : List Word
  aDesc : Option (List Word)
  bDesc : List Word
  /-- issue serial of the thread: stores below it come first (R162) -/
  ser : Nat
  /-- its sequence number in the queue (R387) -/
  seq : Nat
  /-- bytes of the scratchpad operands read ahead of the commit, by number, A before B (R167) -/
  snap : FMap Byte
  /-- its writes have taken place: the operand bytes of A and of B that it has still to count (R376) -/
  owed : Option (Nat × Nat)
deriving DecidableEq, Repr

/-- An engine command (R380-R384). -/
structure EngCmd where
  seq : Nat
  tid : Nat
  gang : Nat
  cmd : Nat
  dst : Nat
  src : Nat
  scope : Nat
  op : Nat
  pol : Nat
  mode : Mode
  asid : Nat
  vmid : Nat
  srcA : DWord
  dstA : DWord
  rows : Nat
  len : Nat
  sstr : Int
  dstr : Int
  idx : Nat
  aw : Option Nat
  /-- issue serial of the thread: stores below it come first (R162) -/
  ser : Nat
  started : Bool
  /-- committed position -/
  e : Nat
  /-- source bytes read ahead: e and byte -/
  buf : FMap Byte
  /-- positions already written once or sent -/
  wrote : List Nat
  /-- positions that a thread touched before their count (R163) -/
  taint : List Nat
deriving DecidableEq, Repr

/-- An engine stream of a quill. -/
structure EngStream where
  seq : Nat
  cmds : List EngCmd
deriving DecidableEq, Repr

/-- The engine-fault frame (R408). -/
structure EFrame where
  stop : Bool
  abort : Bool
  stream : Nat
  cls : Nat
  seq : Nat
  index : Nat
  addr : DWord
  pcs : List (Nat × DWord)
  pcn : Option DWord
  com : List (Nat × Nat)
  spec : List (Nat × Nat)
deriving DecidableEq, Repr

/-- An engine-fault frame at reset. -/
def EFrame.zero : EFrame :=
  { stop := false, abort := false, stream := 0, cls := 0, seq := 0, index := 0, addr := 0, pcs := [], pcn := none,
    com := [], spec := [] }

/-- An engine fault that has stopped a quill's issue and whose frame is not written yet (R407): stream, class, sequence number,
index, address; the syndrome and context of a translation fault; the physical address of poison. -/
structure EFault where
  stream : Nat
  cls : Nat
  seq : Nat
  index : Nat
  addr : DWord
  syn : Option (Word × Nat × Nat)
  pa : Option Nat
  /-- the tick count at the fault (R80) -/
  tick : Nat
deriving DecidableEq, Repr

/-- One quill. -/
structure Quill where
  /-- divisors of the control, vector, matrix and copy domains (R15) -/
  div : List Nat
  /-- control-clock count at a reference edge, and that edge's number (R15, R298) -/
  clkAt : Nat
  clkTick : Nat
  pq : List PEnt
  cq : FMap (List Byte)
  mx : List MEnt
  mxSeq : Nat
  copy : EngStream
  gather : EngStream
  efs : EFrame
  /-- an engine fault between the first step of R407 and the third -/
  fault : Option EFault
  /-- refusals and the longest request refused, of vector units, scalar units, scratchpad and accumulator store; from eight
  refusals on the resource is in hold-back (R214) -/
  refusals : List (Nat × Nat)
  /-- stopped by an engine fault or a pre-emption (R407, R410) -/
  halted : Bool
  /-- issue under a throttle: context, span of 64 control clocks, clocks used in it, the last of them (R484) -/
  issued : FMap (Nat × Nat × Nat)
deriving DecidableEq, Repr

/-- A quill at reset (R15). -/
def Quill.init : Quill :=
  { div := [2, 3, 4, 3], clkAt := 0, clkTick := 0, pq := [], cq := [], mx := [], mxSeq := 0,
    copy := { seq := 0, cmds := [] }, gather := { seq := 0, cmds := [] }, efs := EFrame.zero, fault := none,
    refusals := List.replicate 4 (0, 0), halted := false, issued := [] }

/-! ## Translation (03) -/

/-- A TLB entry: one page of 2^size bytes (R73). -/
structure TlbEnt where
  vmid : Nat
  asid : Option Nat
  page : Nat
  size : Nat
  res : WalkRes
deriving DecidableEq, Repr

/-- A descriptor or table pointer in a walk cache (R73, R74): context (none for stage 2), level of the entry (3 for a
descriptor), the address bits above it, and its value. -/
structure WcEnt where
  vmid : Nat
  asid : Option Nat
  level : Nat
  tag : Nat
  val : Nat
deriving DecidableEq, Repr

/-- A miss in a miss table (R75, R76): context, page number VA[54:16], threads that wait. -/
structure Miss where
  vmid : Nat
  asid : Nat
  page : Nat
  first : Bool
  who : List Nat
  walking : Bool
deriving DecidableEq, Repr

/-- A fault class that a walk delivered to an engine or to the hub (R75): who asked, context, page, result. -/
structure Deliv where
  who : Nat
  vmid : Nat
  asid : Nat
  page : Nat
  res : WalkRes
deriving DecidableEq, Repr

/-- A shoot-down (R82-R84). -/
structure Shoot where
  who : Option Nat
  op : Nat
  vmid : Nat
  asid : Nat
  addr : Nat
  /-- the entries have been removed -/
  removed : Bool
deriving DecidableEq, Repr

/-- Translation registers, TLBs (by `tlbKey…`: die TLBs 0 to 7, the export TLB 8, then folio, quill and instruction TLBs), walk
caches of the quill dies, miss tables (die 8 is the hub), shoot-downs, fault buffer. -/
structure Xlate where
  ctxtab : DWord
  vmtab : DWord
  xfbase : DWord
  xfhead : Word
  xftail : Word
  xfovf : Bool
  xfdrop : Word
  segtab : DWord
  tlb : FMap (List TlbEnt)
  wc : FMap (List WcEnt)
  miss : FMap (List Miss)
  /-- what walks have delivered to engines and to the hub -/
  dlvd : List Deliv
  /-- the page that the row under way lacks at the hub: context, page number, and whether it goes ahead (R76) -/
  want : Option (Nat × Nat × Nat × Bool)
  shoots : List Shoot
deriving DecidableEq, Repr

/-! ## Inkwell, GDDR, staging (04, 05) -/

/-- A bandwidth-reservation register of a channel (R132). -/
structure Chrsv where
  share : Nat
  lent : Word
  inEffect : Nat
  frames : Nat
deriving DecidableEq, Repr

/-- Memory beside the bytes. Poisoned units are named by physical address of their first byte and size. -/
structure Store where
  stgown : FMap (List Word)
  staging : FMap (FMap Byte)
  stgPoison : List (Nat × Nat)
  /-- staging bytes taken by contexts (R416): vmid and asid, and the map -/
  grants : List (Nat × Nat × List Byte)
  chrsv : FMap Chrsv
  astc : List DWord
  windows : List Nat
  poison : List (Nat × Nat)
  inkfill : List Nat
deriving DecidableEq, Repr

/-! ## The domain fabric (07) -/

/-- Where the accesses of an outstanding request belong: thread, operation, accesses; or an engine command. -/
inductive ReqOwner where
  | thread (tid ser : Nat) (accs : List Nat)
  | engine (quill : Nat) (st : Stream) (seq e : Nat)
deriving DecidableEq, Repr

/-- A request at its source (R174, R175). -/
structure OutReq where
  id : Nat
  peer : Nat
  lane : Nat
  quill : Nat
  port : Option Nat
  sentAt : Nat
  owner : ReqOwner
  req : Request
  line : Nat
  /-- it has left the port: a stopped virtual lane does not hold it there (R189) -/
  gone : Bool
deriving DecidableEq, Repr

/-- A part of an access of an arrived request, single-copy atomic (R142): the access, its first byte there, the physical address,
size and data; the bytes that it returned once it has performed. -/
structure ServePart where
  acc : Nat
  first : Nat
  pa : Nat
  size : Nat
  data : List Byte
  got : Option (List Byte)
deriving DecidableEq, Repr

/-- A request that has passed its checks at this device and performs (R180, R185): its kind of memory, the context of its
translation, its parts. -/
structure Serve where
  req : Request
  kind : Nat
  vmid : Nat
  asid : Nat
  parts : List ServePart
deriving DecidableEq, Repr

/-- One domain port (R191). -/
structure Port where
  replays : Nat
  ppeer : BitVec 9
  pport : BitVec 5
  half : Bool
  rev : Bool
  speed : BitVec 2
  state : BitVec 2
  stopped : List Nat
deriving DecidableEq, Repr

/-- A domain port at reset. -/
def Port.init : Port :=
  { replays := 0, ppeer := 0, pport := 0, half := false, rev := false, speed := 0, state := 0, stopped := [] }

/-- The fabric of this device. -/
structure Fabric where
  peer : BitVec 9
  size : BitVec 10
  domexp : DWord
  domexpEff : DWord
  allow : List DWord
  domto : Word
  lost : Bool
  lastadj : BitVec 16
  tport : BitVec 5
  tsource : BitVec 9
  /-- hops from each port's partner to the time source, 0 where it has no path (R195) -/
  hops : List Nat
  ports : List Port
  route : FMap DWord
  /-- routes in effect, for lanes that still use an old one: peer, lane, value -/
  oldRoute : List (Nat × Nat × DWord)
  out : List OutReq
  nextId : Nat
  /-- requests that perform at this device, in the order in which they passed their checks -/
  serving : List Serve
  /-- answers that the device has given to its peers: id, class or data -/
  answers : List (Nat × Nat × Option Nat × List (List Byte))
  /-- loopback answers on their way: request, class, data (R33) -/
  loopback : List (Nat × Option Nat × List (List Byte))
  /-- requests that timed out, for which a response may still come (R187) -/
  expired : List OutReq
  exch : Option (DWord × DWord × DWord)
deriving DecidableEq, Repr

/-! ## Queues, launch, placement (16, 20) -/

/-- A packet as it was read: slot and 64 bytes. -/
structure Packet where
  index : Nat
  bytes : List Byte
deriving DecidableEq, Repr

/-- What a queue thread is doing with its packet. -/
inductive QExec where
  | idle
  /-- a wait since a tick, last value read -/
  | waiting (since : Nat) (last : DWord)
  /-- a chain: next record, started, failing code, its detail and address -/
  | chain (next started : Nat) (code detail : Nat) (addr : DWord) (last : Bool)
  /-- a fill: bytes that it has written (R121) -/
  | fill (off : Nat)
  /-- retiring: code, detail, index, value (R423) -/
  | retiring (code detail index : Nat) (val : DWord)
  /-- the status is written; `w`: the signal of the host kind that has been read, and the value that the second half of its update
  writes (R423, R428) -/
  | updating (status : Nat) (w : Option (Nat × DWord))
deriving DecidableEq, Repr

/-- One queue (R414-R418). -/
structure Queue where
  ctl : DWord
  base : DWord
  stg : DWord
  sev : DWord
  svec : DWord
  hvec : DWord
  en : Bool
  fetched : Word
  retired : Word
  lasterr : BitVec 8
  state : BitVec 3
  pre : List Packet
  /-- the bytes read so far of a slot of a ring in host memory, eight at a time (R420) -/
  head : List Byte
  paused : Bool
  fence : Bool
  cur : Option Packet
  exec : QExec
  /-- the shadow bank: an expanded record, or the error found and whether its record joins (R432) -/
  shadow : Option (Sum (Oper × Kernel) (Nat × Nat × DWord × Bool))
  lastPoll : Nat
  lastEval : Nat
  evk : Nat
  disabling : Bool
deriving DecidableEq, Repr

/-- A queue at reset. -/
def Queue.init : Queue :=
  { ctl := 0, base := 0, stg := 0, sev := 0, svec := 0, hvec := 0, en := false, fetched := 0, retired := 0, lasterr := 0,
    state := 0, pre := [], head := [], paused := false, fence := false, cur := none, exec := .idle, shadow := none, lastPoll := 0,
    lastEval := 0, evk := 0, disabling := false }

/-- The saved state of one quill of a partition (R410, R411). -/
structure SavedQuill where
  quill : Quill
  gangs : FMap Gang
  threads : FMap Thread
deriving DecidableEq, Repr

/-- A saved partition: in a shadow bank of a partition, or in a save area. -/
structure Saved where
  part : Nat
  shadow : Bool
  quills : List SavedQuill
  fgangs : FMap FGang
  since : Nat
deriving DecidableEq, Repr

/-- A segment request waiting or done (R496). -/
structure SegReq where
  reg : DWord
  busy : Bool
  code : Nat
  alloc : List Nat
  /-- revoked handles, with the grids then in flight -/
  freeing : List (Nat × List Nat)
deriving DecidableEq, Repr

/-- A record of an event ring that is not yet written: its queue and number, its kind, the context and the address of its slot, its
bytes (R441). -/
structure EvRec where
  queue : Nat
  num : Nat
  kind : Nat
  vmid : Nat
  asid : Nat
  va : Nat
  data : List Byte
deriving DecidableEq, Repr

/-- The Scriptorium's registers and the placer. -/
structure Scrip where
  q : FMap Queue
  /-- records of event rings that wait for their translation, oldest first (R75, R441) -/
  events : List EvRec
  ptcfg : DWord
  ptreq : DWord
  ptbusy : Bool
  ptwant : List Nat
  /-- partitions whose quills have stopped issue for a pre-emption (R410) -/
  drain : List Nat
  seg : SegReq
  nextGang : Nat
  nextGrid : Nat
  nextThread : Nat
  nextFg : Nat
  lastQuill : Option Nat
  lastFolio : Option Nat
  saved : List Saved
  measures : List (List Byte)
deriving DecidableEq, Repr

/-! ## Ductus (17, 18) -/

/-- A line core (R442, R461-R463, R474, R475): registers, line buffers, weight tile and accumulator hold what differs from
zero rows. -/
structure Core where
  /-- d0-d63: 32 words each -/
  d : FMap (List Word)
  /-- c0-c31 -/
  c : List Word
  /-- lb0-lb15: pixels by number -/
  lb : FMap (FMap DWord)
  /-- rows of the weight tile -/
  W : FMap (List (BitVec 16))
  /-- rows of the accumulator -/
  acc : FMap (List Word)
  /-- loop levels, innermost first: start, end, remaining -/
  loops : List (Nat × Nat × Nat)
  /-- bundle index -/
  pc : Nat
  /-- the band that runs: head, n, b -/
  busy : Option (Nat × Nat × Nat)
  /-- the tick at which the bundle at pc started, once its mst has written a pixel (R473); the model's own field -/
  since : Nat
  /-- pixels that the mst of the bundle at pc has written (R470); the model's own field -/
  stored : Nat
deriving DecidableEq, Repr

/-- A core at reset (R442). -/
def Core.init : Core :=
  { d := [], c := List.replicate 32 0, lb := [], W := [], acc := [], loops := [], pc := 0, busy := none, since := 0, stored := 0 }

/-- How far a started band is (R452-R454, R457). -/
inductive BandSt where
  | waiting
  | running
  /-- its core has halted with a cause before E; the lane waits for E -/
  | faulted (cause : Nat)
  /-- emitted; its program may still run -/
  | emitted
  /-- the lane has taken the band; cause, and the source refresh -/
  | falling (cause src : Nat)
deriving DecidableEq, Repr

/-- A band that has started (R449). -/
structure Band where
  n : Nat
  b : Nat
  /-- its deadline E(n, b) -/
  deadline : Nat
  /-- the frame: sequence number and descriptor offset -/
  frame : Option (Word × Nat)
  pose : List Byte
  /-- band lines delivered (R468) -/
  delivered : List Nat
  st : BandSt
deriving DecidableEq, Repr

/-- A refresh whose bands have begun to start (R455): its destination buffer, bands emitted, and whether one fell back. -/
structure Refresh where
  n : Nat
  dst : Nat
  emitted : Nat
  fell : Bool
deriving DecidableEq, Repr

/-- A display head (R446-R457). -/
structure Head where
  ctl : DWord
  tim : DWord
  code : DWord
  ctx : DWord
  ring : DWord
  hist : DWord
  k0 : DWord
  k1 : DWord
  plane : DWord
  stat : DWord
  link : DWord
  tEn : Nat
  /-- it has been enabled since reset -/
  live : Bool
  /-- the current frame: sequence number and descriptor offset (R449) -/
  frame : Option (Word × Nat)
  /-- the pose latched last (R449) -/
  pose : List Byte
  bands : List Band
  /-- bands started since enable -/
  nextBand : Nat
  refs : List Refresh
  /-- the source: history buffer and refresh (R455) -/
  histSrc : Option (Nat × Nat)
  lastDst : Option Nat
  /-- the sequence number in the inuse word (R451) -/
  inuse : Option Word
  /-- lines scanned out since enable -/
  scan : Nat
  /-- the line sent last: refresh, line, pixels as driven (R457) -/
  sent : Option (Nat × Nat × List Word)
deriving DecidableEq, Repr

/-- A head at reset (R446). -/
def Head.init : Head :=
  { ctl := 0, tim := 0, code := 0, ctx := 0, ring := 0, hist := 0, k0 := 0, k1 := 0, plane := 0, stat := 0, link := 0,
    tEn := 0, live := false, frame := none, pose := [], bands := [], nextBand := 0, refs := [], histSrc := none,
    lastDst := none, inuse := none, scan := 0, sent := none }

/-- The presentation machine. -/
structure Ductus where
  cores : FMap Core
  code : FMap Byte
  heads : FMap Head
  dlbase : DWord
  dlhead : Word
  dltail : Word
  dlovf : Bool
  dldrop : Word
deriving DecidableEq, Repr

/-! ## Power, error log, host, bring-up (19, 21) -/

/-- A sensor (R481). -/
structure Sensor where
  sus : Bool
  why : Nat
  value : BitVec 16
  raw : BitVec 16
  same : Nat
deriving DecidableEq, Repr

/-- A sensor at reset: readings zero (log 2). -/
def Sensor.init : Sensor := { sus := false, why := 0, value := 0, raw := 0, same := 0 }

/-- A throttle register (R484) and its change count (R485). -/
structure Throttle where
  status : DWord
  share : Nat
  count : Nat
deriving DecidableEq, Repr

/-- A throttle at reset (R484). -/
def Throttle.init : Throttle := { status := 0, share := 64, count := 0 }

/-- Power and sensors (19). Sensors are numbered 128 times the die, plus 64 for a current sensor. -/
structure Power where
  /-- level of a die (R478) -/
  level : FMap Nat
  /-- a raised level that a placement waits for, and whether the rail has settled there (R480) -/
  target : FMap (Nat × Bool)
  optab : FMap DWord
  sensors : FMap Sensor
  /-- the reference period of a die's last sample (R481) -/
  sampledAt : FMap Nat
  snsmgn : FMap Word
  trips : DWord
  /-- module core-rail current in 1/8 A since a reference period, newest first, for 10 ms (R23, R483) -/
  rail : List (Nat × Nat)
  throttle : FMap Throttle
deriving DecidableEq, Repr

/-- Error log and interrupts (R501-R503). -/
structure ErrLog where
  base : DWord
  head : Word
  tail : Word
  ovf : Bool
  drop : Word
  lastMsg : Option Nat
  pendMsg : Bool
  /-- corrected errors of a unit since its last class-1 record, and the tick of that record; the key is 16 times 65,536 times the
  kind of unit (0 quill, 1 channel, 2 slice, 3 port, 4 bank), plus 65,536 times the die, plus the unit -/
  corr : FMap (Nat × Option Nat)
deriving DecidableEq, Repr

/-- The host's side. -/
structure HostIf where
  up : Bool
  /-- bring-up has stopped at a stage (R504) -/
  halted : Bool
  /-- messages sent: 64 times the function plus the vector (R501) -/
  msi : List Nat
  /-- completions of host reads: 0 data, 1 Unsupported Request, 2 poisoned (R499, R500, R502); and the bytes -/
  reads : List (Nat × List Byte)
  /-- attestation reports (R505) -/
  reports : List (List Byte)
  fwMeasure : List Byte
  /-- the firmware key that authenticated boot has fixed (R497, R505) -/
  fwKey : List Byte
deriving DecidableEq, Repr

/-! ## The schedule (the model's own: logs 4-7) -/

/-- What one turn does. -/
inductive Act where
  /-- a thread executes its next unit -/
  | thread (tid : Nat)
  /-- a row that is not an instruction takes place -/
  | event (i : Instr) (x : Input)
  /-- a TLB or a walk cache forgets an entry (R73) -/
  | evict (key n : Nat)
  | wcEvict (die n : Nat)
  /-- a TLB takes over the n-th entry of one that feeds it (R73) -/
  | tlbCopy (src dst n : Nat)
  /-- a walk in flight has read its first descriptors and pointers (R65, R75) -/
  | walkRead (die miss n : Nat)
  /-- an engine reads or writes one byte of a command ahead of its count (R163, R387) -/
  | engRead (quill : Nat) (st : Stream) (cmd e : Nat)
  | engWrite (quill : Nat) (st : Stream) (cmd e : Nat)
  /-- a matrix entry reads bytes of its scratchpad operands ahead of its commit: the first, and how many (R167, R376) -/
  | mxRead (quill n first len : Nat)
  /-- the Scriptorium writes a record of a queue's event ring that waits (R441) -/
  | ringWrite (queue : Nat)
  /-- time passes -/
  | idle
deriving DecidableEq, Repr

/-- A turn: the ticks that pass before it, and what happens. -/
structure Turn where
  dt : Nat
  act : Act
deriving DecidableEq, Repr

/-- The state of the module. -/
structure State where
  /-- the global tick counter (R17), ticks for which it still holds still, ticks that it skips at its next tick (R195), and the
  reference periods since reset (R15) -/
  tick : Nat
  hold : Nat
  skip : Nat
  cycles : Nat
  boot : DWord
  mem : List Host.Cell
  threads : FMap Thread
  gangs : FMap Gang
  fgangs : FMap FGang
  grids : FMap Grid
  quills : FMap Quill
  xl : Xlate
  st : Store
  fab : Fabric
  scrip : Scrip
  duct : Ductus
  pow : Power
  log : ErrLog
  host : HostIf
  -- the model's own
  agenda : List Turn
  cur : Nat
  inp : Input
  /-- a row that is under way has made an access that never returns, its home being on a stopped die (R483) -/
  hung : Bool
  free : Nat
deriving DecidableEq, Repr

/-! ## Reset (R504 stage 1) -/

/-- The module right after stage 1 of bring-up; what the spec gives no reset value is zero (log 2). -/
def State.reset : State :=
  { tick := 0
    hold := 0
    skip := 0
    cycles := 0
    boot := 1
    mem := []
    threads := []
    gangs := []
    fgangs := []
    grids := []
    quills := []
    xl := { ctxtab := 0, vmtab := 0, xfbase := 0, xfhead := 0, xftail := 0, xfovf := false, xfdrop := 0, segtab := 0,
            tlb := [], wc := [], miss := [], dlvd := [], want := none, shoots := [] }
    st := { stgown := [], staging := [], stgPoison := [], grants := [], chrsv := [],
            astc := List.replicate 6 0x44#64, windows := [], poison := [], inkfill := [] }
    fab := { peer := 0, size := 1, domexp := 0, domexpEff := 0, allow := 1 :: List.replicate 7 0, domto := 0x400,
             lost := false, lastadj := 0, tport := 0x1F, tsource := 0, hops := [], ports := List.replicate 18 Port.init, route := [],
             oldRoute := [], out := [], nextId := 0, serving := [], answers := [], loopback := [], expired := [], exch := none }
    scrip := { q := [], events := [], ptcfg := 0x0000_0001_0000_0000, ptreq := 0, ptbusy := false, ptwant := [], drain := [],
               seg := { reg := 0, busy := false, code := 0, alloc := [], freeing := [] }, nextGang := 0, nextGrid := 0, nextThread := 0,
               nextFg := 0, lastQuill := none, lastFolio := none, saved := [], measures := [] }
    duct := { cores := [], code := [], heads := [], dlbase := 0, dlhead := 0, dltail := 0, dlovf := false, dldrop := 0 }
    pow := { level := [], target := [], optab := [], sensors := [], sampledAt := [], snsmgn := [], trips := 0, rail := [], throttle := [] }
    log := { base := 0, head := 0, tail := 0, ovf := false, drop := 0, lastMsg := none, pendMsg := false, corr := [] }
    host := { up := false, halted := false, msi := [], reads := [], reports := [], fwMeasure := [], fwKey := [] }
    agenda := []
    cur := 0
    inp := Input.none
    hung := false
    free := 0 }

end Sys2Proof.Machine
end

