-- ==== Sys2Proof/Machine/Base.lean ====
section
/-! DEFINITION. Home values of memory, the parts of the state, the registers of a thread, segments (02), and the message
interrupts and rings that report events (R80, R501, R503). -/
namespace Sys2Proof.Machine
open Sys2Proof

/-- The outcome of a row. -/
abbrev Out := Host.Outcome State Fault Refusal

/-! ## Memory: home values of physical bytes (02 R39, 06 R145) -/

/-- What a byte reads as when nothing has written it (log 3). -/
def Memory.blank : Byte := 0

/-- The home value of a physical byte. -/
def Memory.get (m : List Host.Cell) (a : Nat) : Byte := (FMap.find m a).getD Memory.blank

/-- Write one byte, keeping the canonical form. -/
def Memory.put (m : List Host.Cell) (a : Nat) (b : Byte) : List Host.Cell :=
  if b = Memory.blank then FMap.del m a else FMap.put m a b

/-- The canonical form: rising addresses, no blank entry. -/
def Memory.wf (m : List Host.Cell) : Bool := FMap.sorted m && m.all (fun c => c.2 != Memory.blank)

/-- Consecutive bytes. -/
def Memory.read (m : List Host.Cell) (a n : Nat) : List Byte := (List.range n).map (fun i => Memory.get m (a + i))

/-- Write consecutive bytes. -/
def Memory.write : List Host.Cell → Nat → List Byte → List Host.Cell
  | m, _, [] => m
  | m, a, b :: r => Memory.write (Memory.put m a b) (a + 1) r

namespace State

def byte (s : State) (a : Nat) : Byte := Memory.get s.mem a
def bytes (s : State) (a n : Nat) : List Byte := Memory.read s.mem a n
def setBytes (s : State) (a : Nat) (bs : List Byte) : State := { s with mem := Memory.write s.mem a bs }
/-- A 64-bit word of memory, little-endian (R2). -/
def dword (s : State) (a : Nat) : DWord := BitVec.ofNat 64 (ofBytes (s.bytes a 8))

/-! ## Parts of the state -/

def thread (s : State) (t : Nat) : Option Thread := s.threads.find t
def setThread (s : State) (t : Nat) (th : Thread) : State := { s with threads := s.threads.put t th }
/-- Change a thread that exists. -/
def modThread (s : State) (t : Nat) (f : Thread → Thread) : State :=
  match s.thread t with
  | some th => s.setThread t (f th)
  | none => s
def gang (s : State) (g : Nat) : Option Gang := s.gangs.find g
def setGang (s : State) (g : Nat) (x : Gang) : State := { s with gangs := s.gangs.put g x }
/-- Change a gang that exists. -/
def modGang (s : State) (g : Nat) (f : Gang → Gang) : State :=
  match s.gang g with
  | some x => s.setGang g (f x)
  | none => s
/-- Change a grid that exists. -/
def modGrid (s : State) (g : Nat) (f : Grid → Grid) : State :=
  match s.grids.find g with
  | some x => { s with grids := s.grids.put g (f x) }
  | none => s
def quill (s : State) (q : Nat) : Quill := (s.quills.find q).getD Quill.init
def setQuill (s : State) (q : Nat) (x : Quill) : State := { s with quills := s.quills.put q x }
def modQuill (s : State) (q : Nat) (f : Quill → Quill) : State := s.setQuill q (f (s.quill q))
def queue (s : State) (q : Nat) : Queue := (s.scrip.q.find q).getD Queue.init
def setQueue (s : State) (q : Nat) (x : Queue) : State := { s with scrip := { s.scrip with q := s.scrip.q.put q x } }
def modQueue (s : State) (q : Nat) (f : Queue → Queue) : State := s.setQueue q (f (s.queue q))

/-- A fresh index of a free value (log 4). -/
def bump (s : State) : State := { s with free := s.free + 1 }

/-- The tick counter as software reads it (R17). -/
def ticks (s : State) : DWord := BitVec.ofNat 64 s.tick

end State

/-- A stream of a quill. -/
def Quill.stream (x : Quill) (st : Stream) : EngStream := match st with | .copy => x.copy | .gather => x.gather

/-- Replace a stream. -/
def Quill.setStream (x : Quill) (st : Stream) (y : EngStream) : Quill :=
  match st with
  | .copy => { x with copy := y }
  | .gather => { x with gather := y }

/-- The die of a quill (R13). -/
def dieOf (q : Nat) : Nat := q / 96
/-- The folio of a quill (R13). -/
def folioOf (q : Nat) : Nat := q / 8

/-! ## Registers of a thread (R38, R86-R90, R403) -/

namespace Thread

/-- Whether a scalar number names a bank register: s8-s15 in a privileged mode (R403). -/
def banked (th : Thread) (n : Nat) : Bool :=
  th.mode != .user && decide (8 ≤ n) && decide (n < 16) && !th.nib

def zeroS : SReg := { val := 0, poison := false }

/-- A scalar register in the executing mode. -/
def sreg (th : Thread) (n : Nat) : SReg :=
  if th.banked n then
    (if th.mode = .sup then th.bankS else th.bankH).getD (n - 8) zeroS
  else th.s.getD n zeroS

/-- Its value. -/
def sv (th : Thread) (n : Nat) : Word := (th.sreg n).val

/-- The 64-bit value of a pair (R2). -/
def sp (th : Thread) (n : Nat) : DWord := join64 (th.sv (n + 1)) (th.sv n)

/-- Write a scalar register with its poison. -/
def putS (th : Thread) (n : Nat) (r : SReg) : Thread :=
  if th.banked n then
    if th.mode = .sup then { th with bankS := setAt th.bankS (n - 8) r } else { th with bankH := setAt th.bankH (n - 8) r }
  else { th with s := setAt th.s n r }

/-- Write a scalar register. -/
def setS (th : Thread) (n : Nat) (w : Word) : Thread := th.putS n { val := w, poison := false }

/-- Write a pair (R2). -/
def setSp (th : Thread) (n : Nat) (x : DWord) : Thread := (th.setS n (lo32 x)).setS (n + 1) (hi32 x)

/-- Write the low register of a value, or the pair. -/
def setSx (th : Thread) (dbl : Bool) (n : Nat) (x : DWord) : Thread := if dbl then th.setSp n x else th.setS n (lo32 x)

/-- The activity mask (R202). -/
def mask (th : Thread) : Mask := (th.s.getD 2 zeroS).val ++ (th.s.getD 1 zeroS).val ++ (th.s.getD 0 zeroS).val

/-- Set s0-s2. -/
def setMask (th : Thread) (m : Mask) : Thread :=
  { th with s := setAt (setAt (setAt th.s 0 { val := m.extractLsb' 0 32, poison := false })
      1 { val := m.extractLsb' 32 32, poison := false }) 2 { val := m.extractLsb' 64 32, poison := false } }

/-- Set s0-s2 with their poison: bit i for register i. -/
def restoreMask (th : Thread) (m : Mask) (p : BitVec 3) : Thread :=
  { th with s := setAt (setAt (setAt th.s 0 { val := m.extractLsb' 0 32, poison := p.getLsbD 0 })
      1 { val := m.extractLsb' 32 32, poison := p.getLsbD 1 }) 2 { val := m.extractLsb' 64 32, poison := p.getLsbD 2 } }

/-- Which of s0-s2 are poisoned. -/
def maskPoison (th : Thread) : BitVec 3 :=
  BitVec.ofBool (th.sreg 2).poison ++ BitVec.ofBool (th.sreg 1).poison ++ BitVec.ofBool (th.sreg 0).poison

/-- A predicate; k0 reads as all ones (R89). -/
def kbits (th : Thread) (n : Nat) : Mask :=
  if n = 0 then BitVec.allOnes 96 else (th.k.getD n { bits := 0, poison := 0 }).bits

def kpoison (th : Thread) (n : Nat) : BitVec 3 :=
  if n = 0 then 0 else (th.k.getD n { bits := 0, poison := 0 }).poison

/-- Write a predicate: 96 bits in a warp, bit 0 in the nib (R282). -/
def setK (th : Thread) (n : Nat) (m : Mask) : Thread :=
  { th with k := setAt th.k n { bits := if th.nib then m &&& 1 else m, poison := 0 } }

/-- A vector register. -/
def vreg (th : Thread) (n : Nat) : VReg := th.v.getD n { lanes := Lanes.fill 0, poison := 0, tag := false }

/-- Lane L of a vector register. -/
def lane (th : Thread) (n L : Nat) : Word := (th.vreg n).lanes.get L

/-- The 64-bit value of a pair in lane L. -/
def lanep (th : Thread) (n L : Nat) : DWord := join64 (th.lane (n + 1) L) (th.lane n L)

/-- Write lanes of a vector register: the lanes of `m`, from `f`; the tag clears when one is written (R91). -/
def setV (th : Thread) (n : Nat) (m : Mask) (f : Nat → Word) : Thread :=
  let old := th.vreg n
  let new : VReg :=
    { lanes := Lanes.make (fun L => if m.getLsbD L then f L else old.lanes.get L), poison := old.poison &&& ~~~m, tag := false }
  if m = 0 then th else { th with v := setAt th.v n new }

/-- Write a pair of vector registers. -/
def setVp (th : Thread) (n : Nat) (m : Mask) (f : Nat → DWord) : Thread :=
  (th.setV n m (fun L => lo32 (f L))).setV (n + 1) m (fun L => hi32 (f L))

/-- Mark lanes of a vector register poisoned (R117). -/
def poisonV (th : Thread) (n : Nat) (m : Mask) : Thread :=
  let old := th.vreg n
  let new : VReg := { old with poison := old.poison ||| m, tag := if m = 0 then old.tag else false }
  { th with v := setAt th.v n new }

/-- The effective guard (R258). -/
def gbits (th : Thread) (g : BitVec 3 × Bool) : Mask :=
  if g.2 then ~~~(th.kbits g.1.toNat) else th.kbits g.1.toNat

/-- The activity mask together with the guard: M of R396. -/
def active (th : Thread) (g : BitVec 3 × Bool) : Mask := th.mask &&& th.gbits g

/-- The program counter as in R51. -/
def pc (th : Thread) : DWord := BitVec.ofNat 64 (th.pcH.toNat * 2 ^ 32 + th.pcO % 2 ^ 32)

/-- Offset of the instruction's own first word, after its prefixes. -/
def own (th : Thread) : Nat := th.pcO + 4 * th.latch.n

/-- Length in bytes of the unit's instruction (R251). -/
def ilen (th : Thread) : Nat := if th.latch.w0.extractLsb' 0 2 = 1#2 then 8 else 4

/-- Offset after the unit. -/
def nextO (th : Thread) : Nat := th.own + th.ilen

end Thread

/-- Bits of a mask as a list of lane numbers, rising. -/
def lanesOf (m : Mask) : List Nat := (List.range 96).filter (fun L => m.getLsbD L)

/-- The mask of the lanes that meet a test. -/
def maskOf (f : Nat → Bool) : Mask := (List.range 96).foldl (fun a L => if f L then a ||| (1#96 <<< L) else a) 0

/-! ## Homes (R39, R111, R128) -/

/-- The die that holds the home of a GDDR 7 address (R111). -/
def gddrDie (pa : Nat) : Nat := (List.range 14).foldl (fun a k => a ^^^ fieldN (pa / 1024) (3 * k) 3) 0

/-- The channel of a GDDR 7 address (R128). -/
def channelOf (pa : Nat) : Nat :=
  gddrDie pa * 8 + (List.range 13).foldl (fun a k => a ^^^ fieldN (pa / 1024) (3 * k + 3) 3) 0

/-- The device address in its channel (R128). -/
def deviceAddr (pa : Nat) : Nat := fieldN pa 16 22 * 1024 + pa % 1024

/-- The home slice of a GDDR 7 address (R111). -/
def homeSlice (pa : Nat) : Nat :=
  let g := pa / 1024
  gddrDie pa * 24 + (fieldN g 3 18 ^^^ fieldN g 21 18 ^^^ fieldN g 39 3) % 24

/-! ## Poisoned units (R125, R130) -/

/-- Whether an entry covers a byte: units of up to 128 bytes are named by physical address, larger regions by channel and
device address (log 13). -/
def poisonCovers (e : Nat × Nat) (a : Nat) : Bool :=
  if e.2 ≤ 128 then decide (e.1 ≤ a) && decide (a < e.1 + e.2)
  else a < 2 ^ 38 && e.1 / 2 ^ 32 == channelOf a && decide (e.1 % 2 ^ 32 ≤ deviceAddr a) &&
    decide (deviceAddr a < e.1 % 2 ^ 32 + e.2)

/-- Whether a physical range meets a poisoned unit. -/
def poisoned (s : State) (pa n : Nat) : Bool :=
  !s.st.poison.isEmpty && (List.range n).any (fun i => s.st.poison.any (fun e => poisonCovers e (pa + i)))

/-- A store of bytes clears the 64-byte entries that it covers whole (R130). -/
def clearPoison (s : State) (pa n : Nat) : State :=
  { s with st := { s.st with poison := s.st.poison.filter (fun e =>
      !(e.2 == 64 && decide (pa ≤ e.1) && decide (e.1 + 64 ≤ pa + n))) } }

/-- A store at the home: its bytes, and the poison it clears (R130). -/
def storeHome (s : State) (pa : Nat) (data : List Byte) : State := clearPoison (s.setBytes pa data) pa data.length

/-! ## Segments (R52-R57) -/

/-- The address of a handle's entry in the handle table (R52). -/
def segAddr (s : State) (h : Nat) : Nat := fieldN s.xl.segtab.toNat 20 32 * 2 ^ 20 + 16 * h

/-- The entry of a handle is poisoned. -/
def segPoisoned (s : State) (h : Nat) : Bool :=
  decide (h ≠ 0 ∧ h ≤ fieldN s.xl.segtab.toNat 0 16 ∧ segAddr s h + 16 ≤ 2 ^ 38) && poisoned s (segAddr s h) 16

/-- The handle-table entry of a handle for a context, or none where R54 refuses it; a poisoned entry gives none (log 61). -/
def readSeg (s : State) (h : Nat) (vmid asid : Nat) : Option SegEnt :=
  let last := fieldN s.xl.segtab.toNat 0 16
  let a := segAddr s h
  let lo := (s.dword a).toNat
  let hi := (s.dword (a + 8)).toNat
  if h = 0 ∨ h > last then none
  else if a + 16 > 2 ^ 38 ∨ poisoned s a 16 then none
  else if fieldN hi 0 1 = 0 ∨ fieldN hi 4 12 ≠ 0 ∨ fieldN lo 56 8 ≠ 0 ∨ fieldN lo 0 7 ≠ 0 then none
  else if fieldN hi 32 2 ≠ 0 ∨ bitN lo 55 then none
  else if fieldN hi 26 6 ≠ vmid then none
  else if fieldN hi 16 10 ≠ asid ∧ fieldN hi 3 1 = 0 then none
  else some { base := fieldN lo 7 49 * 128, limit := fieldN hi 32 32, shared := bitN hi 3, hyp := bitN hi 2, sys := bitN hi 1 }

/-- Go to an offset of a segment: the entry is read when the segment changes (R57). -/
def goto (s : State) (th : Thread) (h : BitVec 16) (o : Nat) : Thread :=
  if h = th.pcH then { th with pcO := o, atVec := 0 }
  else { th with pcH := h, pcO := o, atVec := 0, seg := readSeg s h.toNat th.vmid th.asid, segFresh := false }

/-! ## Error log and interrupts (R501, R503) -/

/-- Send the message of a vector of a function: 64 times the function plus the vector (log 49). -/
def sendMsi (s : State) (fn vec : Nat) : State := { s with host := { s.host with msi := s.host.msi ++ [64 * fn + vec] } }

/-- The interrupt of a queue (R501). -/
def queueMsi (s : State) (q : Nat) : State := sendMsi s (fieldN (s.queue q).ctl.toNat 48 6) q

/-- Write one record of 32 bytes into a ring in GDDR 7 memory: base register, head, tail; the new head, or none when the
ring is full or disabled (R80, R81). A base outside GDDR 7 names no memory: the bytes are lost. -/
def ringPut (s : State) (reg : DWord) (head tail : Word) (data : List Byte) : Option (State × Word) :=
  let n := 2 ^ (fieldN reg.toNat 0 3 + 11)
  let a := fieldN reg.toNat 16 36 * 65536 + 32 * (head.toNat % n)
  if !bitN reg.toNat 4 then none
  else if (head.toNat + 1) % n = tail.toNat % n then none
  else some (if a + 32 ≤ 2 ^ 38 then storeHome s a data else s, BitVec.ofNat 32 ((head.toNat + 1) % n))

/-- Saturating count of dropped records. -/
def satInc (w : Word) : Word := if w = BitVec.allOnes 32 then w else w + 1

/-- Bytes of a 64-bit value. -/
def bytes8 (x : Nat) : List Byte := toBytes 8 x

/-- The message of the error log: at most one in every 4,200 ticks (R503). -/
def logMsi (s : State) : State :=
  match s.log.lastMsg with
  | some t => if s.tick < t + 4200 then { s with log := { s.log with pendMsg := true } }
    else { sendMsi s 0 32 with log := { s.log with lastMsg := some s.tick, pendMsg := false } }
  | none => { sendMsi s 0 32 with log := { s.log with lastMsg := some s.tick, pendMsg := false } }

/-- Enter a record in the error log (R503): class, die, unit, detail, address. -/
def logError (s : State) (cls die unit detail addr : Nat) : State :=
  let r := bytes8 (cls % 256 + die % 256 * 256 + unit % 65536 * 2 ^ 16 + detail % 2 ^ 32 * 2 ^ 32) ++ bytes8 addr ++
    bytes8 s.tick ++ bytes8 0
  match ringPut s s.log.base s.log.head s.log.tail r with
  | some (s', h) => logMsi { s' with log := { s'.log with head := h } }
  | none => { s with log := { s.log with ovf := true, drop := satInc s.log.drop } }

/-- Enter a record in the translation fault buffer, of a fault at a tick (R80, R81). -/
def logXlate (s : State) (addr info tick : Nat) : State :=
  let r := bytes8 addr ++ bytes8 info ++ bytes8 tick ++ bytes8 0
  match ringPut s s.xl.xfbase s.xl.xfhead s.xl.xftail r with
  | some (s', h) => sendMsi { s' with xl := { s'.xl with xfhead := h } } 0 35
  | none => { s with xl := { s.xl with xfovf := true, xfdrop := satInc s.xl.xfdrop } }

/-- Enter a record in the presentation log (R458). -/
def logPresent (s : State) (w0 w1 w2 : Nat) : State :=
  let r := bytes8 w0 ++ bytes8 w1 ++ bytes8 w2 ++ bytes8 0
  match ringPut s s.duct.dlbase s.duct.dlhead s.duct.dltail r with
  | some (s', h) => sendMsi { s' with duct := { s'.duct with dlhead := h } } 0 34
  | none => { s with duct := { s.duct with dlovf := true, dldrop := satInc s.duct.dldrop } }

/-- The information word of a fault-buffer record (R80): syndrome, context, quill, engine. A record without a source quill or a
source peer holds zero there (log 62). -/
def xlateInfo (syn : Nat) (dom : Bool) (asid vmid quill eng peer : Nat) : Nat :=
  syn % 2 ^ 11 + (if dom then 2 ^ 11 else 0) + asid * 2 ^ 16 + vmid * 2 ^ 26 + quill * 2 ^ 32 + eng * 2 ^ 42 + peer * 2 ^ 45

end Sys2Proof.Machine
end

