-- ==== Sys2Proof/Machine/Walk.lean ====
section
/-! DEFINITION. The physical map and the memory kinds (02 R39-R42), table walks of one or two stages, permissions and TLB
look-up (03), and the accesses of the Scriptorium with the event records it writes (R424, R441). -/
namespace Sys2Proof.Machine
open Sys2Proof

/-! ## The physical map (R39, R40) -/

/-- Physical bases of the kinds (R39). -/
def inkBase : Nat := 0x100_0000_0000
def frameBase : Nat := 0x200_0000_0000
def devBase : Nat := 0x300_0000_0000
def hostBase : Nat := 0x8_0000_0000_0000

/-- The kind code of a physical byte; none for a hole (R39). -/
def kindOf (pa : Nat) : Option Nat :=
  if pa < 2 ^ 38 then some 0
  else if inkBase ≤ pa ∧ pa < inkBase + 6 * 2 ^ 30 then some 1
  else if frameBase ≤ pa ∧ pa < frameBase + 2 ^ 26 then some 2
  else if devBase ≤ pa ∧ pa < devBase + 2 ^ 32 then some 4
  else if hostBase ≤ pa ∧ pa < 2 ^ 52 then some 3
  else none

/-- The highest policy of a kind (R40). -/
def topPolicy (kind : Nat) : Nat :=
  match kind with
  | 0 => 3
  | 1 => 2
  | 2 => 2
  | 3 => 1
  | _ => 0

/-- Whether a page of a kind covers only its kind's range (R41). -/
def pageInKind (kind pa size : Nat) : Bool :=
  kindOf pa == some kind && kindOf (pa + size - 1) == some kind &&
  (kind != 0 || decide (pa + size ≤ 2 ^ 38)) && decide (kind ≤ 4)

/-- The die of a physical address for the error log: 8 for the hub and for what reaches no unit (R503). -/
def dieOfPa (pa : Nat) : Nat :=
  match kindOf pa with
  | some 0 => gddrDie pa
  | some 1 => (pa - inkBase) / 0x3000_0000
  | some 4 => let o := pa - devBase; if 0x1000_0000 ≤ o ∧ o < 0x1800_0000 then fieldN o 24 3 else 8
  | _ => 8

/-- A die that a trip has stopped (R483; log 20). -/
def dieStopped (s : State) (d : Nat) : Bool := s.pow.trips.getLsbD d || s.pow.trips.getLsbD (16 + d)

/-- The home or unit of a physical address lies on a stopped die: the access does not perform (R483). -/
def homeStopped (s : State) (pa : Nat) : Bool := s.pow.trips != 0 && dieStopped s (dieOfPa pa)

/-- The unit of a physical address: its channel or its bank. -/
def unitOfPa (pa : Nat) : Nat :=
  match kindOf pa with
  | some 0 => channelOf pa
  | some 1 => (pa - inkBase) / 0x200_0000
  | _ => 0

/-- The inkwell bank of a physical address has its refresh window open: a read or a fill write waits (R122, R123). -/
def bankShut (s : State) (pa : Nat) : Bool := kindOf pa == some 1 && s.st.windows.contains (unitOfPa pa)

/-- Log a consumption of poison (R131, R503): the row of the consumer, the address. -/
def logPoison (s : State) (consumer pa : Nat) : State := logError s 3 (dieOfPa pa) (unitOfPa pa) consumer pa

/-- The row under way has met an access that never returns (R483). -/
def hangIf (s : State) (c : Bool) : State := if c then { s with hung := true } else s

/-! ## Walks (R59-R72) -/

/-- Where a walk ends early: class, level, stage. Class 0 is a walk that never returns (R483). -/
abbrev WalkEnd := Nat × Nat × Nat

/-- Read a table entry (R65). -/
def pte (s : State) (table idx : Nat) : Nat := (s.dword (table + 8 * idx)).toNat

/-- A table is of the GDDR 7 kind. -/
def inGddr (a size : Nat) : Bool := decide (a + size ≤ 2 ^ 38)

/-- Checks of a leaf (R64, R72): `s2`: a stage-2 leaf; `phys`: its address is physical. -/
def leafBad (s2 phys : Bool) (level e : Nat) : Option Nat :=
  let pa := fieldN e 16 36 * 65536
  let kind := fieldN e 8 3
  if bitN e 7 ∨ fieldN e 56 8 ≠ 0 then some 2
  else if level = 2 then some 2
  else if level = 1 ∧ bitN e 15 then some 2
  else if bitN e 3 ∧ !bitN e 2 then some 2
  else if bitN e 14 then some 7
  else if level = 1 ∧ fieldN e 16 13 ≠ 0 then some 2
  else if kind > 4 ∨ fieldN e 11 2 > topPolicy kind then some 2
  else if bitN e 13 ∧ (kind ≠ 0 ∨ s2) then some 2
  else if s2 ∧ bitN e 5 then some 2
  else if phys ∧ !pageInKind kind pa (if level = 1 then 2 ^ 29 else 2 ^ 16) then some 2
  else none

/-- The bits of an address above the table that an entry of a level belongs to: what a walk cache knows the entry by. -/
def wcTag (level va : Nat) : Nat := if level = 3 then 0 else va / 2 ^ (16 + 13 * level)

/-- What a walk cache holds for an address at a level (R73, R74): stage 1 of a context, or stage 2 of a guest. -/
def wcGet (wc : List WcEnt) (vmid : Nat) (asid : Option Nat) (level va : Nat) : Option Nat :=
  (wc.find? (fun e => e.vmid == vmid && e.asid == asid && e.level == level && e.tag == wcTag level va)).map (fun e => e.val)

/-- The table that a pointer or descriptor names. -/
def nextTab (e : Nat) : Nat := fieldN e 16 36 * 65536

/-- Whether an entry is a good table pointer of a level (R62, R64). -/
def ptrOk (phys : Bool) (level e : Nat) : Bool :=
  bitN e 0 && !bitN e 1 && fieldN e 52 12 == 0 && fieldN e 2 14 == 0 && level != 0 && (!phys || inGddr (nextTab e) 65536)

/-- Walk the tables of one stage from a table (R59, R62-R64): the leaf, its level and the table that holds it. `conv` gives the
physical address of a table, from the level of the pointer that names it. A poisoned entry ends the walk in the walk-error class
(log 61). -/
def walkTab (s : State) (stage : Nat) (phys : Bool) (conv : Nat → Nat → Except WalkEnd Nat) (va : Nat) :
    Nat → Nat → Except WalkEnd (Nat × Nat × Nat)
  | 0, _ => .error (2, 0, stage)
  | n + 1, root =>
    -- n is the level of this table
    match conv (n + 1) root with
    | .error x => .error x
    | .ok t =>
      let a := t + 8 * fieldN va (16 + 13 * n) 13
      let e := pte s t (fieldN va (16 + 13 * n) 13)
      if homeStopped s a then .error (0, 0, 0)
      else if poisoned s a 8 then .error (2, n, stage)
      else if !bitN e 0 then .error (1, n, stage)
      else if bitN e 1 then
        match leafBad (stage == 1) phys n e with
        | some c => .error (c, n, stage)
        | none => .ok (e, n, t)
      else if ptrOk phys n e then walkTab s stage phys conv va n (nextTab e)
      else .error (2, n, stage)

/-- The entries that a walk of one stage reads from a table: level, value, address, and whether it is a good pointer. -/
def tabReads (s : State) (phys : Bool) (conv : Nat → Nat → Except WalkEnd Nat) (va : Nat) : Nat → Nat → List (Nat × Nat × Nat × Bool)
  | 0, _ => []
  | n + 1, root =>
    match conv (n + 1) root with
    | .error _ => []
    | .ok t =>
      let a := t + 8 * fieldN va (16 + 13 * n) 13
      let e := pte s t (fieldN va (16 + 13 * n) 13)
      if homeStopped s a ∨ poisoned s a 8 ∨ !ptrOk phys n e then [(n, e, a, false)]
      else (n, e, a, true) :: tabReads s phys conv va n (nextTab e)

/-- Where a walk of one stage starts: below the lowest pointer that the walk cache holds, or at the root (R73). -/
def walkStart (wc : List WcEnt) (vmid : Nat) (asid : Option Nat) (va : Nat) (root : Except WalkEnd Nat) : Except WalkEnd (Nat × Nat) :=
  match wcGet wc vmid asid 1 va with
  | some e => .ok (1, nextTab e)
  | none => match wcGet wc vmid asid 2 va with
    | some e => .ok (2, nextTab e)
    | none => match root with
      | .error x => .error x
      | .ok r => .ok (3, r)

/-- The page of a leaf that covers an address: 64-KiB page address and leaf level. -/
def leafPage (e level va : Nat) : Nat :=
  fieldN e 16 36 * 65536 + (if level = 1 then fieldN va 16 13 * 65536 else 0)

/-- Whether the aligned group of 32 leaves that holds an address's leaf is one page of 2 MiB (R66). A poisoned sibling fails the check,
which is never a fault: the entry of 64 KiB is installed (log 96). -/
def contigGroup (s : State) (t va : Nat) : Bool :=
  let i := fieldN va 16 13 / 32 * 32
  let f := pte s t i
  fieldN f 16 36 % 32 == 0 &&
  (List.range 32).all (fun k =>
    let e := pte s t (i + k)
    !poisoned s (t + 8 * (i + k)) 8 && bitN e 0 && bitN e 1 && bitN e 15 && !bitN e 14 && e % 65536 == f % 65536 && e / 2 ^ 52 == f / 2 ^ 52 &&
    fieldN e 16 36 == fieldN f 16 36 + k)

/-- The size in bits of the page of a leaf (R59, R66). -/
def leafSize (s : State) (e level t va : Nat) : Nat :=
  if level = 1 then 29 else if bitN e 15 && contigGroup s t va then 21 else 16

/-- The guest descriptor of a guest (R71). -/
def guestDesc (s : State) (wc : List WcEnt) (vmid : Nat) : Except WalkEnd Nat :=
  match wcGet wc vmid none 3 0 with
  | some d => .ok d
  | none =>
    let tab := fieldN s.xl.vmtab.toNat 16 36 * 65536
    if !inGddr tab 65536 then .error (2, 3, 1)
    else
      let d := pte s tab vmid
      if homeStopped s (tab + 8 * vmid) then .error (0, 0, 0)
      else if poisoned s (tab + 8 * vmid) 8 then .error (2, 3, 1)
      else if !bitN d 0 ∨ fieldN d 1 15 ≠ 0 ∨ fieldN d 52 12 ≠ 0 then .error (8, 3, 1)
      else .ok d

/-- The root table of a descriptor, where it must lie in GDDR 7. -/
def rootOf (stage : Nat) (phys : Bool) (d : Except WalkEnd Nat) : Except WalkEnd Nat :=
  match d with
  | .error x => .error x
  | .ok d => if phys && !inGddr (nextTab d) 65536 then .error (2, 3, stage) else .ok (nextTab d)

/-- Stage 2 of a guest-physical address (R71): leaf, level, table. -/
def walk2 (s : State) (wc : List WcEnt) (vmid gpa : Nat) : Except WalkEnd (Nat × Nat × Nat) :=
  let g := gpa % 2 ^ 52
  match walkStart wc vmid none g (rootOf 1 true (guestDesc s wc vmid)) with
  | .error x => .error x
  | .ok (n, t) => walkTab s 1 true (fun _ a => .ok a) g n t

/-- A context descriptor (R61); an error where it is invalid for the context. -/
def ctxDesc (s : State) (wc : List WcEnt) (vmid asid : Nat) : Except WalkEnd Nat :=
  match wcGet wc vmid (some asid) 3 0 with
  | some d => .ok d
  | none =>
    let tab := fieldN s.xl.ctxtab.toNat 16 36 * 65536
    if !inGddr tab 65536 then .error (2, 3, 0)
    else
      let d := pte s tab asid
      if homeStopped s (tab + 8 * asid) then .error (0, 0, 0)
      else if poisoned s (tab + 8 * asid) 8 then .error (2, 3, 0)
      else if !bitN d 0 ∨ bitN d 1 ∨ fieldN d 3 7 ≠ 0 ∨ fieldN d 52 12 ≠ 0 ∨ fieldN d 10 6 ≠ vmid then .error (8, 3, 0)
      else .ok d

/-- What the walk cache of a quill die holds; the hub die has none (R73). -/
def wcOf (s : State) (die : Nat) : List WcEnt := if die < 8 then (s.xl.wc.find die).getD [] else []

/-- The domain-enable bit of a context, as a die sees it (R50, R74). -/
def domEnabled (s : State) (die vmid asid : Nat) : Bool :=
  match ctxDesc s (wcOf s die) vmid asid with
  | .ok d => bitN d 2
  | .error _ => false

/-- The address of a context's descriptor (R60). -/
def descAddr (s : State) (asid : Nat) : Nat := fieldN s.xl.ctxtab.toNat 16 36 * 65536 + 8 * asid

/-- The poisoned descriptor for which a die finds a context's domain space disabled (R131, log 61). -/
def descPoison (s : State) (die vmid asid : Nat) : Option Nat :=
  match ctxDesc s (wcOf s die) vmid asid with
  | .error (2, _, _) => if poisoned s (descAddr s asid) 8 then some (descAddr s asid) else none
  | _ => none

/-- The consumption of a poisoned descriptor by a domain-space access enters the error log (R131, log 61). -/
def logDesc (s : State) (die vmid asid : Nat) : State :=
  match descPoison s die vmid asid with
  | some d => logPoison s 8 d
  | none => s

/-- The physical address of a guest table, through stage 2: it must lie in GDDR 7, else the pointer that names it, of level `lv`,
ends the walk (R77). Whether the stage-2 leaf permits reading does not matter (log 63). -/
def guestTable (s : State) (wc : List WcEnt) (vmid lv gpa : Nat) : Except WalkEnd Nat :=
  match walk2 s wc vmid gpa with
  | .error x => .error x
  | .ok (e, l, _) =>
    let pa := leafPage e l gpa
    if !inGddr pa 65536 then .error (2, lv, 0) else .ok pa

/-- How the tables of stage 1 of a context are reached. -/
def stage1Conv (s : State) (wc : List WcEnt) (vmid lv a : Nat) : Except WalkEnd Nat :=
  if vmid = 0 then .ok a else guestTable s wc vmid lv a

/-- Stage 1 of a walk: leaf, level, table. -/
def walk1 (s : State) (wc : List WcEnt) (vmid asid va : Nat) : Except WalkEnd (Nat × Nat × Nat) :=
  match walkStart wc vmid (some asid) va (rootOf 0 (vmid == 0) (ctxDesc s wc vmid asid)) with
  | .error x => .error x
  | .ok (n, t) => walkTab s 0 (vmid == 0) (stage1Conv s wc vmid) va n t

/-- The start of the page of a size in which a 64-KiB page of an address lies. -/
def pageStart (p64 size va : Nat) : Nat := p64 - va / 65536 % 2 ^ (size - 16) * 65536

/-- ctxtab or vmtab names memory of another kind than GDDR 7: the level and stage that every walk reports (R60, R77). -/
def tablesBad (s : State) : Option (Nat × Nat) :=
  if !inGddr (fieldN s.xl.ctxtab.toNat 16 36 * 65536) 65536 then some (3, 0)
  else if !inGddr (fieldN s.xl.vmtab.toNat 16 36 * 65536) 65536 then some (3, 1) else none

/-- A full walk of a local address in a context: the result, the size of the entry in bits, and whether it is global
(R59-R72). Kinds of the two stages that differ are reported with the stage-1 leaf's level and stage 0 (log 63). -/
def walk (s : State) (wc : List WcEnt) (vmid asid va : Nat) : WalkRes × Nat × Bool :=
  match tablesBad s with
  | some (l, st) => (.bad 2 l st, 16, false)
  | none => match walk1 s wc vmid asid va with
  | .error (c, l, st) => (.bad c l st, 16, false)
  | .ok (e, l, t) =>
    let size1 := leafSize s e l t va
    if vmid = 0 then
      (.ok { pa := pageStart (leafPage e l va) size1 va, kind := fieldN e 8 3, pol := fieldN e 11 2, r := bitN e 2, w := bitN e 3,
             x := bitN e 4, user := bitN e 5, dw := if bitN e 13 then some (fieldN e 52 4) else none,
             r1 := bitN e 2, w1 := bitN e 3, x1 := bitN e 4, l1 := l, l2 := 0, sz := size1 }, size1, bitN e 6)
    else
      let gpa := leafPage e l va
      match walk2 s wc vmid gpa with
      | .error (c, l2, st) => (.bad c l2 st, 16, false)
      | .ok (e2, l2, t2) =>
        if fieldN e 8 3 ≠ fieldN e2 8 3 then (.bad 2 l 0, 16, false)
        else
          let size := min size1 (leafSize s e2 l2 t2 gpa)
          (.ok { pa := pageStart (leafPage e2 l2 gpa) size va, kind := fieldN e2 8 3, pol := min (fieldN e 11 2) (fieldN e2 11 2),
                 r := bitN e 2 && bitN e2 2, w := bitN e 3 && bitN e2 3, x := bitN e 4 && bitN e2 4, user := bitN e 5,
                 dw := if bitN e 13 then some (fieldN e 52 4) else none,
                 r1 := bitN e 2, w1 := bitN e 3, x1 := bitN e 4, l1 := l, l2 := l2, sz := size }, size, bitN e 6)

/-- A walk starts at its root: the walk cache holds no pointer on its path. -/
def fromRoot (wc : List WcEnt) (vmid : Nat) (asid : Option Nat) (va : Nat) : Bool :=
  (wcGet wc vmid asid 1 va).isNone && (wcGet wc vmid asid 2 va).isNone

/-- An entry that a walk reads: what a walk cache may hold of it, its address, and whether it is a descriptor or a good pointer. -/
structure WalkRead where
  ent : WcEnt
  addr : Nat
  ptr : Bool
deriving DecidableEq, Repr

/-- The other leaves of the group of 32 that a walk reads at a leaf with contig = 1 (R66), by their addresses in the table of the leaf. -/
def groupReads (s : State) (e level t va : Nat) (ent : WcEnt) : List WalkRead :=
  if level = 0 ∧ bitN e 15 then
    ((List.range 32).filter (fun k => k != fieldN va 16 5)).map (fun k =>
      let i := fieldN va 16 13 / 32 * 32 + k
      { ent := { ent with val := pte s t i }, addr := t + 8 * i, ptr := false })
  else []

/-- The guest descriptor and the stage-2 entries that a walk of a guest-physical address reads. -/
def reads2 (s : State) (wc : List WcEnt) (vmid gpa : Nat) : List WalkRead :=
  let g := gpa % 2 ^ 52
  let ent := fun (l v : Nat) => ({ vmid := vmid, asid := none, level := l, tag := wcTag l g, val := v } : WcEnt)
  let tab := fieldN s.xl.vmtab.toNat 16 36 * 65536
  (if fromRoot wc vmid none g ∧ wcGet wc vmid none 3 0 = none then
    [{ ent := ent 3 (pte s tab vmid), addr := tab + 8 * vmid, ptr := (guestDesc s wc vmid).toOption.isSome }] else []) ++
  (match walkStart wc vmid none g (rootOf 1 true (guestDesc s wc vmid)) with
   | .ok (n, t) => (tabReads s true (fun _ a => .ok a) g n t).map (fun x => { ent := ent x.1 x.2.1, addr := x.2.2.1, ptr := x.2.2.2 })
   | .error _ => []) ++
  (match walk2 s wc vmid gpa with
   | .ok (e, l, t) => groupReads s e l t g (ent 0 0)
   | .error _ => [])

/-- The entries that a walk reads, in the order in which it reads them (R71-R74). -/
def walkReads (s : State) (wc : List WcEnt) (vmid asid va : Nat) : List WalkRead :=
  let g := fun (a : Nat) => if vmid = 0 then [] else reads2 s wc vmid a
  let ent := fun (l v : Nat) => ({ vmid := vmid, asid := some asid, level := l, tag := wcTag l va, val := v } : WcEnt)
  let tab := fieldN s.xl.ctxtab.toNat 16 36 * 65536
  (if fromRoot wc vmid (some asid) va then
    (if wcGet wc vmid (some asid) 3 0 = none then
      [{ ent := ent 3 (pte s tab asid), addr := tab + 8 * asid, ptr := (ctxDesc s wc vmid asid).toOption.isSome }] else []) ++
    (match ctxDesc s wc vmid asid with | .ok d => g (nextTab d) | .error _ => [])
   else []) ++
  (match walkStart wc vmid (some asid) va (rootOf 0 (vmid == 0) (ctxDesc s wc vmid asid)) with
   | .ok (n, t) => (tabReads s (vmid == 0) (stage1Conv s wc vmid) va n t).flatMap (fun x =>
      { ent := ent x.1 x.2.1, addr := x.2.2.1, ptr := x.2.2.2 } :: (if x.2.2.2 then g (nextTab x.2.1) else []))
   | .error _ => []) ++
  (match walk1 s wc vmid asid va with
   | .ok (e, l, t) => groupReads s e l t va (ent 0 0) ++ g (leafPage e l va)
   | .error _ => [])

/-- The descriptors and pointers among the entries that a walk reads: what a walk cache holds of it (R73, R74). -/
def walkPtrs (rs : List WalkRead) : List WcEnt := (rs.filter (fun r => r.ptr)).map (fun r => r.ent)

/-- Poisoned entries that a walk has read enter the error log; the consumer is the Scriptorium's row at the hub (R131, log 61). -/
def logWalk (s : State) (rs : List WalkRead) : State :=
  ((rs.filter (fun r => poisoned s r.addr 8)).map (fun r => r.addr)).foldl (fun s a => logPoison s 8 a) s

/-! ## Permissions (R67) -/

/-- Access kinds of tfsyn (R77). -/
inductive AK where | load | store | atomic | fetch | engR | engW | tex
deriving DecidableEq, Repr

def AK.code : AK → Nat
  | .load => 0
  | .store => 1
  | .atomic => 2
  | .fetch => 3
  | .engR => 4
  | .engW => 5
  | .tex => 6

/-- tfsyn (R77). -/
def synOf (k : AK) (cls level stage : Nat) : Word := BitVec.ofNat 32 (k.code * 256 + level * 64 + stage * 32 + cls)

/-- The refusal of an access by its permissions: class, level, stage (R67, R77). -/
def permBad (k : AK) (m : Mode) (l : Leaf) : Option (Nat × Nat × Nat) :=
  let need := fun (both one : Bool) (c : Nat) =>
    if both then none else if one then some (c, l.l2, 1) else some (c, l.l1, 0)
  let priv := if m = .user ∧ !l.user then some (6, l.l1, 0) else none
  match k with
  | .fetch =>
    match need l.x l.x1 5 with
    | some x => some x
    | none => if m = .user then priv else if l.user then some (5, l.l1, 0) else none
  | .store => (match need l.w l.w1 4 with | some x => some x | none => priv)
  | .engW => (match need l.w l.w1 4 with | some x => some x | none => priv)
  | .atomic =>
    (match need l.r l.r1 4 with
     | some x => some x
     | none => match need l.w l.w1 4 with | some x => some x | none => priv)
  | _ => (match need l.r l.r1 3 with | some x => some x | none => priv)

/-! ## TLBs and misses (R73-R76) -/

/-- The hub's TLB and miss table. -/
def hubDie : Nat := 8

/-- A TLB entry that covers an address of a context. -/
def TlbEnt.covers (e : TlbEnt) (vmid asid va : Nat) : Bool :=
  e.vmid == vmid && (match e.asid with | some a => a == asid | none => true) && e.page == va / 2 ^ e.size

/-- The translation of an address that a TLB holds, with the physical address. -/
def tlbFind (s : State) (die vmid asid va : Nat) : Option (Leaf × Nat) :=
  match ((s.xl.tlb.find die).getD []).find? (fun e => e.covers vmid asid va) with
  | some e => match e.res with
    | .ok l => some (l, l.pa + va % 2 ^ e.size)
    | .bad _ _ _ => none
  | none => none

/-- Keys of the folio, quill and instruction TLBs (R73). -/
def tlbKeyFolio (f : Nat) : Nat := 16 + f
def tlbKeyQuill (q : Nat) : Nat := 112 + q
def tlbKeyFetch (q : Nat) : Nat := 880 + q

/-- Whether a TLB feeds another: a die TLB its folio, quill and instruction TLBs, a folio TLB those of its quills (R73). -/
def tlbFeeds (src dst : Nat) : Bool :=
  if dst < 16 then false
  else if dst < 112 then src == (dst - 16) / 12
  else if dst < 1648 then
    let q := if dst < 880 then dst - 112 else dst - 880
    src == tlbKeyFolio (q / 8) || src == dieOf q
  else false

/-- The translation of an address that the TLBs over a quill hold: its own, then its folio's, then its die's (R73). -/
def quillFind (s : State) (q : Nat) (fetch : Bool) (vmid asid va : Nat) : Option (Leaf × Nat) :=
  match tlbFind s (if fetch then tlbKeyFetch q else tlbKeyQuill q) vmid asid va with
  | some x => some x
  | none => match tlbFind s (tlbKeyFolio (q / 8)) vmid asid va with
    | some x => some x
    | none => tlbFind s (dieOf q) vmid asid va

/-- Put an entry into a TLB; entries that it covers again go. -/
def tlbInsert (s : State) (die : Nat) (e : TlbEnt) : State :=
  let es := ((s.xl.tlb.find die).getD []).filter (fun x =>
    !(x.vmid == e.vmid && x.asid == e.asid && x.size == e.size && x.page == e.page))
  { s with xl := { s.xl with tlb := s.xl.tlb.put die (es ++ [e]) } }

/-- Put entries into the walk cache of a quill die; the hub die has none (R73, R74). -/
def wcInsert (s : State) (die : Nat) (es : List WcEnt) : State :=
  if die < 8 ∧ es ≠ [] then
    let keep := (wcOf s die).filter (fun x => !es.any (fun e => x.vmid == e.vmid && x.asid == e.asid && x.level == e.level && x.tag == e.tag))
    { s with xl := { s.xl with wc := s.xl.wc.put die (keep ++ es.eraseDups) } }
  else s

/-- The TLB entry that a completed walk of an address gives. -/
def tlbEntry (vmid asid va : Nat) (l : Leaf) (size : Nat) (glob : Bool) : TlbEnt :=
  { vmid := vmid, asid := if glob then none else some asid, page := va / 2 ^ size, size := size, res := .ok l }

/-- Entries of a miss table (R75). -/
def missRoom (s : State) (die : Nat) : Bool :=
  decide (((s.xl.miss.find die).getD []).length < if die = hubDie then 1024 else 4096)

/-- Queue a miss, joining one that matches (R75, R76). -/
def queueMiss (s : State) (die vmid asid page : Nat) (first : Bool) (who : Nat) : State :=
  let ms := (s.xl.miss.find die).getD []
  let same := fun (m : Miss) => m.vmid == vmid && m.asid == asid && m.page == page
  let ms' := if ms.any same then
      ms.map (fun m => if same m then { m with who := if m.who.contains who then m.who else m.who ++ [who], first := m.first || first } else m)
    else if missRoom s die then
      ms ++ [{ vmid := vmid, asid := asid, page := page, first := first, who := [who], walking := false }]
    else ms
  { s with xl := { s.xl with miss := s.xl.miss.put die ms' } }

/-! ## The hub die's accesses (R73, R131, R424) -/

/-- Who asks the hub for a translation, as the input of the row under way names it. -/
def hubAgent (s : State) : Nat := 2 ^ 50 + s.inp.n1 + 2 ^ 16 * (s.inp.req.src + 2 ^ 9 * s.inp.req.id)

/-- Translate at the hub for one that asks: what the hub's TLB holds, or the class that a walk has delivered to it. Where there is
neither, it waits for the page (R75, R76). -/
def hubLook (s : State) (who vmid asid va : Nat) (first : Bool) : State × Except WalkEnd (Leaf × Nat) :=
  match tlbFind s hubDie vmid asid va with
  | some x => (s, .ok x)
  | none =>
    let mine := fun (d : Deliv) => d.who == who && d.vmid == vmid && d.asid == asid && d.page == va / 65536
    match s.xl.dlvd.find? mine with
    | some { res := .bad c l st, .. } => ({ s with xl := { s.xl with dlvd := s.xl.dlvd.filter (fun d => !mine d) } }, .error (c, l, st))
    | _ => ({ s with hung := true, xl := { s.xl with want := some (s.xl.want.getD (vmid, asid, va / 65536, first)) } }, .error (0, 0, 0))

/-- Translate for the Scriptorium, Ductus or a request from a peer: the row under way asks. -/
def hubTranslate (s : State) (vmid asid va : Nat) (first : Bool) : State × Except WalkEnd (Leaf × Nat) :=
  hubLook s (hubAgent s) vmid asid va first

/-- Where an address of the Scriptorium in a context leads, from its translation: the leaf and the physical address, or a fault class
of R78 (R424). A fault enters the fault buffer (R80). Supervisor rights are taken (log 14). A read of a shut bank waits (R123). -/
def scripLeads (s : State) (vmid asid va : Nat) (k : AK) (tr : State → State × Except WalkEnd (Leaf × Nat)) :
    State × Except Nat (Leaf × Nat) :=
  if fieldN va 56 8 ≠ 0 ∨ bitN va 55 then (s, .error 2)
  else
    let bad := fun (s : State) (e : WalkEnd) =>
      (logXlate s va (xlateInfo (synOf k e.1 e.2.1 e.2.2).toNat false asid vmid 0 6 0) s.tick, Except.error e.1)
    match tr s with
    | (s1, .error e) => bad s1 e
    | (s1, .ok (l, pa)) => match permBad k .sup l with
      | some e => bad s1 e
      | none => (hangIf s1 (homeStopped s1 pa || k == .load && bankShut s1 pa), .ok (l, pa))

/-- Where an address of the Scriptorium in a context leads. -/
def scripAddr (s : State) (vmid asid va : Nat) (k : AK) : State × Except Nat (Leaf × Nat) :=
  scripLeads s vmid asid va k (fun s => hubTranslate s vmid asid va true)

/-- A physical read by the Scriptorium: a hole reads zero and is logged (R41). -/
def scripRead (s : State) (pa n : Nat) : State × List Byte :=
  if (kindOf pa).isNone then (logError s 10 (dieOfPa pa) 0 0 pa, List.replicate n 0) else (hangIf s (homeStopped s pa || bankShut s pa), s.bytes pa n)

/-- A physical write by the Scriptorium: a hole drops it and is logged (R41). -/
def scripWrite (s : State) (pa : Nat) (data : List Byte) : State :=
  if (kindOf pa).isNone then logError s 10 (dieOfPa pa) 0 0 pa else hangIf (storeHome s pa data) (homeStopped s pa)

/-! ## Event rings (R441) -/

/-- The tag of the packet that a queue executes (R423). -/
def queueTag (s : State) (q : Nat) : Nat :=
  match (s.queue q).cur with
  | some p => ofBytes ((p.bytes.drop 2).take 2)
  | none => 0

/-- The address of the packet that a queue executes: its slot of the ring (R414). -/
def queueVa (s : State) (q : Nat) : Nat :=
  match (s.queue q).cur with
  | some p => fieldN (s.queue q).base.toNat 10 46 * 1024 + 64 * p.index
  | none => 0

/-- Who asks for the translation of a record of an event ring. -/
def EvRec.who (e : EvRec) : Nat := 2 ^ 49 + e.queue + 32 * e.num

/-- Write the oldest record of a queue that is not yet written; a page that the hub's TLB lacks joins its miss table, and the record
waits (R75, R76). One that faults is dropped; one whose place lies on a stopped die is never written, and nothing waits for it
(R441, R483, log 43). -/
def ringWrite (s : State) (q : Nat) : State :=
  match s.scrip.events.find? (fun e => e.queue == q) with
  | none => s
  | some e =>
    let s0 : State := { s with scrip := { s.scrip with events := s.scrip.events.erase e } }
    let r := scripLeads { s0 with hung := false, xl := { s0.xl with want := none } } e.vmid e.asid e.va .store
      (fun s => hubLook s e.who e.vmid e.asid e.va true)
    let s1 : State := { r.1 with hung := s.hung, xl := { r.1.xl with want := s.xl.want } }
    if dieStopped s hubDie then s
    else match r.1.xl.want, r.2 with
    | some (v, a, p, f), _ => queueMiss s hubDie v a p f e.who
    | none, .error _ => if r.1.hung then s0 else logError s1 12 8 q (e.kind % 256 + 256) 0
    | none, .ok (l, pa) =>
      if (l.kind = 0 ∨ l.kind = 3) ∧ r.1.hung then s0
      else if l.kind = 0 ∨ l.kind = 3 then queueMsi (storeHome s1 pa e.data) q
      else logError s1 12 8 q (e.kind % 256 + 256) 0

/-- A record for the event ring of a queue: kind, tag, detail, address. It takes its number also where it is dropped, and is written
after those of its queue that wait (R441). -/
def eventRecord (s : State) (q kind tag detail addr : Nat) : State :=
  let x := s.queue q
  let k := x.evk
  let s0 := s.setQueue q { x with evk := k + 1 }
  let sev := x.sev.toNat
  let base := fieldN sev 10 46 * 1024
  if base = 0 then logError s0 12 8 q (kind % 256) 0
  else
    let n := 2 ^ (fieldN sev 0 4 + 5)
    let w0 := kind % 256 + q * 256 + tag % 65536 * 2 ^ 16 + detail % 2 ^ 32 * 2 ^ 32
    let e : EvRec := { queue := q, num := k, kind := kind, vmid := fieldN x.ctl.toNat 48 6, asid := fieldN x.ctl.toNat 32 10,
                       va := base + 32 * (k % n), data := bytes8 w0 ++ bytes8 addr ++ bytes8 s.tick ++ bytes8 (k + 1) }
    let s1 : State := { s0 with scrip := { s0.scrip with events := s0.scrip.events ++ [e] } }
    if s.scrip.events.any (fun e => e.queue == q) then s1 else ringWrite s1 q

end Sys2Proof.Machine
end

