-- ==== Sys2Proof/Machine/Clocks.lean ====
section
/-! DEFINITION. Clock divisors (19 R476-R480): the control-clock count of a quill, the operating-point table, levels of a die,
phase marks and the rendezvous. -/
namespace Sys2Proof.Machine
open Sys2Proof

/-! ## Clocks (R15, R298, R477) -/

/-- The control-clock count of a quill (R298): it counts reference periods (R15), whatever a realignment does to the tick counter;
clkTick is a control edge, which may still lie ahead. -/
def clkCount (s : State) (q : Nat) : Nat :=
  let x := s.quill q
  if s.cycles < x.clkTick then x.clkAt - 1 else x.clkAt + (s.cycles - x.clkTick) / x.div.getD 0 2

/-- Set the divisors of a quill: each domain switches at its next edge (R477). The control edges are counted. -/
def setDivs (s : State) (q : Nat) (ds : List Nat) : State :=
  let x := s.quill q
  let old := x.div.getD 0 2
  if ds.getD 0 2 = old then s.setQuill q { x with div := ds }
  else
    let k := (s.cycles - x.clkTick + old - 1) / old
    s.setQuill q { x with div := ds, clkAt := x.clkAt + k, clkTick := x.clkTick + k * old }

/-! ## Levels (R478, R480) -/

/-- MinDiv of a level: control, vector, matrix, copy (R478). -/
def minDivs (v : Nat) : List Nat :=
  match v with
  | 0 => [4, 6, 8, 6]
  | 1 => [3, 5, 7, 5]
  | 2 => [3, 4, 6, 4]
  | 3 => [2, 4, 5, 4]
  | 4 => [2, 3, 4, 3]
  | 5 => [2, 3, 3, 3]
  | _ => [2, 2, 3, 2]

def minDiv (v dom : Nat) : Nat := (minDivs v).getD dom 2

/-- The level of a die: 4 until a rail has moved (R480). -/
def dieLevel (s : State) (d : Nat) : Nat := (s.pow.level.find d).getD 4

/-- Gangs that count as resident on a quill. -/
def residents (s : State) (q : Nat) : List (Nat × Gang) := s.gangs.filter (fun e => e.2.quill == q && !e.2.ended)

/-- The level that the resident gangs of a die ask for (R480). -/
def wantedLevel (s : State) (d : Nat) : Nat :=
  match (s.gangs.filter (fun e => dieOf e.2.quill == d && !e.2.ended)).map (fun e => e.2.level.getD 4) with
  | [] => 4
  | l :: r => r.foldl max l

/-- Start raising a die's rail, or let one that rises rise further (R480). -/
def startRaise (s : State) (d lvl : Nat) : State :=
  match s.pow.target.find d with
  | some (l, false) => { s with pow := { s.pow with target := s.pow.target.put d (max l lvl, false) } }
  | _ => { s with pow := { s.pow with target := s.pow.target.put d (lvl, false) } }

/-- A die runs at the level that its resident gangs ask for, or 4 without one: where that is higher, its rail rises (R480). -/
def seekLevel (s : State) (d : Nat) : State :=
  if dieLevel s d < wantedLevel s d then startRaise s d (wantedLevel s d) else s

/-- An operating point: requests per domain and level (R479). -/
structure OpPoint where
  reqs : List (Option Nat)
  level : Nat
deriving DecidableEq, Repr

/-- Look up (kid, p) in the operating-point table (R479). -/
def opLookup (s : State) (kid p : Nat) : Option OpPoint :=
  let e := ((s.pow.optab.find ((kid % 4096) ^^^ (p * 16))).getD 0).toNat
  let d := fun (lo : Nat) => fieldN e lo 5
  let v := fun (lo : Nat) => some (if d lo = 0 then 32 else d lo)
  if bitN e 63 ∧ fieldN e 0 32 = kid ∧ fieldN e 32 8 = p ∧ d 40 ≠ 1 ∧ d 45 ≠ 1 ∧ d 50 ≠ 1 ∧ d 55 ≠ 1 then
    some { reqs := [v 40, v 45, v 50, v 55], level := fieldN e 60 3 }
  else none

/-! ## The rendezvous (R476, R477) -/

/-- The smallest of some requests. -/
def leastReq (rs : List (Option Nat)) : Option Nat :=
  match rs.filterMap id with
  | [] => none
  | a :: r => some (r.foldl min a)

/-- The targets of a quill for a list of gangs' requests. -/
def targets (s : State) (q : Nat) (rs : List (List (Option Nat))) : List Nat :=
  (List.range 4).map (fun d => match leastReq (rs.map (fun r => r.getD d none)) with
    | some n => max n (minDiv (dieLevel s (dieOf q)) d)
    | none => (s.quill q).div.getD d 2)

/-- No gang of a quill has a request or a mark any more. -/
def clearReqs (s : State) (q : Nat) : State :=
  { s with gangs := s.gangs.map (fun e => if e.2.quill = q then
      (e.1, { e.2 with clkreq := List.replicate 4 none, phaseMark := none }) else e) }

/-- A rendezvous occurs where every resident gang shares a mark and some gang holds a request (R477). -/
def rendezvous (s : State) (q : Nat) : State :=
  match residents s q with
  | [] => s
  | (i, g) :: r =>
    let gs := (i, g) :: r
    if g.phaseMark.isSome ∧ gs.all (fun e => e.2.phaseMark == g.phaseMark) ∧
        gs.any (fun e => e.2.clkreq.any (fun x => x.isSome)) then
      clearReqs (setDivs s q (targets s q (gs.map (fun e => e.2.clkreq)))) q
    else s

/-- The phase that threads have in common as their last. -/
def commonPhase (ps : List (Option (BitVec 8))) : Option (BitVec 8) :=
  match ps with
  | [] => none
  | p :: r => if r.all (· == p) then p else none

/-- Last phases of the live threads of a gang. -/
def lastPhases (s : State) (g : Gang) : List (Option (BitVec 8)) :=
  (g.warps ++ g.nib.toList).filterMap (fun t => match s.thread t with
    | some th => if th.exited then none else some th.phase
    | none => none)

/-- A gang's mark becomes p; without a clkdiv since its previous mark the table supplies requests and level (R476, R480). -/
def crossPhase (s : State) (gid : Nat) (p : BitVec 8) : State :=
  match s.gang gid with
  | none => s
  | some g =>
    let kid := match s.grids.find g.grid with | some x => x.ker.kid | none => 0
    let g1 := match (if g.divSet then none else opLookup s kid p.toNat) with
      | some o => { g with clkreq := o.reqs, level := some o.level }
      | none => g
    let g2 := { g1 with phaseMark := some p, divSet := false }
    rendezvous (seekLevel (s.setGang gid g2) (dieOf g.quill)) g.quill

end Sys2Proof.Machine
end

