-- ==== Sys2Proof/Machine/Ops.lean ====
section
/-! DEFINITION. The named operations on memory, registers and threads; taking a trap and returning from one (15). -/
namespace Sys2Proof.Machine
open Sys2Proof

/-- tfrinfo of a record (R398). -/
def rinfoOf (r : RFault) : Word := BitVec.ofNat 32 (r.count.toNat * 2 ^ 16 + r.cls.toNat * 2 ^ 11 + r.peer.toNat)

/-! ## Ends of threads and gangs (R216-R219, R309) -/

/-- A thread ends (R216): it has exited, its frames are discarded, and the section it holds stays for its caller. -/
def endThread (s : State) (t : Nat) : State :=
  s.modThread t (fun th => { th with exited := true, sup := [], hyp := [], loops := [], wait := .none, dlvd := [], late := [],
                                     latch := Latch.empty })

/-- Threads of a gang that have not exited. -/
def liveThreads (s : State) (g : Gang) : List Nat :=
  (g.warps ++ g.nib.toList).filter (fun t => match s.thread t with | some th => !th.exited | none => false)

/-- Warps of a gang that have not exited. -/
def liveWarps (s : State) (g : Gang) : List Nat :=
  g.warps.filter (fun t => match s.thread t with | some th => !th.exited | none => false)

/-- Release a section held by a thread (R304). -/
def relSection (g : Gang) (t : Nat) : Gang :=
  match g.held with
  | some (w, key) => if w = t then { g with held := none, frontier := key.toNat + 1 } else g
  | none => g

/-- A pending remote-fault record of a thread enters the error log (R309). -/
def logRecord (s : State) (t : Nat) : State :=
  match s.thread t with
  | some th =>
    match th.rfault with
    | some r => (logError s 9 (dieOf th.quill) th.quill (rinfoOf r).toNat r.addr.toNat).modThread t (fun th => { th with rfault := none })
    | none => s
  | none => s

/-- Threads of a gang have exited: without one left its pins end and it no longer counts (R300, R477, R480); otherwise those left may
now share their last phase (R476). `before`: the phase that they shared before. -/
def closeGang (s : State) (gid : Nat) (before : Option (BitVec 8)) : State :=
  match s.gang gid with
  | none => s
  | some g =>
    if liveThreads s g = [] then rendezvous (seekLevel (s.setGang gid { g with pins := [], ended := true }) (dieOf g.quill)) g.quill
    else match commonPhase (lastPhases s g) with
    | some p => if before = some p then s else crossPhase s gid p
    | none => s

/-- The phase that the threads of a gang share. -/
def gangPhase (s : State) (gid : Nat) : Option (BitVec 8) :=
  match s.gang gid with
  | some g => commonPhase (lastPhases s g)
  | none => none

/-- Every thread of a gang ends as by halt (R309). A section that one of them holds stays noted: it is released, as by ordrel, once
that thread's accesses have performed at device scope (`sectionOpen`). -/
def haltGang (s : State) (gid : Nat) (mark : Grid → Grid) : State :=
  match s.gang gid with
  | none => s
  | some g =>
    let ts := liveThreads s g
    let s1 := ts.foldl (fun a t => endThread (logRecord a t) t) s
    closeGang (s1.modGrid g.grid mark) gid none

/-! ## Taking a trap (R396-R402) -/

/-- The group of a cause (R396); none for syscall and hcall. -/
def causeGroup (c : Nat) : Option Nat :=
  if c ≤ 0x0B then some 0
  else if c ≤ 0x18 then some 1
  else if c = 0x20 then some 2
  else if c = 0x28 ∨ c = 0x29 then some 3
  else if c = 0x30 then some 4
  else if c = 0x38 then some 5
  else if c ≤ 0x44 then some 6
  else none

/-- The mode that receives a trap (R399). -/
def receiver (m : Mode) (take : BitVec 7) (c : Nat) : Mode :=
  match m with
  | .hyp => .hyp
  | _ =>
    if c = 0x51 then .hyp
    else match causeGroup c with
      | some g => if take.getLsbD g then .hyp else .sup
      | none => .sup

/-- The mode code of tfcause (R398). -/
def Mode.code : Mode → Nat
  | .user => 0
  | .sup => 1
  | .hyp => 2

/-- tfcause (R398). -/
def causeWord (m : Mode) (orig c : Nat) : Word := BitVec.ofNat 32 (m.code * 2 ^ 30 + orig * 2 ^ 16 + c)

/-- What a trap carries to the frame. -/
structure Entry where
  cause : Nat
  orig : Nat
  set : Mask
  /-- offset for tfpc -/
  pc : Nat
  val : DWord
  syn : Word
deriving DecidableEq, Repr

/-- Push a frame in a mode and start its handler (R402). A poisoned s0, s1 or s2 stays poisoned in the frame, as poison is never returned
as data (R117; log 95). -/
def pushFrame (s : State) (th : Thread) (m : Mode) (e : Entry) : Thread :=
  let r := if e.cause = 0x38 then th.rfault else none
  let f : Frame :=
    { pc := BitVec.ofNat 64 (th.pcH.toNat * 2 ^ 32 + e.pc % 2 ^ 32), mask := th.mask, pois := th.maskPoison, cause := causeWord th.mode e.orig e.cause,
      val := e.val, syn := e.syn,
      rdom := match r with | some x => x.addr | none => 0
      rinfo := match r with | some x => rinfoOf x | none => 0
      levels := th.loops }
  let vec := if m = .sup then th.svec else th.hvec
  let th1 := { th with
    sup := if m = Mode.sup then f :: th.sup else th.sup
    hyp := if m = Mode.hyp then f :: th.hyp else th.hyp
    loops := [], mode := m, wait := .none, dlvd := [], latch := Latch.empty,
    rfault := if e.cause = 0x38 then none else th.rfault }
  let th2 := goto s (th1.setMask e.set) (vec.extractLsb' 32 16) (fieldN vec.toNat 0 32)
  { th2 with atVec := if m = .sup then 1 else 2 }

/-- Entry to a precise trap of a warp (R399, R401, R402). -/
def enterTrap (s : State) (t : Nat) (th : Thread) (e : Entry) : State :=
  let m := receiver th.mode th.take e.cause
  if m = .sup ∧ th.sup.length < 2 then s.setThread t (pushFrame s th .sup e)
  else if m = .hyp ∧ th.hyp.length < 2 then s.setThread t (pushFrame s th .hyp e)
  else if th.hyp.length < 2 then s.setThread t (pushFrame s th .hyp { e with cause := 0x58, orig := e.cause, syn := 0 })
  else haltGang s th.gang (fun g => { g with overflow := true })

/-- A fetch fault of the first unit at an entry vector (R401). -/
def vectorFault (s : State) (t : Nat) (th : Thread) (e : Entry) : State :=
  if th.atVec = 1 ∧ th.hyp.length < 2 then
    s.setThread t (pushFrame s th .hyp { e with cause := 0x59, orig := e.cause, pc := th.pcO })
  else haltGang s th.gang (fun g => { g with overflow := true })

/-! ## Engine faults (R407, R408) -/

/-- Committed and speculative positions of a stream: the first command not fully committed (R387). -/
def streamPos (st : EngStream) : Nat × Nat :=
  match st.cmds with
  | c :: _ => (c.seq, c.e)
  | [] => (st.seq % 65536, 0)

/-- The speculative position: one past the last byte read or written ahead of the count, of the last command that has one (R387). -/
def streamSpec (st : EngStream) : Nat × Nat :=
  match (st.cmds.filter (fun c => !(c.wrote.isEmpty && c.buf.isEmpty))).getLast? with
  | some c => (c.seq, (c.wrote ++ c.buf.map Prod.fst).foldl (fun a e => max a (e + 1)) c.e)
  | none => streamPos st

/-- An access whose last word is spoken. -/
def APhase.final : APhase → Bool
  | .taken => true
  | .home => true
  | .acked => true
  | .refused _ => true
  | _ => false

/-- An entry that has nothing left to do. -/
def MemOp.finished (o : MemOp) : Bool := o.dlv && o.accs.all (fun a => a.ph.final)

/-- Whether an access of a load has a translation that it would use. -/
def Tgt.translated (t : Tgt) : Bool :=
  match t with
  | .mem .. => true
  | .dec .. => true
  | _ => false

/-- Loads that have not taken their values are abandoned: they are issued again in their places, each translated afresh; the lanes
that have taken theirs keep them (R83, R173, R407). -/
def abandonLoads (th : Thread) : Thread :=
  { th with mq := th.mq.map (fun o => if o.kind = .load && !o.dlv then
      { o with accs := o.accs.map (fun a => if a.ph = .pend ∨ a.ph = .sent then
          { a with ph := if a.tgt.translated then .again else .pend, req := none } else a) } else o) }

/-- A thread's stores, atomics and pushes have performed. -/
def storesDone (th : Thread) : Bool := th.mq.all (fun o => o.kind == .load || o.finished)

/-- Queues that launched a grid with a gang on a quill, rising: one whose threads have exited stands there until its release
(R218, R407, R441). -/
def queuesOn (s : State) (q : Nat) : List Nat :=
  (List.range 32).filter (fun k => s.gangs.any (fun e => e.2.quill == q &&
    (match s.grids.find e.2.grid with | some g => g.queue == k | none => false)))

/-- Elements of a remote reduce-store that are sent and not yet counted: positions are saved only without them (R387), but for those
that a poisoned arrival word may keep from their count (R102). -/
def rredBusy (s : State) (q : Nat) : Bool :=
  s.gangs.all (fun e => e.2.scrPoison.isEmpty) && (s.quill q).copy.cmds.any (fun c => c.cmd == 5 && !c.wrote.isEmpty)

/-- Issue on a quill stops: unreturned loads are abandoned (R407, R410). -/
def haltQuill (s : State) (q : Nat) : State :=
  let s1 := s.modQuill q (fun x => { x with halted := true })
  { s1 with threads := s1.threads.map (fun e => if e.2.quill = q then (e.1, abandonLoads e.2) else e) }

/-- An engine fault stops a quill's streams and its issue; one that arises before the frame of another is written, or while that
frame stands, is discarded (R407). -/
def engineHalt (s : State) (q : Nat) (f : EFault) : State :=
  if (s.quill q).efs.stop ∨ (s.quill q).fault.isSome then s else (haltQuill s q).modQuill q (fun x => { x with fault := some f })

/-- What was issued on a halted quill has performed: stores, atomics and pushes, domain stores and rred elements acknowledged
(R173, R387). -/
def issuedDone (s : State) (q : Nat) : Bool :=
  (s.quill q).pq.isEmpty && !rredBusy s q &&
  s.fab.out.all (fun r => r.quill != q || (r.req.kind == .load && (match r.owner with | .thread _ _ _ => true | _ => false))) &&
  s.threads.all (fun e => e.2.quill != q || storesDone e.2)

/-- The engine-fault frame of a quill (R408). -/
def faultFrame (s : State) (q : Nat) (f : EFault) : EFrame :=
  let x := s.quill q
  let here := s.threads.filter (fun e => e.2.quill == q && !e.2.exited)
  { stop := true, abort := false, stream := f.stream, cls := f.cls, seq := f.seq, index := f.index, addr := f.addr
    pcs := (here.filter (fun e => !e.2.nib)).map (fun e => (e.2.slot, e.2.pc))
    pcn := ((here.filter (fun e => e.2.nib)).head?).map (fun e => e.2.pc)
    com := [streamPos x.copy, streamPos x.gather, (match x.mx.find? (fun m => m.owed.isNone) with | some m => (m.seq % 65536, 0) | none => (x.mxSeq % 65536, 0))]
    spec := [streamSpec x.copy, streamSpec x.gather, (x.mxSeq % 65536, 0)] }

/-- What lies between the committed and the speculative positions is discarded (R387, R388). -/
def Quill.restart (x : Quill) : Quill :=
  let drop := fun (st : EngStream) => { st with cmds := st.cmds.map (fun c => { c with buf := [], wrote := if c.cmd = 5 then c.wrote else [] }) }
  { x with copy := drop x.copy, gather := drop x.gather, mx := x.mx.map (fun m => { m with snap := [] }) }

/-- Who asks for the translation of a thread's abandoned loads. -/
def againAgent (t : Nat) : Nat := 2 ^ 45 + t

/-- A number in the miss tables that stands for an engine or a thread of a quill. -/
def asksFor (s : State) (q t : Nat) : Bool :=
  t / 2 == 2 ^ 39 + q || s.threads.any (fun e => e.2.quill == q && (e.1 == t || againAgent e.1 == t))

/-- What walks have delivered to a quill, or will, while it does not run: all of it is asked for again, since translations that fault
are never cached (R74, R388). -/
def forgetWalks (s : State) (q : Nat) : State :=
  { s with
    xl := { s.xl with
      dlvd := s.xl.dlvd.filter (fun d => !asksFor s q d.who)
      miss := s.xl.miss.map (fun e => (e.1, e.2.map (fun m => { m with who := m.who.filter (fun t => !asksFor s q t) }))) }
    threads := s.threads.map (fun e => if e.2.quill = q then (e.1, { e.2 with dlvd := [] }) else e) }

/-- The records of an engine fault: the fault buffer's, the poison's, the error log's, and one in the ring of every queue with a gang
on the quill (R80, R131, R407, R441). -/
def faultRecords (s : State) (q : Nat) (f : EFault) : State :=
  let hiw := fieldN (1 * 2 ^ 63 + f.stream * 2 ^ 56 + f.cls * 2 ^ 48 + f.seq * 2 ^ 32) 32 32
  let s1 := match f.syn with
    | some (y, vmid, asid) => logXlate s f.addr.toNat (xlateInfo y.toNat false asid vmid q (if f.stream = 3 then 5 else f.stream) 0) f.tick
    | none => s
  let s2 := match f.pa with | some p => logPoison s1 4 p | none => s1
  let s3 := logError s2 11 (dieOf q) q hiw f.addr.toNat
  (queuesOn s q).foldl (fun s k => eventRecord s k 1 (queueTag s k) hiw f.addr.toNat) s3

/-- The third and fourth steps of R407, once what was issued has performed. -/
def engineStop (s : State) (q : Nat) : State :=
  match (s.quill q).fault with
  | none => s
  | some f =>
    if !issuedDone s q then s
    else
      faultRecords (s.modQuill q (fun x => { x.restart with efs := faultFrame s q f, fault := none })) q f

/-- A precise trap of a thread; the nib's become engine faults (R407). -/
def trapThread (s : State) (t : Nat) (th : Thread) (e : Entry) : State :=
  if th.nib then
    engineHalt (s.setThread t { th with latch := Latch.empty, dlvd := [] }) th.quill
      { stream := 3, cls := 0x1F, seq := 0, index := e.cause, addr := e.val,
        syn := if e.cause = 0x20 then some (e.syn, th.vmid, th.asid) else none, pa := none, tick := s.tick }
  else enterTrap s t th e

/-! ## Retirement and transfers (R295-R297) -/

/-- CloseCheck (R296): close the levels that end at offset e. -/
def closeCheck (loops : List Level) (h : BitVec 16) (e : Nat) : List Level × Nat :=
  match loops with
  | [] => ([], e + 4)
  | l :: r =>
    if l.handle = h ∧ l.stop = e then
      if 1 < l.left.toNat then ({ l with left := l.left - 1 } :: r, l.start) else closeCheck r h e
    else (l :: r, e + 4)

/-- The unit that ends before offset `o` retires without a transfer (R296). -/
def retireAt (th : Thread) (o : Nat) : Thread :=
  let c := closeCheck th.loops th.pcH (o - 4)
  { th with loops := c.1, pcO := c.2, latch := Latch.empty, wait := .none, dlvd := [], atVec := 0 }

/-- The unit retires without a transfer. -/
def retire (th : Thread) : Thread := retireAt th th.nextO

/-- Levels kept by a taken b, jr or ljmp (R297). -/
def popLoops (loops : List Level) (h : BitVec 16) (t : Nat) : List Level :=
  match loops with
  | [] => []
  | l :: r => if l.handle = h ∧ l.start ≤ t ∧ t ≤ l.stop then l :: r else popLoops r h t

/-- A transfer is taken: `pop` for b, jr and ljmp (R297). -/
def transfer (s : State) (th : Thread) (h : BitVec 16) (t : Nat) (pop : Bool) : Thread :=
  let th1 := goto s th h t
  { th1 with loops := if pop then popLoops th.loops h t else th.loops, latch := Latch.empty, wait := .none, dlvd := [] }

/-! ## Trap return (R308) -/

/-- The mode of a pmode code. -/
def modeOf (n : Nat) : Option Mode :=
  match n with
  | 0 => some .user
  | 1 => some .sup
  | 2 => some .hyp
  | _ => none

/-- Frames of the executing mode. -/
def Thread.frames (th : Thread) : List Frame :=
  match th.mode with
  | .user => []
  | .sup => th.sup
  | .hyp => th.hyp

/-- Replace the frames of a mode. -/
def Thread.setFrames (th : Thread) (m : Mode) (fs : List Frame) : Thread :=
  match m with
  | .user => th
  | .sup => { th with sup := fs }
  | .hyp => { th with hyp := fs }

/-- Return from the innermost frame of the executing mode; none where it is illegal (R308, R402). A pc that mtp
left misaligned stays so (log 102). -/
def trapReturn (s : State) (th : Thread) : Option Thread :=
  match th.frames with
  | [] => none
  | f :: r =>
    match modeOf (fieldN f.cause.toNat 30 2) with
    | none => none
    | some m =>
      if m.code > th.mode.code then none
      else
        let th1 := (th.setFrames th.mode r).restoreMask f.mask f.pois
        let th2 := { th1 with loops := f.levels, mode := m, latch := Latch.empty, wait := .none, dlvd := [] }
        some (goto s th2 (f.pc.extractLsb' 32 16) (fieldN f.pc.toNat 0 32))

end Sys2Proof.Machine
end

