-- ==== Sys2Proof/Machine/Regs.lean ====
section
/-! DEFINITION. Device registers (02 R44): what each reads as, and what a write of each agent does. The writes that start
something (queue enable, head enable, pre-emption and segment requests, engine-fault frames, throttles) are shared with
the rows of those names. -/
namespace Sys2Proof.Machine
open Sys2Proof

/-! ## Who may write (R44, R58, R499; log 15) -/

/-- Writers of a register whose rule admits hypervisor contexts or the host's aperture. -/
def Agent.manages : Agent → Bool
  | .scriptorium => true
  | .hypervisor => true
  | .host => true
  | .warp => false

/-- Writers of a register that only the Scriptorium writes. -/
def Agent.isScrip : Agent → Bool
  | .scriptorium => true
  | _ => false

/-- The written bits merged into an old value, within the fields that hold values. -/
def mergeReg (old m v fields : DWord) : DWord := ((old &&& ~~~m) ||| (v &&& m)) &&& fields

/-- A refused configuration enters the error log (R503 class 8; log 54). -/
def refuseReg (s : State) (unit off : Nat) : State := logError s 8 8 unit off off

/-! ## Staging (R112, R113, R416) -/

/-- The ownership words of a slice. -/
def ownerWords (s : State) (slice : Nat) : List Word := (s.st.stgown.find slice).getD (List.replicate 8 0)

/-- The ownership word of a context. -/
def ownerWord (vmid asid : Nat) : Word := BitVec.ofNat 32 (2 ^ 31 + asid * 2 ^ 16 + vmid * 2 ^ 8)

/-- A context has a grid in flight, or one queued behind the launch that its queue executes (R113). -/
def gridsOf (s : State) (vmid asid : Nat) : Bool :=
  s.grids.any (fun e => !e.2.done && e.2.vmid == vmid && e.2.asid == asid) ||
  s.scrip.q.any (fun e => fieldN e.2.ctl.toNat 48 6 == vmid && fieldN e.2.ctl.toNat 32 10 == asid &&
    (match e.2.exec with | .chain _ _ _ _ _ last => !last | _ => false))

/-- The owner that a word names has such a grid. -/
def ownerBusy (s : State) (w : Word) : Bool := w.getLsbD 31 && gridsOf s (fieldN w.toNat 8 6) (fieldN w.toNat 16 10)

/-- Set the owner of an eighth: its staging bytes read zero afterwards (R113). -/
def setOwner (s : State) (slice e : Nat) (w : Word) : State :=
  let clear := fun (m : FMap Byte) => m.filter (fun b => b.1 / 524288 != e)
  { s with st := { s.st with
    stgown := s.st.stgown.put slice (setAt (ownerWords s slice) e w)
    staging := match s.st.staging.find slice with
      | some m => s.st.staging.put slice (clear m)
      | none => s.st.staging
    stgPoison := s.st.stgPoison.filter (fun p => !(p.1 == slice && p.2 * 8 / 524288 == e)) } }

/-- The Scriptorium changes the owner of an eighth, where R113 allows it; the same owner is no change. -/
def changeOwner (s : State) (slice e : Nat) (w : Word) : State :=
  let old := (ownerWords s slice).getD e 0
  if old = w ∨ ownerBusy s old ∨ ownerBusy s w then s else setOwner s slice e w

/-- The eighths of a slice that an ownership word names. -/
def ownedBy (s : State) (slice : Nat) (w : Word) : List Nat :=
  (List.range 8).filter (fun e => (ownerWords s slice).getD e 0 == w)

/-- The request of a staging map for a slice (R416). -/
def mapRequest (map : List Byte) (slice : Nat) : Nat := min 8 (fieldN (map.getD (slice / 2) 0).toNat (4 * (slice % 2)) 4)

/-- Eighths of a slice that contexts other than an owner hold. -/
def heldByOthers (s : State) (slice : Nat) (w : Word) : Nat :=
  ((ownerWords s slice).filter (fun x => x.getLsbD 31 && x != w)).length

/-- Assign a slice's eighths, lowest cache eighths first. -/
def grantSlice (s : State) (slice n : Nat) (w : Word) : State :=
  (((List.range 8).filter (fun e => !((ownerWords s slice).getD e 0).getLsbD 31)).take n).foldl (fun s e => setOwner s slice e w) s

/-- Make a context's staging grant whole or not at all; none where it is refused (R416). -/
def makeGrant (s : State) (vmid asid : Nat) (stg : DWord) : Option State :=
  let r := if stg = 0 then (s, List.replicate 96 0) else scripRead s stg.toNat 96
  let map := r.2
  let s1 := r.1
  match s1.st.grants.find? (fun g => g.1 == vmid && g.2.1 == asid) with
  | some g => if map.all (· == 0) ∨ map = g.2.2 then some s1 else none
  | none =>
    let w := ownerWord vmid asid
    if (List.range 192).all (fun k => decide (mapRequest map k + heldByOthers s1 k w ≤ 8)) then
      let s2 := (List.range 192).foldl (fun s k => grantSlice s k (mapRequest map k) w) s1
      some { s2 with st := { s2.st with grants := s2.st.grants ++ [(vmid, asid, map)] } }
    else none

/-- The context of a queue. -/
def Queue.vmid (x : Queue) : Nat := fieldN x.ctl.toNat 48 6
def Queue.asid (x : Queue) : Nat := fieldN x.ctl.toNat 32 10
/-- Packets of a queue's ring (R414). -/
def Queue.slots (x : Queue) : Nat := 2 ^ (fieldN x.ctl.toNat 0 4 + 4)
/-- The queue's ring. -/
def Queue.ring (x : Queue) : Nat := fieldN x.base.toNat 10 46 * 1024

/-- A context has an enabled queue or a grid in flight. -/
def contextBusy (s : State) (vmid asid : Nat) : Bool :=
  s.scrip.q.any (fun e => e.2.en && e.2.vmid == vmid && e.2.asid == asid) ||
  s.grids.any (fun e => !e.2.done && e.2.vmid == vmid && e.2.asid == asid)

/-- Grants of contexts that are no longer busy return to cache (R416). -/
def releaseGrants (s : State) : State :=
  (s.st.grants.filter (fun g => !contextBusy s g.1 g.2.1)).foldl (fun s g =>
    let w := ownerWord g.1 g.2.1
    let s1 := (List.range 192).foldl (fun s k => (ownedBy s k w).foldl (fun s e => setOwner s k e 0) s) s
    { s1 with st := { s1.st with grants := s1.st.grants.filter (fun x => !(x.1 == g.1 && x.2.1 == g.2.1)) } }) s

/-! ## Queues (R414-R418) -/

/-- The descriptor of a context is valid (R61). -/
def ctxValid (s : State) (vmid asid : Nat) : Bool := match ctxDesc s [] vmid asid with | .ok _ => true | .error _ => false

/-- Device-register offset of a queue's registers. -/
def queueReg (q : Nat) : Nat := 0x2200_1000 + q * 0x40

/-- The stage of bring-up that is reached (21 R504). -/
def bootStage (s : State) : Nat := fieldN s.boot.toNat 0 4

/-- The first queue that the host maps after link-up begins stage 6 of bring-up (21 R504). -/
def mapStage (s : State) : State := if s.boot = 5#64 then { s with boot := 6#64 } else s

/-- An enable refused for its context: a descriptor on a stopped die is never returned (R483), and a poisoned one enters the error log
(R131). -/
def refuseCtx (s : State) (q : Nat) : State :=
  let x := s.queue q
  let d := fieldN s.xl.ctxtab.toNat 16 36 * 65536 + 8 * x.asid
  if x.asid = 0 ∨ x.ring % (64 * x.slots) ≠ 0 then refuseReg s q (queueReg q)
  else match ctxDesc s [] x.vmid x.asid with
  | .error (0, _, _) => hangIf s true
  | _ => refuseReg (if poisoned s d 8 then logPoison s 8 d else s) q (queueReg q)

/-- Writing en = 1 (R417). No queue is mapped before PCI Express link-up has completed (R195, R504). A staging map that is poisoned is consumed by the Scriptorium and refuses the enable (R131, log 61). -/
def enableQueue (s : State) (q : Nat) : State :=
  let x := s.queue q
  if x.en ∨ bootStage s < 5 then s
  else if x.asid = 0 ∨ x.ring % (64 * x.slots) ≠ 0 ∨ !ctxValid s x.vmid x.asid then refuseCtx s q
  else if x.stg ≠ 0 ∧ poisoned s x.stg.toNat 96 then refuseReg (logPoison s 8 x.stg.toNat) q (queueReg q + 0x10)
  else match makeGrant s x.vmid x.asid x.stg with
  | none => refuseReg s q (queueReg q + 0x10)
  | some s1 =>
    let y : Queue := { x with en := true, state := 1, pre := [], head := [], paused := false, fence := false, cur := none,
                              exec := .idle, shadow := none, disabling := false, lastPoll := s.tick }
    (mapStage s1).setQueue q y

/-- A queue with nothing to execute is disabled (R417). -/
def settleDisable (s : State) (q : Nat) : State :=
  let x := s.queue q
  if x.disabling ∧ x.cur.isNone then releaseGrants (s.setQueue q { x with en := false, disabling := false, state := 0 })
  else s

/-- Writing en = 0: fetching stops; a wait retires with code 0x07, anything else runs to its retirement (R417). -/
def disableQueue (s : State) (q : Nat) : State :=
  let x := s.queue q
  if !x.en then s
  else
    let stuck := x.state == 6
    let x1 := { x with pre := [], head := [], disabling := true, state := 5, fence := false, cur := if stuck then none else x.cur
                       exec := if stuck then .idle else match x.exec with
                         | .waiting _ _ => .retiring 0x07 0 0 0
                         | e => e }
    settleDisable (s.setQueue q x1) q

/-- A write to qnotify wakes the queue's thread (R418, R421). -/
def notifyQueue (s : State) (q : Nat) : State :=
  let x := s.queue q
  if x.en ∧ x.state ≠ 6 then s.setQueue q { x with paused := false, lastEval := 0 } else s

/-- A size code above 12 is stored as 12 (R414). -/
def clampSize (x : DWord) : DWord := if 12 < fieldN x.toNat 0 4 then (x &&& ~~~0xF#64) ||| 0xC#64 else x

/-- Write a queue register (R414). -/
def writeQueue (s : State) (q r : Nat) (m v : DWord) : State :=
  let x := s.queue q
  if r = 0 then
    if x.en then (if m.getLsbD 63 ∧ !v.getLsbD 63 then disableQueue s q else s)
    else
      let s1 := s.setQueue q { x with ctl := clampSize (mergeReg x.ctl m v 0x783F_03FF_007F_7F0F#64) }
      if m.getLsbD 63 ∧ v.getLsbD 63 then enableQueue s1 q else s1
  else if x.en then s
  else s.setQueue q (match r with
    | 1 => { x with base := mergeReg x.base m v 0x00FF_FFFF_FFFF_FC00#64 }
    | 2 => { x with stg := mergeReg x.stg m v 0x000F_FFFF_FFFF_FF80#64 }
    | 3 => { x with sev := clampSize (mergeReg x.sev m v 0x00FF_FFFF_FFFF_FC0F#64) }
    | 4 => { x with svec := mergeReg x.svec m v 0x0000_FFFF_FFFF_FFFF#64 }
    | 5 => { x with hvec := mergeReg x.hvec m v 0x0000_FFFF_FFFF_FFFF#64 }
    | _ => x)

/-- Read a queue register. -/
def readQueue (s : State) (q r : Nat) : DWord :=
  let x := s.queue q
  match r with
  | 0 => x.ctl ||| (if x.en then 0x8000_0000_0000_0000#64 else 0)
  | 1 => x.base
  | 2 => x.stg
  | 3 => x.sev
  | 4 => x.svec
  | 5 => x.hvec
  | _ => 0

/-- Read a notify page (R418). -/
def readNotify (s : State) (q off : Nat) : DWord :=
  let x := s.queue q
  match off with
  | 8 => join64 x.fetched x.retired
  | 0x10 => BitVec.ofNat 64 (x.lasterr.toNat * 256 + x.state.toNat)
  | _ => 0

/-! ## Pre-emption and segment requests (R435, R438, R496) -/

/-- Folios of a partition (R435). -/
def partFolios (s : State) : Nat := [1, 2, 4, 12].getD (fieldN s.scrip.ptcfg.toNat 0 2) 1

/-- The partition of a quill (R438). -/
def partOf (s : State) (q : Nat) : Nat := dieOf q * (12 / partFolios s) + folioOf q % 12 / partFolios s

/-- The first folio of a partition. -/
def partBase (s : State) (p : Nat) : Nat :=
  let n := 12 / partFolios s
  p / n * 12 + p % n * partFolios s

/-- Partitions that hold a gang. -/
def partsHolding (s : State) (p : Gang → Bool) : List Nat :=
  ((s.gangs.filter (fun e => !e.2.ended && p e.2)).map (fun e => partOf s e.2.quill)).eraseDups

/-- Resident grids with a gang on some partitions. -/
def residentGrids (s : State) (ps : List Nat) : List Nat :=
  ((s.gangs.filter (fun e => !e.2.ended && ps.contains (partOf s e.2.quill) &&
    (match s.grids.find e.2.grid with | some g => g.op.resident | none => false))).map (fun e => e.2.grid)).eraseDups

/-- Some partitions with those that hold the same resident grids, repeated `n` times (R198, R438). -/
def withResidents (s : State) : Nat → List Nat → List Nat
  | 0, ps => ps
  | n + 1, ps =>
    let gs := residentGrids s ps
    withResidents s n (ps ++ partsHolding s (fun g => gs.contains g.grid)).eraseDups

/-- The partitions that are pre-empted when some are. -/
def togetherWith (s : State) (ps : List Nat) : List Nat := withResidents s s.grids.length ps

/-- The shadow banks of a partition hold state. -/
def shadowHeld (s : State) (p : Nat) : Bool := s.scrip.saved.any (fun x => x.shadow && x.part == p)

/-- A pre-emption starts: the quills of a partition stop issue (R410). -/
def startPreempt (s : State) (p : Nat) : State :=
  if s.scrip.drain.contains p ∨ shadowHeld s p then s
  else
    let qs := ((s.gangs.filter (fun e => partOf s e.2.quill == p)).map (fun e => e.2.quill)).eraseDups
    let s1 := qs.foldl haltQuill s
    { s1 with scrip := { s1.scrip with drain := s1.scrip.drain ++ [p] } }

/-- The pre-emptions that are asked for start, each together with every partition that holds the same resident grids, once none of
their shadow banks holds state (R198, R438). -/
def startWanted (s : State) : State :=
  s.scrip.ptwant.foldl (fun s p =>
    let ps := togetherWith s [p]
    if ps.any (shadowHeld s) then s else ps.foldl startPreempt s) s

/-- A partition that holds no gang any more is left as it stands: a request waits for it no longer (R438). -/
def dropWanted (s : State) : State :=
  let want := s.scrip.ptwant.filter (fun p => s.scrip.drain.contains p || s.gangs.any (fun e => partOf s e.2.quill == p))
  { s with scrip := { s.scrip with ptwant := want, ptbusy := s.scrip.ptbusy && !want.isEmpty } }

/-- A pre-emption request (R438). -/
def requestPreempt (s : State) (v : DWord) : State :=
  let x := v.toNat
  let op := fieldN x 60 3
  let part := fieldN x 0 7
  if s.scrip.ptbusy ∨ (op ≠ 1 ∧ op ≠ 2) ∨ (op = 1 ∧ part ≥ 96 / partFolios s) then refuseReg s 0 0x2200_0018
  else
    let base := if op = 1 then (partsHolding s (fun _ => true)).filter (· == part)
      else partsHolding s (fun g => match s.grids.find g.grid with | some r => r.queue == fieldN x 16 5 | none => false)
    let want := togetherWith s base
    let s1 := { s with scrip := { s.scrip with ptreq := v &&& 0x7000_0000_001F_007F#64, ptbusy := !want.isEmpty, ptwant := want } }
    startWanted s1

/-- A segment request starts (R496). -/
def requestSeg (s : State) (m v : DWord) : State :=
  if s.scrip.seg.busy then s
  else { s with scrip := { s.scrip with seg := { s.scrip.seg with
    reg := mergeReg s.scrip.seg.reg m v 0x000F_FFFF_FFFF_FFC0#64, busy := true } } }

/-! ## Engine-fault frames (R408, R409) -/

/-- efstat (R408). -/
def EFrame.stat (f : EFrame) : DWord :=
  BitVec.ofNat 64 ((if f.stop then 2 ^ 63 else 0) + (if f.abort then 2 ^ 62 else 0) + f.stream % 8 * 2 ^ 56 +
    f.cls % 32 * 2 ^ 48 + f.seq % 65536 * 2 ^ 32 + f.index % 2 ^ 32)

/-- A valid resume PC. -/
def efPc (p : DWord) : DWord := p ||| 0x8000_0000_0000_0000#64

/-- Read a frame register (R408). -/
def readFrame (f : EFrame) (r : Nat) : DWord :=
  if r = 0 then f.stat
  else if r = 8 then f.addr
  else if 0x100 ≤ r ∧ r < 0x200 then
    (match f.pcs.find? (fun p => p.1 == (r - 0x100) / 8) with | some p => efPc p.2 | none => 0)
  else if r = 0x200 then (match f.pcn with | some p => efPc p | none => 0)
  else if 0x208 ≤ r ∧ r < 0x238 then
    let l := if (r - 0x208) % 16 = 0 then f.com else f.spec
    (match l[(r - 0x208) / 16]? with | some p => BitVec.ofNat 64 (p.1 % 65536 * 2 ^ 32 + p.2 % 2 ^ 32) | none => 0)
  else 0

/-- The quill goes on from its committed positions, every address translated afresh (R74, R388, R409). -/
def resumeQuill (s : State) (q : Nat) : State :=
  let x := s.quill q
  if x.efs.stop then
    let f : EFrame := { x.efs with stop := false, abort := false }
    forgetWalks (s.setQuill q { x with efs := f, halted := s.scrip.drain.contains (partOf s q) }) q
  else s

/-- Everything after the committed positions goes, and the quill's gangs end as by halt (R409). Matrix entries that have committed and
owe counts stay. -/
def abortQuill (s : State) (q : Nat) : State :=
  if !(s.quill q).efs.stop then s
  else
    let s1 := (resumeQuill s q).modQuill q (fun x =>
      { x with mx := x.mx.filter (fun m => m.owed.isSome), copy := { x.copy with cmds := [] }, gather := { x.gather with cmds := [] } })
    let gs := (s1.gangs.filter (fun e => e.2.quill == q && !e.2.ended)).map Prod.fst
    gs.foldl (fun s g => haltGang s g (fun r => { r with abort := true })) s1

/-- Write efstat (R408, R409). -/
def writeEfstat (s : State) (q : Nat) (m v : DWord) : State :=
  let s1 := if m.getLsbD 62 then s.modQuill q (fun x => { x with efs := { x.efs with abort := v.getLsbD 62 } }) else s
  if m.getLsbD 63 ∧ v.getLsbD 63 ∧ (s1.quill q).efs.stop then
    (if (s1.quill q).efs.abort then abortQuill s1 q else resumeQuill s1 q)
  else s1

/-! ## Domain registers (R45-R47, R177, R179, R187, R191, R196) -/

/-- domlink (R191). -/
def Port.link (p : Port) : DWord :=
  let fec := if p.state = 2 then (if p.speed = 3 then 1 else 2) else 0
  BitVec.ofNat 64 (p.replays % 65536 * 2 ^ 48 + p.ppeer.toNat * 2 ^ 39 + p.pport.toNat * 2 ^ 34 +
    (if p.half then 256 else 0) + (if p.rev then 128 else 0) + fec * 32 + p.speed.toNat * 8 + p.state.toNat)

/-- domtick (R196). -/
def domtick (f : Fabric) : DWord :=
  BitVec.ofNat 64 ((if f.lost then 2 ^ 63 else 0) + f.lastadj.toNat * 2 ^ 32 + f.tport.toNat * 2 ^ 13 + f.tsource.toNat)

/-- Write domexp: in effect only with a qualifying shoot-down (R46, R85). -/
def writeDomexp (s : State) (m v : DWord) : State :=
  let x := mergeReg s.fab.domexp m v 0x8000_FFFF_7FFF_FFFF#64
  let x1 := if 0x4000_0000 < fieldN x.toNat 0 31 then (x &&& ~~~0x7FFF_FFFF#64) ||| 0x4000_0000#64 else x
  { s with fab := { s.fab with domexp := x1 } }

/-- Write a word of the permission map; the own bit stays 1 (R47). -/
def writeAllow (s : State) (n : Nat) (m v : DWord) : State :=
  let own : DWord := if s.fab.peer.toNat / 64 = n then 1#64 <<< (s.fab.peer.toNat % 64) else 0
  let x := mergeReg (s.fab.allow.getD n 0) m v (BitVec.allOnes 64) ||| own
  { s with fab := { s.fab with allow := setAt s.fab.allow n x } }

/-- Lanes of a peer with requests outstanding at the source. -/
def busyLanes (s : State) (peer : Nat) : List Nat :=
  (List.range 64).filter (fun h => s.fab.out.any (fun r => r.peer == peer && r.lane == h))

/-- Write a route: lanes with requests outstanding keep the old one until they drain (R177, R179). -/
def writeRoute (s : State) (peer : Nat) (v : DWord) : State :=
  let old := (s.fab.route.find peer).getD 0
  let keep := (busyLanes s peer).filter (fun h => !s.fab.oldRoute.any (fun r => r.1 == peer && r.2.1 == h))
  { s with fab := { s.fab with
    route := s.fab.route.put peer (v &&& 0x8000_0000_0003_FFFF#64)
    oldRoute := s.fab.oldRoute ++ keep.map (fun h => (peer, h, old)) } }

/-! ## Reservation, ASTC formats, throttles (R132, R135, R484, R485) -/

/-- A reservation register at reset. -/
def Chrsv.init : Chrsv := { share := 0, lent := 0, inEffect := 0, frames := 0 }

def chrsvOf (s : State) (ch : Nat) : Chrsv := (s.st.chrsv.find ch).getD Chrsv.init

/-- Write a share; it takes effect at the next frame boundary (R132). -/
def writeChrsv (s : State) (ch share : Nat) : State :=
  { s with st := { s.st with chrsv := s.st.chrsv.put ch { chrsvOf s ch with share := min share 16 } } }

/-- The footprints that are supported (R135). -/
def footprints : List (Nat × Nat) :=
  [(4, 4), (5, 4), (5, 5), (6, 5), (6, 6), (8, 5), (8, 6), (8, 8), (10, 5), (10, 6), (10, 8), (10, 10), (12, 10), (12, 12)]

/-- Write an ASTC register: every decoded line goes first (R135). -/
def writeAstc (s : State) (i : Nat) (v : DWord) : State :=
  if footprints.contains (fieldN v.toNat 0 4, fieldN v.toNat 4 4) then
    { s with st := { s.st with astc := setAt s.st.astc i (v &&& 0x80FF#64) }
             quills := s.quills.map (fun e => (e.1, { e.2 with cq := e.2.cq.filter (fun l => decide (l.1 < 2 ^ 56)) })) }
  else s

/-- The throttle of a context. -/
def throttleOf (s : State) (asid : Nat) : Throttle := (s.pow.throttle.find asid).getD Throttle.init

def setThrottle (s : State) (asid : Nat) (t : Throttle) : State :=
  { s with pow := { s.pow with throttle := s.pow.throttle.put asid t } }

/-- Enabled queues of a context. -/
def contextQueues (s : State) (asid : Nat) : List Nat :=
  (List.range 32).filter (fun q => (s.queue q).en && (s.queue q).asid == asid)

/-- Write a share: a change goes to the status word, then to the event rings (R484, R485). The write of a word that is misaligned (R28),
lies on a page of the inkwell kind (R42) or on device registers faults, and only the events report the change; so it is where the
descriptor that names the guest is poisoned (R131, log 61). -/
def writeShare (s : State) (asid share : Nat) : State :=
  let t := throttleOf s asid
  let n := min share 64
  if n = t.share then s
  else
    let t1 := { t with share := n, count := (t.count + 1) % 2 ^ 32 }
    let s1 := setThrottle s asid t1
    let vmid := fieldN (s.dword (descAddr s asid)).toNat 10 6
    let s2 := if t.status = 0 then s1
      else if poisoned s (descAddr s asid) 8 then logPoison s1 8 (descAddr s asid)
      else match scripAddr s1 vmid asid t.status.toNat .store with
      | (s', .ok (l, pa)) =>
        if t.status.toNat % 8 ≠ 0 ∨ l.kind = 1 ∨ l.kind = 4 then s' else scripWrite s' pa (bytes8 (t1.count * 2 ^ 32 + n))
      | (s', .error _) => s'
    (contextQueues s2 asid).foldl (fun s q => eventRecord s q 4 0 n 0) s2

/-! ## Heads (R446-R448, R534) -/

/-- The mailbox page (R444). -/
def frameMailbox : Nat := frameBase + 0x3FF_0000

def headOf (s : State) (h : Nat) : Head := (s.duct.heads.find h).getD Head.init
def setHead (s : State) (h : Nat) (x : Head) : State := { s with duct := { s.duct with heads := s.duct.heads.put h x } }

namespace Head
def en (x : Head) : Bool := x.ctl.getLsbD 63
def lat (x : Head) : Nat := fieldN x.ctl.toNat 48 9
def va (x : Head) : Nat := fieldN x.ctl.toNat 32 13 + 1
def ha (x : Head) : Nat := fieldN x.ctl.toNat 16 13 + 1
def ofmt (x : Head) : Nat := fieldN x.ctl.toNat 0 2
def lp (x : Head) : Nat := fieldN x.tim.toNat 32 32
def vt (x : Head) : Nat := fieldN x.tim.toNat 0 14
def entry (x : Head) : Nat := fieldN x.code.toNat 0 18
def codeEnd (x : Head) : Nat := fieldN x.code.toNat 32 19
def asid (x : Head) : Nat := fieldN x.ctx.toNat 38 10
def vmid (x : Head) : Nat := fieldN x.ctx.toNat 32 6
def ringOff (x : Head) : Nat := fieldN x.ring.toNat 7 19 * 128
def histBase (x : Head) : Nat := fieldN x.hist.toNat 16 36 * 65536
/-- Bytes of a line of the output ring (R446). -/
def pitch (x : Head) : Nat := (4 * x.ha + 127) / 128 * 128
/-- Bands of a refresh (R448). -/
def bandCount (x : Head) : Nat := (x.va + 7) / 8
/-- Bytes of a history buffer (R455). -/
def histSize (x : Head) : Nat := (x.pitch * x.va + 16 * x.bandCount + 65535) / 65536 * 65536
/-- The tick of the first line of refresh 0 (R448). -/
def f0 (x : Head) : Nat := x.tEn + (x.lat * x.lp + 255) / 256
/-- The tick at which a line starts scan-out (R448). -/
def lineTick (x : Head) (n : Nat) (y : Int) : Int := (x.f0 : Int) + ((n * x.vt : Nat) + y) * x.lp / 256
/-- The mode fits the link (R534). -/
def fits (x : Head) : Bool :=
  let l := x.link.toNat
  let ok := fun (bpp : Nat) => decide (x.ha * bpp * 4200000000 * 256 ≤ fieldN l 32 16 * 10000000 * x.lp)
  ok (if x.ofmt = 0 then 24 else 30) || (bitN l 8 && ok 12)
/-- What en = 1 asks for (R447). -/
def mayEnable (x : Head) : Bool :=
  decide (x.ha ≤ 7680) && decide (x.va ≤ 4320) && decide (x.va + 1 ≤ x.vt) && decide (84 * x.ha ≤ x.lp) &&
  decide (16 ≤ x.lat) && decide (x.lat ≤ 256) && decide (x.ofmt ≤ 1) && x.entry % 16 == 0 && x.codeEnd % 16 == 0 &&
  decide (x.entry < x.codeEnd) && decide (x.codeEnd ≤ 0x4_0000) &&
  decide (x.ringOff + (x.lat + 16) * x.pitch ≤ 0x3FF_0000) && decide (x.histBase + 3 * x.histSize ≤ 2 ^ 38) &&
  x.link.getLsbD 63 && x.fits
/-- hdstat: the refresh and the line being scanned out (R446). -/
def status (x : Head) (tick : Nat) : DWord :=
  if !x.en then x.stat
  else if tick < x.f0 ∨ x.lp = 0 ∨ x.vt = 0 then 0
  else
    let k := (256 * (tick - x.f0 + 1) - 1) / x.lp
    BitVec.ofNat 64 (k / x.vt % 2 ^ 32 * 2 ^ 32 + k % x.vt % 8192)
end Head

/-- Writing en = 1 of a head (R447, R448). The head then has no current frame and no source yet (log 107). -/
def enableHead (s : State) (h : Nat) : State :=
  let x := headOf s h
  if x.en then s
  else if x.mayEnable then
    setHead s h { x with ctl := x.ctl ||| 0x8000_0000_0000_0000#64, tEn := s.tick, live := true, frame := none,
                         pose := List.replicate 16 0, bands := [], nextBand := 0, refs := [], histSrc := none, lastDst := none,
                         inuse := none, scan := 0 }
  else refuseReg s h (0x2000_0000 + h * 0x100)

/-- The lower of two sequence numbers in u32 order (R105, R451). -/
def seqMin (a b : Word) : Word := if (b - a).toNat < 2 ^ 31 then a else b

/-- A band counts for the inuse word: started and neither emitted nor fallen back (R451). -/
def Band.inUse (x : Band) : Bool := x.st == .waiting || x.st == .running

/-- The value of the inuse word of a head; none without a frame (R451). -/
def Head.oldest (x : Head) : Option Word :=
  match x.frame with
  | none => none
  | some f => some ((x.bands.filter Band.inUse).foldl (fun m b => match b.frame with | some g => seqMin g.1 m | none => m) f.1)

/-- Write the inuse word when its value has changed (R451). -/
def updateInuse (s : State) (h : Nat) : State :=
  let x := headOf s h
  match x.oldest with
  | none => s
  | some q =>
    if x.inuse = some q then s
    else storeHome (setHead s h { x with inuse := some q }) (frameMailbox + 0x100 * h + 8) (bytes8 (q.toNat * 2 ^ 32 + 1))

/-- Write the presentation-log record of a band (R458). -/
def presentRecord (s : State) (h : Nat) (x : Band) (cause src : Nat) : State :=
  logPresent s (cause + h * 16 + x.b % 1024 * 2 ^ 16 + x.n % 2 ^ 32 * 2 ^ 32)
    (src + (match x.frame with | some f => f.1.toNat | none => 0) * 2 ^ 32) (x.deadline % 2 ^ 64)

/-- The source refresh of a head as the presentation log names it (R458). -/
def Head.srcName (x : Head) : Nat := match x.histSrc with | some r => r.2 % 2 ^ 32 | none => 0xFFFF_FFFF

/-- Writing en = 0: bands not started never start, running cores of the head halt, lines go blank (R447). Bands that have
fallen back get their records; where the head has no source, with cause 5 in place of the band's own (R457). -/
def disableHead (s : State) (h : Nat) : State :=
  let x := headOf s h
  if !x.en then s
  else
    let s1 := x.bands.foldl (fun s b => match b.st with
      | .falling c src => presentRecord s h b c src
      | .faulted c => presentRecord s h b (if x.histSrc.isNone then 5 else c) x.srcName
      | _ => s) s
    let s2 := setHead s1 h { x with stat := x.status s.tick, ctl := x.ctl &&& 0x7FFF_FFFF_FFFF_FFFF#64, bands := [] }
    let s3 := { s2 with duct := { s2.duct with cores := s2.duct.cores.map (fun e => (e.1, match e.2.busy with
        | some (g, _, _) => if g = h then { e.2 with busy := none } else e.2
        | none => e.2)) } }
    updateInuse s3 h

/-- Write a head register (R446). -/
def writeHead (s : State) (h r : Nat) (m v : DWord) : State :=
  let x := headOf s h
  if r = 0 then
    if x.en then (if m.getLsbD 63 ∧ !v.getLsbD 63 then disableHead s h else s)
    else
      let s1 := setHead s h { x with ctl := mergeReg x.ctl m v 0x01FF_1FFF_1FFF_0003#64 }
      if m.getLsbD 63 ∧ v.getLsbD 63 then enableHead s1 h else s1
  else if x.en then s
  else setHead s h (match r with
    | 0x08 => { x with tim := mergeReg x.tim m v 0xFFFF_FFFF_0000_3FFF#64 }
    | 0x10 => { x with code := mergeReg x.code m v 0x0007_FFFF_0003_FFFF#64 }
    | 0x18 => { x with ctx := mergeReg x.ctx m v 0x0000_FFFF_0000_0000#64 }
    | 0x20 => { x with ring := mergeReg x.ring m v 0x03FF_FF80#64 }
    | 0x28 => { x with hist := mergeReg x.hist m v 0x000F_FFFF_FFFF_0000#64 }
    | 0x30 => { x with k0 := mergeReg x.k0 m v (BitVec.allOnes 64) }
    | 0x38 => { x with k1 := mergeReg x.k1 m v (BitVec.allOnes 64) }
    | 0x40 => { x with plane := mergeReg x.plane m v 0x3FFF_FFFF_FFFF_FFFF#64 }
    | _ => x)

/-- Read a head register. -/
def readHead (s : State) (h r : Nat) : DWord :=
  let x := headOf s h
  match r with
  | 0x00 => x.ctl
  | 0x08 => x.tim
  | 0x10 => x.code
  | 0x18 => x.ctx
  | 0x20 => x.ring
  | 0x28 => x.hist
  | 0x30 => x.k0
  | 0x38 => x.k1
  | 0x40 => x.plane
  | 0x48 => x.status s.tick
  | 0x50 => x.link
  | _ => 0

/-- A head with en = 1 covers a code byte (R443). -/
def codeCovered (s : State) (o n : Nat) : Bool :=
  s.duct.heads.any (fun e => e.2.en && decide (o < e.2.codeEnd) && decide (e.2.entry < o + n))

/-- Write code bytes (R443). -/
def writeCode (s : State) (scrip : Bool) (o : Nat) (data : List Byte) : State :=
  if !scrip ∨ codeCovered s o data.length ∨ o + data.length > 0x4_0000 then refuseReg s 0 (0x2010_0000 + o)
  else { s with duct := { s.duct with code := (data.zipIdx).foldl (fun m b =>
      if b.1 = 0 then FMap.del m (o + b.2) else FMap.put m (o + b.2) b.1) s.duct.code } }

/-- Code bytes. -/
def codeBytes (s : State) (o n : Nat) : List Byte := (List.range n).map (fun i => (s.duct.code.find (o + i)).getD 0)

/-! ## Rings (R80, R458, R503) -/

/-- Fields of a ring's base register. -/
def ringFields : DWord := 0x000F_FFFF_FFFF_0017#64

/-- The status of a ring. -/
def ringStat (ovf : Bool) (drop : Word) : DWord := join64 (if ovf then 0x8000_0000#32 else 0) drop

/-- Clearing ovf clears the drop count (R80). -/
def clearsOvf (m v : DWord) : Bool := m.getLsbD 63 && v.getLsbD 63

/-! ## Sensors (R481) -/

def sensorOf (s : State) (k : Nat) : Sensor := (s.pow.sensors.find k).getD Sensor.init

def setSensor (s : State) (k : Nat) (x : Sensor) : State := { s with pow := { s.pow with sensors := s.pow.sensors.put k x } }

/-- Clearing suspect restores the raw reading (R481, R482). -/
def clearSuspect (s : State) (k : Nat) : State :=
  let x := sensorOf s k
  if x.sus then setSensor s k { x with sus := false, why := 0, value := x.raw } else s

/-- The margin register of a die. -/
def marginOf (s : State) (die : Nat) : Word := (s.pow.snsmgn.find die).getD 0x0050_0140#32

/-! ## The map (R44) -/

/-- Registers of 32 bits: staging ownership and sensors. -/
def isReg32 (o : Nat) : Bool :=
  (decide (0x1000_0000 ≤ o) && decide (o < 0x1800_0000) && decide (0x1_0000 ≤ o % 0x100_0000) && decide (o % 0x100_0000 < 0x1_0300)) ||
  (decide (0x2100_0000 ≤ o) && decide (o < 0x2109_0000))

/-- Read a register of 32 bits. -/
def read32 (s : State) (o : Nat) : Word :=
  if o < 0x1800_0000 then
    let x := o % 0x100_0000 - 0x1_0000
    (ownerWords s (fieldN o 24 3 * 24 + x / 0x20)).getD (x % 0x20 / 4) 0
  else
    let die := (o - 0x2100_0000) / 0x1_0000
    let x := o % 0x1_0000
    if x < 0x180 then
      let r := sensorOf s (die * 128 + x / 4)
      BitVec.ofNat 32 ((if r.sus then 2 ^ 31 else 0) + r.why % 4 * 2 ^ 29 + r.value.toNat)
    else if x = 0x200 then marginOf s die
    else 0

/-- Write a register of 32 bits. -/
def write32 (s : State) (who : Agent) (o : Nat) (v : Word) : State :=
  if o < 0x1800_0000 then
    let x := o % 0x100_0000 - 0x1_0000
    if Agent.isScrip who then changeOwner s (fieldN o 24 3 * 24 + x / 0x20) (x % 0x20 / 4) (v &&& 0x83FF_3F00#32) else s
  else
    let die := (o - 0x2100_0000) / 0x1_0000
    let x := o % 0x1_0000
    if x < 0x180 then
      (if Agent.isScrip who ∧ v.getLsbD 31 then clearSuspect s (die * 128 + x / 4) else s)
    else if x = 0x200 ∧ Agent.manages who then { s with pow := { s.pow with snsmgn := s.pow.snsmgn.put die v } }
    else s

/-- Read a register of 64 bits. The identity window reads zero before stage 2 has measured the firmware (R505, log 79). -/
def read64 (s : State) (o : Nat) : DWord :=
  if o < 0x1_0000 then
    (match o with
    | 0x0000 => 0x0960_1084_1200_0000#64
    | 0x0100 => s.boot
    | 0x1000 => s.xl.ctxtab
    | 0x1008 => s.xl.vmtab
    | 0x1010 => s.xl.xfbase
    | 0x1018 => s.xl.xfhead.setWidth 64
    | 0x1020 => s.xl.xftail.setWidth 64
    | 0x1028 => ringStat s.xl.xfovf s.xl.xfdrop
    | 0x1040 => s.log.base
    | 0x1048 => s.log.head.setWidth 64
    | 0x1050 => s.log.tail.setWidth 64
    | 0x1058 => ringStat s.log.ovf s.log.drop
    | _ => if 0x2000 ≤ o ∧ o < 0x2030 then s.st.astc.getD ((o - 0x2000) / 8) 0 else 0)
  else if 0x0010_0000 ≤ o ∧ o < 0x0030_0000 then readNotify s ((o - 0x0010_0000) / 0x1_0000) (o % 0x1_0000)
  else if 0x0100_0000 ≤ o ∧ o < 0x0101_0000 then
    let x := o - 0x0100_0000
    (match x with
    | 0x00 => BitVec.ofNat 64 (s.fab.size.toNat * 2 ^ 32 + s.fab.peer.toNat)
    | 0x08 => s.fab.domexp
    | 0x10 => domtick s.fab
    | 0x18 => s.fab.domto.setWidth 64
    | _ =>
      if 0x100 ≤ x ∧ x < 0x140 then s.fab.allow.getD ((x - 0x100) / 8) 0
      else if 0x200 ≤ x ∧ x < 0x290 then (match s.fab.ports[(x - 0x200) / 8]? with | some p => p.link | none => 0)
      else if 0x1000 ≤ x ∧ x < 0x2000 then (s.fab.route.find ((x - 0x1000) / 8)).getD 0
      else 0)
  else if 0x1000_0000 ≤ o ∧ o < 0x1800_0000 then
    let die := fieldN o 24 3
    let x := o % 0x100_0000
    if 0x2_0000 ≤ x ∧ x < 0x2_0040 then
      let c := chrsvOf s (die * 8 + (x - 0x2_0000) / 8)
      join64 c.lent (BitVec.ofNat 32 c.share)
    else if 0x3_0000 ≤ x ∧ x < 0x4_8000 then readFrame (s.quill (die * 96 + (x - 0x3_0000) / 0x400)).efs (x % 0x400)
    else 0
  else if 0x2000_0000 ≤ o ∧ o < 0x2000_0400 then readHead s ((o - 0x2000_0000) / 0x100) (o % 0x100)
  else if 0x2010_0000 ≤ o ∧ o < 0x2014_0000 then BitVec.ofNat 64 (ofBytes (codeBytes s (o - 0x2010_0000) 8))
  else if 0x2110_0000 ≤ o ∧ o < 0x2110_8000 then (s.pow.optab.find ((o - 0x2110_0000) / 8)).getD 0
  else if 0x2120_0000 ≤ o ∧ o < 0x2120_4000 then
    let t := throttleOf s ((o - 0x2120_0000) / 16)
    if o % 16 = 0 then BitVec.ofNat 64 t.share else t.status
  else if 0x2200_1000 ≤ o ∧ o < 0x2200_1800 then readQueue s ((o - 0x2200_1000) / 0x40) (o % 0x40 / 8)
  else if 0x2200_4000 ≤ o ∧ o < 0x2201_0000 then (if s.boot.toNat % 16 < 2 ∨ s.host.fwMeasure = [] then 0 else Config.identity s.host.fwMeasure o)
  else match o with
    | 0x2000_8000 => s.duct.dlbase
    | 0x2000_8008 => s.duct.dlhead.setWidth 64
    | 0x2000_8010 => s.duct.dltail.setWidth 64
    | 0x2000_8018 => ringStat s.duct.dlovf s.duct.dldrop
    | 0x2130_0000 => s.pow.trips
    | 0x2200_0010 => s.scrip.ptcfg
    | 0x2200_0018 => s.scrip.ptreq ||| (if s.scrip.ptbusy then 0x8000_0000_0000_0000#64 else 0)
    | 0x2200_0020 => s.scrip.seg.reg ||| (if s.scrip.seg.busy then 0x8000_0000_0000_0000#64 else 0)
    | _ => 0

/-- Write a register of 64 bits, the bits of `m`. -/
def write64 (s : State) (who : Agent) (o : Nat) (m v : DWord) : State :=
  let mg := Agent.manages who
  let sc := Agent.isScrip who
  if o < 0x1_0000 then
    if !mg then s
    else match o with
    | 0x1000 => { s with xl := { s.xl with ctxtab := mergeReg s.xl.ctxtab m v 0x000F_FFFF_FFFF_0000#64 } }
    | 0x1008 => { s with xl := { s.xl with vmtab := mergeReg s.xl.vmtab m v 0x000F_FFFF_FFFF_0000#64 } }
    | 0x1010 => { s with xl := { s.xl with xfbase := mergeReg s.xl.xfbase m v ringFields } }
    | 0x1020 => { s with xl := { s.xl with xftail := lo32 (mergeReg (s.xl.xftail.setWidth 64) m v 0xFFFF_FFFF#64) } }
    | 0x1028 => if clearsOvf m v then { s with xl := { s.xl with xfovf := false, xfdrop := 0 } } else s
    | 0x1040 => { s with log := { s.log with base := mergeReg s.log.base m v ringFields } }
    | 0x1050 => { s with log := { s.log with tail := lo32 (mergeReg (s.log.tail.setWidth 64) m v 0xFFFF_FFFF#64) } }
    | 0x1058 => if clearsOvf m v then { s with log := { s.log with ovf := false, drop := 0 } } else s
    | _ =>
      if 0x2000 ≤ o ∧ o < 0x2030 ∧ sc then
        let i := (o - 0x2000) / 8
        writeAstc s i (mergeReg (s.st.astc.getD i 0) m v 0x80FF#64)
      else s
  else if 0x0010_0000 ≤ o ∧ o < 0x0030_0000 then
    if o % 0x1_0000 = 0 then notifyQueue s ((o - 0x0010_0000) / 0x1_0000) else s
  else if 0x0100_0000 ≤ o ∧ o < 0x0101_0000 then
    let x := o - 0x0100_0000
    if x = 0x08 ∧ mg then writeDomexp s m v
    else if x = 0x18 ∧ mg then
      let w := lo32 (mergeReg (s.fab.domto.setWidth 64) m v 0xFFFF_FFFF#64)
      { s with fab := { s.fab with domto := if w = 0 then 1 else w } }
    else if 0x100 ≤ x ∧ x < 0x140 ∧ mg then writeAllow s ((x - 0x100) / 8) m v
    else if 0x1000 ≤ x ∧ x < 0x2000 ∧ sc then
      let p := (x - 0x1000) / 8
      writeRoute s p (mergeReg ((s.fab.route.find p).getD 0) m v (BitVec.allOnes 64))
    else s
  else if 0x1000_0000 ≤ o ∧ o < 0x1800_0000 then
    let die := fieldN o 24 3
    let x := o % 0x100_0000
    if 0x2_0000 ≤ x ∧ x < 0x2_0040 then
      let ch := die * 8 + (x - 0x2_0000) / 8
      if sc ∧ m.getLsbD 0 then writeChrsv s ch (fieldN v.toNat 0 5) else s
    else if 0x3_0000 ≤ x ∧ x < 0x4_8000 ∧ x % 0x400 = 0 ∧ mg then
      writeEfstat s (die * 96 + (x - 0x3_0000) / 0x400) m v
    else s
  else if 0x2000_0000 ≤ o ∧ o < 0x2000_0400 then
    if sc then writeHead s ((o - 0x2000_0000) / 0x100) (o % 0x100) m v else s
  else if 0x2110_0000 ≤ o ∧ o < 0x2110_8000 then
    let i := (o - 0x2110_0000) / 8
    if sc then { s with pow := { s.pow with optab := s.pow.optab.put i (mergeReg ((s.pow.optab.find i).getD 0) m v (BitVec.allOnes 64)) } }
    else s
  else if 0x2120_0000 ≤ o ∧ o < 0x2120_4000 then
    let a := (o - 0x2120_0000) / 16
    let t := throttleOf s a
    if !mg then s
    else if o % 16 = 0 then (if m.getLsbD 0 then writeShare s a (fieldN v.toNat 0 7) else s)
    else setThrottle s a { t with status := mergeReg t.status m v (BitVec.allOnes 64) }
  else if 0x2200_1000 ≤ o ∧ o < 0x2200_1800 then
    if mg then writeQueue s ((o - 0x2200_1000) / 0x40) (o % 0x40 / 8) m v else s
  else if !mg then s
  else match o with
    | 0x2000_8000 => { s with duct := { s.duct with dlbase := mergeReg s.duct.dlbase m v ringFields } }
    | 0x2000_8010 => { s with duct := { s.duct with dltail := lo32 (mergeReg (s.duct.dltail.setWidth 64) m v 0xFFFF_FFFF#64) } }
    | 0x2000_8018 => if clearsOvf m v then { s with duct := { s.duct with dlovf := false, dldrop := 0 } } else s
    | 0x2200_0010 =>
      if sc ∧ s.grids.all (fun e => e.2.done) then
        let x := mergeReg s.scrip.ptcfg m v 0x0000_FFFF_0000_0003#64
        { s with scrip := { s.scrip with ptcfg := if fieldN x.toNat 32 16 = 0 then x ||| 0x1_0000_0000#64 else x } }
      else s
    | 0x2200_0018 => requestPreempt s (mergeReg s.scrip.ptreq m v (BitVec.allOnes 64))
    | 0x2200_0020 => requestSeg s m v
    | _ => s

/-- Read 4 or 8 bytes of device registers (R41, R44, R142). -/
def regRead (s : State) (o size : Nat) : Nat :=
  if size = 8 then
    (if isReg32 o then (join64 (read32 s (o + 4)) (read32 s o)).toNat else (read64 s o).toNat)
  else if size = 4 then
    (if isReg32 o then (read32 s o).toNat else fieldN (read64 s (o / 8 * 8)).toNat (8 * (o % 8)) 32)
  else 0

/-- Write 4 or 8 bytes of device registers. -/
def regWrite (s : State) (who : Agent) (o size v : Nat) : State :=
  if 0x2010_0000 ≤ o ∧ o < 0x2014_0000 then writeCode s (Agent.isScrip who) (o - 0x2010_0000) (toBytes size v)
  else if size = 8 then
    (if isReg32 o then write32 (write32 s who o (BitVec.ofNat 32 v)) who (o + 4) (BitVec.ofNat 32 (v / 2 ^ 32))
     else write64 s who o (BitVec.allOnes 64) (BitVec.ofNat 64 v))
  else if size = 4 then
    (if isReg32 o then write32 s who o (BitVec.ofNat 32 v)
     else
       let sh := 8 * (o % 8)
       write64 s who (o / 8 * 8) (0xFFFF_FFFF#64 <<< sh) (BitVec.ofNat 64 v <<< sh))
  else s

end Sys2Proof.Machine
end

