-- ==== Sys2Proof/Machine/Operands.lean ====
section
/-! DEFINITION. What each instruction names and how it executes: its guard, its issue rule (R258, R281, R313, R365),
its privilege (R56, R306, R310) and its register operands (R38, R91, R117). -/
namespace Sys2Proof.Machine
open Sys2Proof

/-- Register files of tfval (R396). -/
inductive RFile where | v | s | k
deriving DecidableEq, Repr

/-- How an operand is read: each lane its own word, as a whole, by rules of the instruction, or by one lane alone. -/
inductive RHow where | lane | whole | own | one (lane : Nat)
deriving DecidableEq, Repr

/-- A run of registers that an instruction names. -/
structure Opd where
  f : RFile
  n : Nat
  len : Nat
  rd : Bool
  wr : Bool
  how : RHow
deriving DecidableEq, Repr

namespace Opd
def rs (n len : Nat) : List Opd := [⟨.s, n, len, true, false, .whole⟩]
def rs1 (n len lane : Nat) : List Opd := [⟨.s, n, len, true, false, .one lane⟩]
def ws (n len : Nat) : List Opd := [⟨.s, n, len, false, true, .whole⟩]
def rv (n len : Nat) : List Opd := [⟨.v, n, len, true, false, .lane⟩]
def rvw (n len : Nat) : List Opd := [⟨.v, n, len, true, false, .whole⟩]
def rvo (n len : Nat) : List Opd := [⟨.v, n, len, true, false, .own⟩]
def wv (n len : Nat) : List Opd := [⟨.v, n, len, false, true, .lane⟩]
def rk (n : Nat) : List Opd := [⟨.k, n, 1, true, false, .lane⟩]
def rkw (n : Nat) : List Opd := [⟨.k, n, 1, true, false, .whole⟩]
def wk (n : Nat) : List Opd := [⟨.k, n, 1, false, true, .lane⟩]
/-- A source that is scalar where bs is set (R312). -/
def bsrc (bs : Bool) (n len : Nat) : List Opd := if bs then rs n len else rv n len
end Opd

open Opd

/-- 2 for a pair. -/
def two (p : Bool) : Nat := if p then 2 else 1

/-- Registers of a memory datum by size code (R255). -/
def szRegs (sz : BitVec 3) : Nat :=
  match sz.toNat with
  | 3 => 2
  | 6 => 4
  | _ => 1

/-- Three-operand scalar form. -/
def opS (d a b : Nat) : List Opd := ws d 1 ++ rs a 1 ++ rs b 1

/-- Scalar T64 form with .d; `shift`: b is never a pair. -/
def opST (f : T64) (shift : Bool) : List Opd :=
  ws f.d.toNat (two f.dbl) ++ rs f.a.toNat (two f.dbl) ++ rs f.b.toNat (if shift then 1 else two f.dbl)

/-- Scalar long form. -/
def opSF (f : SForm) : List Opd :=
  match f with
  | .reg f => opST f false
  | .imm d a _ => ws d.toNat 1 ++ rs a.toNat 1
  | .immD d a _ => ws d.toNat 2 ++ rs a.toNat 2

/-- Vector T32 form. -/
def opV (x : Px) (bs : Bool) (p : Bool) (rb ra rd : BitVec 5) : List Opd :=
  wv (x.d rd) (two p) ++ rv (x.a ra) (two p) ++ bsrc bs (x.b rb) (two p)

/-- Vector T64 form. -/
def opVT (f : T64) (p : Bool) : List Opd :=
  wv f.d.toNat (two p) ++ rv f.a.toNat (two p) ++ bsrc f.bs f.b.toNat (two p)

/-- Vector long form. -/
def opVF (f : VForm) : List Opd :=
  match f with
  | .reg wd f => opVT f (wd == 3)
  | .imm d a _ => wv d.toNat 1 ++ rv a.toNat 1

/-- Registers that a pair mode writes (R357, R359). -/
def pairRegs (x : Px) (f64 : Bool) : Nat × Nat :=
  match x.pairMode with
  | 1 => if f64 then (4, 2) else (2, 1)
  | 2 => (2, 2)
  | _ => if f64 then (2, 2) else (1, 1)

/-- Floating-point arithmetic with a pair mode. -/
def opFP (x : Px) (f64 : Bool) (bs : Bool) (b a d : Nat) : List Opd :=
  let r := pairRegs x f64
  wv d r.1 ++ rv a r.2 ++ bsrc bs b r.2

/-- Registers of one operand of a format. -/
def fmtRegs (fmt : FFmt) : Nat := if fmt = .f64 then 2 else 1

/-- The format word of a vote: from a scalar register, or from every lane (R372). -/
def opVote (f : T64) : List Opd := if f.bs then rvo f.c.toNat 1 else rs f.c.toNat 1

/-- Engine command. -/
def opEng (idx : Bool) (f : T64) : List Opd := rs f.a.toNat 8 ++ (if idx then rs f.b.toNat 1 else [])

end Sys2Proof.Machine

namespace Sys2Proof
open Sys2Proof.Machine Sys2Proof.Machine.Opd

/-- The T64 fields of an instruction, where it has them (R256). -/
def Instr.t64 (i : Instr) : Option T64 :=
  match i with
  | .saddT64 (.reg f) | .sandT64 (.reg f) | .sorT64 (.reg f) | .sxorT64 (.reg f) | .smulT64 (.reg f)
  | .smulT64 (.hi _ f) | .sminT64 _ (.reg f) | .smaxT64 _ (.reg f) => some f
  | .ssubT64 f | .sshlT64 f | .sshrT64 _ f | .sdiv _ f | .sbf _ f | .scnt _ f => some f
  | .loop _ f | .loopCnt f | .barGang f | .barFol f | .ordbeg f | .ordend f | .ordrel f | .phase f | .clkdiv f
  | .rdtick _ f | .inkcal f | .mbx f | .ipf _ f | .fsmov _ f | .dqpush f | .dqpop f => some f
  | .syscallT64 f | .hcallT64 f | .tretT64 f | .exitT64 f | .halt f | .mfp f | .mtp f => some f
  | .vaddT64 _ (.reg _ f) | .vsubT64 _ (.reg _ f) | .vmulT64 _ (.reg _ f) | .vavgT64 _ (.reg _ f)
  | .vandT64 (.reg _ f) | .vorT64 (.reg _ f) | .vxorT64 (.reg _ f) | .vandnT64 (.reg _ f) | .vshlT64 (.reg _ f)
  | .vshrT64 _ (.reg _ f) | .vrotT64 (.reg _ f) | .vminT64 _ (.reg _ f) | .vmaxT64 _ (.reg _ f)
  | .vabsdT64 _ (.reg _ f) | .vaddaT64 (.reg _ f) => some f
  | .vbrevT64 _ f | .vcntT64 _ _ f | .vmad _ _ f | .vclamp _ _ f | .vshf _ f | .vbf _ _ f | .vbyte _ f | .vaddc _ f
  | .vsubb _ f | .vdiv _ f | .vmulhi _ f | .vmulw _ f => some f
  | .vcmpT64 _ _ f | .vselT64 f | .vbcastT64 f | .vextrT64 f | .vinsT64 f | .vlidT64 f | .vkvT64 f | .vpermT64 f
  | .vswzT64 _ f | .match_ f | .vred _ f | .vscan _ f => some f
  | .sldT64 _ _ f | .sstT64 _ _ f | .vldT64 _ f | .vstT64 _ f | .pldT64 _ f | .pstT64 _ f | .vpf _ f
  | .vatom _ _ _ f | .satom _ _ _ f | .xpatSet f | .xpatGet f | .xld f | .markT64 f | .arwait f | .arrive f => some f
  | .vfaddT64 _ f | .vfsubT64 _ f | .vfmulT64 _ f | .vfminT64 _ f | .vfmaxT64 _ f | .vfma _ f | .vfsgn _ f
  | .vfclass _ f | .vfcmp _ _ f | .vfdot2 _ f | .vfdiv _ f | .vfsqrt _ f | .vfrcp _ f | .vcvtT64 _ _ f | .vfrnd _ f
  | .vbxpk f | .vbxex f | .vdwadd f | .vdwmul f | .vdwnorm f | .vcred _ f | .vtbl _ f => some f
  | .tex f | .texl f | .texg f | .texf f | .tex4 f | .texq f | .mma _ _ f | .mvote f | .aclr f | .ald f | .ast f
  | .aadd f | .acvt f | .acpy f | .amax f | .abx f | .cpy _ _ f | .cpyt _ _ f | .gat _ _ f | .sct _ _ f
  | .cfill _ _ f | .rred _ _ f | .edrain f | .ecnt f => some f
  | _ => none

/-- Guard and inversion; k0 where the form has none (R254, R257). -/
def Instr.guard (i : Instr) : BitVec 3 × Bool :=
  match i with
  | .b _ neg g => (g, neg)
  | .call _ neg g => (g, neg)
  | _ => match i.t64 with
    | some f => (f.guard, f.gneg)
    | none => (0, false)

/-- How the guard and the mask decide whether an instruction executes: by lanes, once under the mask, or as a whole
(R258, R281, R313, R365). -/
inductive ICls where | lanes | wide | whole
deriving DecidableEq, Repr

/-- The class of an instruction. -/
def Instr.cls (i : Instr) : ICls :=
  match i with
  | .saddT32 .. | .saddT64 .. | .ssubT32 .. | .ssubT64 .. | .sandT32 .. | .sandT64 .. | .sorT32 .. | .sorT64 ..
  | .sxorT32 .. | .sxorT64 .. | .sshlT32 .. | .sshlT64 .. | .sshrT32 .. | .sshrT64 .. | .smulT32 .. | .smulT64 ..
  | .sminST32 .. | .sminUT32 .. | .sminT64 .. | .smaxST32 .. | .smaxUT32 .. | .smaxT64 .. | .sdiv .. | .sbf ..
  | .scnt .. | .sset .. | .saddi .. | .sandi .. | .sori .. | .sshli .. | .sshri .. | .slh .. | .spch .. | .scmp ..
  | .ssel .. | .kop .. | .kopKs .. | .kopSk .. | .msplit .. | .mjoin .. | .b .. | .call .. | .jr .. | .jrL ..
  | .ljmp .. | .lcall .. | .loop .. | .loopCnt .. | .barGang .. | .barFol .. | .ordbeg .. | .ordend .. | .ordrel ..
  | .phase .. | .clkdiv .. | .rdtick .. | .inkcal .. | .mbx .. | .ipf .. | .fsmov .. | .dqpush .. | .dqpop ..
  | .tretT32 | .tretT64 .. | .exitT32 | .exitT64 .. | .halt .. | .mfp .. | .mtp .. => .whole
  | .sldM32 .. | .sldT64 .. | .sstM32 .. | .sstT64 .. | .satom .. | .markT32 .. | .markT64 .. | .arwait .. | .arrive ..
  | .xpatSet .. | .xpatGet .. | .texq .. | .mma .. | .mvote .. | .aclr .. | .ald .. | .ast .. | .aadd .. | .acvt ..
  | .acpy .. | .amax .. | .abx .. | .cpy .. | .cpyt .. | .gat .. | .sct .. | .cfill .. | .rred .. | .edrain ..
  | .ecnt .. => .wide
  | .vpf scalar _ => if scalar then .wide else .lanes
  | _ => .lanes

/-- The thread-wide instructions (R313, R337, R379, R386, R389). -/
def Instr.threadWide (i : Instr) : Bool :=
  match i with
  | .sldM32 .. | .sldT64 .. | .sstM32 .. | .sstT64 .. | .satom .. | .markT32 .. | .markT64 .. | .arwait .. | .arrive ..
  | .texq .. | .xpatSet .. | .xpatGet .. | .cpy .. | .cpyt .. | .gat .. | .sct .. | .cfill .. | .rred .. | .edrain .. | .ecnt .. => true
  | .vpf scalar _ => scalar
  | _ => false

/-- The modes that a privileged instruction needs: true for supervisor, false for hypervisor only (R56, R306, R310).
None for an instruction that is not privileged. Supervisor mode may read seginval, as zero (log 101). -/
def Instr.priv (i : Instr) : Option Bool :=
  let reg := fun (mtp : Bool) (n : Nat) =>
    if n ≤ 8 ∨ n = 0x20 ∨ n = 0x26 ∨ (0x28 ≤ n ∧ n ≤ 0x30) then some true
    else if n = 0x22 ∨ n = 0x24 ∨ n = 0x25 then some (!mtp)
    else some false
  match i with
  | .hcallT32 _ | .hcallT64 _ | .tretT32 | .tretT64 _ | .halt _ | .ordrel _ => some true
  | .mfp f => reg false f.c.toNat
  | .mtp f => reg true f.c.toNat
  | _ => none

/-- The registers an instruction names, in the order of its fields d, a, b, c. -/
def Instr.opds (x : Px) (i : Instr) : List Opd :=
  match i with
  | .saddT32 d a rb | .ssubT32 d a rb | .sandT32 d a rb | .sorT32 d a rb | .sxorT32 d a rb | .sshlT32 d a rb
  | .sshrT32 _ d a rb | .smulT32 d a rb | .sminST32 d a rb | .sminUT32 d a rb | .smaxST32 d a rb
  | .smaxUT32 d a rb => opS (x.d d) (x.a a) (x.b rb)
  | .saddT64 f | .sandT64 f | .sorT64 f | .sxorT64 f | .sminT64 _ f | .smaxT64 _ f => opSF f
  | .ssubT64 f => opST f false
  | .sshlT64 f | .sshrT64 _ f => opST f true
  | .smulT64 (.reg f) | .smulT64 (.hi _ f) => opS f.d.toNat f.a.toNat f.b.toNat
  | .smulT64 (.imm d a _) => ws d.toNat 1 ++ rs a.toNat 1
  | .sdiv _ f => ws f.d.toNat 1 ++ rs f.a.toNat 1 ++ rs f.b.toNat 1 ++ ws f.c.toNat 1
  | .sbf k f => (if k = .insert then [⟨.s, f.d.toNat, 1, true, true, .whole⟩] else ws f.d.toNat 1) ++ rs f.a.toNat 1
  | .scnt _ f => ws f.d.toNat 1 ++ rs f.a.toNat 1
  | .sset dbl d _ _ => ws d.toNat (two dbl)
  | .saddi _ a d | .sandi _ a d | .sori _ a d | .sshli _ a d | .sshri _ _ a d => ws (x.d d) 1 ++ rs (x.a a) 1
  | .slh _ d | .spch _ d => ws (x.d d) 1
  | .scmp _ rb a p => wk p.toNat ++ rs (x.a a) 1 ++ rs (x.b rb) 1
  | .ssel _ n rb a d => ws (x.d d) 1 ++ rs (x.a a) 1 ++ rs (x.b rb) 1 ++ rkw n.toNat
  | .kop f r q p => wk p.toNat ++ rkw q.toNat ++ (if f.toNat ≤ 3 then rkw r.toNat else [])
  | .kopKs a p => wk p.toNat ++ rs (x.a a) 3
  | .kopSk q d => ws (x.d d) 3 ++ rkw q.toNat
  | .msplit _ q d => ws (x.d d) 3 ++ rs 0 3 ++ rkw q.toNat
  | .mjoin a => rs (x.a a) 3
  | .call .. => ws 31 1
  | .jr a => rs a.toNat 1
  | .jrL a d => ws d.toNat 1 ++ rs a.toNat 1
  | .ljmp k _ a _ => (match k with | .abs => [] | .reg => rs a.toNat 1 | .seg => rs a.toNat 2)
  | .lcall k d a _ => ws d.toNat 2 ++ (match k with | .abs => [] | .reg => rs a.toNat 1 | .seg => rs a.toNat 2)
  | .loop imm f => if imm then [] else rs f.a.toNat 1
  | .loopCnt f | .mbx f | .dqpop f => ws f.d.toNat 1
  | .ordbeg f | .ordend f | .ipf _ f | .dqpush f => rs f.a.toNat 1
  | .rdtick _ f => ws f.d.toNat 2
  | .inkcal f => ws f.d.toNat 1 ++ rs f.a.toNat 1
  | .fsmov k f => if k = .rd then ws f.d.toNat 1 else rs f.a.toNat 1
  | .mfp f => ws f.d.toNat (two (pregWide f.c.toNat))
  | .mtp f => rs f.a.toNat (two (pregWide f.c.toNat))
  -- vector integer
  | .vaddT32 bs wd _ rb a d | .vsubT32 bs wd _ rb a d | .vmulT32 bs wd _ rb a d | .vavgT32 bs wd _ rb a d
  | .vminT32 bs wd _ rb a d | .vmaxT32 bs wd _ rb a d | .vabsdT32 bs wd _ rb a d => opV x bs (wd == 3) rb a d
  | .vandT32 bs wd rb a d | .vorT32 bs wd rb a d | .vxorT32 bs wd rb a d | .vandnT32 bs wd rb a d
  | .vshlT32 bs wd rb a d | .vshrUT32 bs wd rb a d | .vshrST32 bs wd rb a d | .vrotT32 bs wd rb a d =>
    opV x bs (wd == 3) rb a d
  | .vaddI32 _ a d | .vmulI32 _ a d | .vandI32 _ a d | .vorI32 _ a d | .vxorI32 _ a d | .vshlI32 _ a d
  | .vshrUI32 _ a d | .vshrSI32 _ a d | .vbrevT32 a d | .vcntPopT32 a d | .vcntClzT32 a d | .vcntCtzT32 a d =>
    wv (x.d d) 1 ++ rv (x.a a) 1
  | .vaddT64 _ f | .vsubT64 _ f | .vmulT64 _ f | .vavgT64 _ f | .vandT64 f | .vorT64 f | .vxorT64 f | .vandnT64 f
  | .vshlT64 f | .vshrT64 _ f | .vrotT64 f | .vminT64 _ f | .vmaxT64 _ f | .vabsdT64 _ f => opVF f
  | .vaddaT32 bs rb a d => wv (x.d d) 2 ++ rv (x.a a) 2 ++ bsrc bs (x.b rb) 1
  | .vaddaT64 (.reg _ f) => wv f.d.toNat 2 ++ rv f.a.toNat 2 ++ bsrc f.bs f.b.toNat 1
  | .vaddaT64 (.imm d a _) => wv d.toNat 2 ++ rv a.toNat 2
  | .vbrevT64 _ f | .vcntT64 _ _ f => wv f.d.toNat 1 ++ rv f.a.toNat 1
  | .vmad _ _ f | .vclamp _ _ f | .vshf _ f => opVT f false ++ rv f.c.toNat 1
  | .vbyte _ f => wv f.d.toNat 1 ++ rv f.a.toNat 1 ++ rv f.b.toNat 1 ++ rv f.c.toNat 1
  | .vbf k _ f => (if k = .insert then [⟨.v, f.d.toNat, 1, true, true, .lane⟩] else wv f.d.toNat 1) ++ rv f.a.toNat 1
  | .vaddc _ f | .vsubb _ f => opVT f false ++ [⟨.k, f.c.toNat, 1, true, true, .lane⟩]
  | .vset dbl d _ _ => wv d.toNat (two dbl)
  | .vdiv _ f => wv f.d.toNat 1 ++ rv f.a.toNat 1 ++ bsrc f.bs f.b.toNat 1 ++ wv f.c.toNat 1
  | .vmulhi _ f => opVT f false
  | .vmulw _ f => wv f.d.toNat 2 ++ rv f.a.toNat 1 ++ bsrc f.bs f.b.toNat 1
  -- compares, selects, moves
  | .vcmpT32 bs wd _ rb a p => wk p.toNat ++ rv (x.a a) (two (wd == 3)) ++ bsrc bs (x.b rb) (two (wd == 3))
  | .vcmpT64 wd _ f => wk f.d.toNat ++ rv f.a.toNat (two (wd == 3)) ++ bsrc f.bs f.b.toNat (two (wd == 3)) ++
      (if f.m 30 29 = 0 then [] else rk f.c.toNat)
  | .vselT32 _ n rb a d => wv (x.d d) 1 ++ rv (x.a a) 1 ++ rv (x.b rb) 1 ++ rk n.toNat
  | .vselT64 f => opVT f f.dbl ++ rk f.c.toNat
  | .vbcastT32 a d => wv (x.d d) 1 ++ rs (x.a a) 1
  | .vbcastT64 f => wv f.d.toNat (two f.dbl) ++ rs f.a.toNat (two f.dbl)
  | .vextrT32 _ a d => ws (x.d d) 1 ++ rvo (x.a a) 1
  | .vextrT64 f => ws f.d.toNat (two f.dbl) ++ rvo f.a.toNat (two f.dbl)
  | .vinsT32 n a d => wv (x.d d) 1 ++ rs1 (x.a a) 1 n.toNat
  | .vinsT64 f => wv f.d.toNat (two f.dbl) ++ rs1 f.a.toNat (two f.dbl) f.c.toNat
  | .vlidT32 d => wv (x.d d) 1
  | .vlidT64 f => wv f.d.toNat 1
  | .vkvT32 n d => wv (x.d d) 1 ++ rk n.toNat
  | .vkvT64 f => wv f.d.toNat 1 ++ rk f.c.toNat
  | .vpermT32 rb a d => wv (x.d d) 1 ++ rvo (x.a a) 1 ++ rv (x.b rb) 1
  | .vswzUpT32 _ a d | .vswzDnT32 _ a d | .vswzXorT32 _ a d | .vswzRotT32 _ a d => wv (x.d d) 1 ++ rvo (x.a a) 1
  | .vpermT64 f => wv f.d.toNat (two f.dbl) ++ rvo f.a.toNat (two f.dbl) ++ rv f.b.toNat 1
  | .vswzT64 _ f => wv f.d.toNat (two f.dbl) ++ rvo f.a.toNat (two f.dbl)
  | .match_ f => wv f.d.toNat 3 ++ rvo f.a.toNat 1 ++ wk f.c.toNat
  | .vred _ f => ws f.d.toNat (two f.dbl) ++ rvo f.a.toNat (two f.dbl)
  | .vscan _ f => wv f.d.toNat 1 ++ rvo f.a.toNat 1
  -- memory
  | .sldM32 sz _ a d => ws (x.d d) (szRegs sz) ++ rs (x.a a) 2
  | .sldT64 scr sz f => ws f.d.toNat (szRegs sz) ++ rs f.a.toNat (two (!scr))
  | .sstM32 sz _ a d => rs (x.d d) (szRegs sz) ++ rs (x.a a) 2
  | .sstT64 scr sz f => rs f.d.toNat (szRegs sz) ++ rs f.a.toNat (two (!scr))
  | .vldM32 sz _ a d => wv (x.d d) (szRegs sz) ++ rv (x.a a) 2
  | .vldT64 sz f => wv f.d.toNat (szRegs sz) ++ rv f.a.toNat 2
  | .vstM32 sz _ a d => rv (x.d d) (szRegs sz) ++ rv (x.a a) 2
  | .vstT64 sz f => rv f.d.toNat (szRegs sz) ++ rv f.a.toNat 2
  | .pldM32 sz _ a d => wv (x.d d) (szRegs sz) ++ rv (x.a a) 1
  | .pldT64 sz f => wv f.d.toNat (szRegs sz) ++ rv f.a.toNat 1
  | .pstM32 sz _ a d => rv (x.d d) (szRegs sz) ++ rv (x.a a) 1
  | .pstT64 sz f => rv f.d.toNat (szRegs sz) ++ rv f.a.toNat 1
  | .vpf scalar f => if scalar then rs f.a.toNat 2 else rv f.a.toNat 2
  | .vatom scr wide op f => (if f.mb 26 then [] else wv f.d.toNat (two wide)) ++ rv f.a.toNat (two (!scr)) ++
      rv f.b.toNat (two wide) ++ (if op = .cas then rv f.c.toNat (two wide) else [])
  | .satom scr wide op f => (if f.mb 26 then [] else ws f.d.toNat (two wide)) ++ rs f.a.toNat (two (!scr)) ++
      rs f.b.toNat (two wide) ++ (if op = .cas then rs f.c.toNat (two wide) else [])
  | .xpatSet f => rs f.a.toNat 9
  | .xpatGet f => ws f.d.toNat 9
  | .xld f => wv f.d.toNat 1 ++ rs f.a.toNat 2 ++ rs f.b.toNat 1
  | .arwait f => (if f.mb 26 then ws f.d.toNat 1 else []) ++ rs f.a.toNat 1 ++ rs f.b.toNat 1
  | .arrive f => rs f.a.toNat 1 ++ rs f.b.toNat 1
  -- floating-point
  | .vfaddF32T32 bs rb a d | .vfsubF32T32 bs rb a d | .vfmulF32T32 bs rb a d => opFP x false bs (x.b rb) (x.a a) (x.d d)
  | .vfaddPackedT32 bs _ rb a d | .vfsubPackedT32 bs _ rb a d | .vfmulPackedT32 bs _ rb a d
  | .vfminPackedT32 bs _ rb a d | .vfmaxPackedT32 bs _ rb a d => opV x bs false rb a d
  | .vfminF32T32 bs rb a d | .vfmaxF32T32 bs rb a d => opV x bs false rb a d
  | .vfaddT64 fmt f | .vfsubT64 fmt f | .vfmulT64 fmt f =>
    if fmt = .f32 ∨ fmt = .f64 then opFP x (fmt == .f64) f.bs f.b.toNat f.a.toNat f.d.toNat else opVT f false
  | .vfminT64 fmt f | .vfmaxT64 fmt f | .vfdiv fmt f => opVT f (fmt == .f64)
  | .vfsgn fmt f => if f.m 30 29 = 3 then wv f.d.toNat (fmtRegs fmt) ++ rv f.a.toNat (fmtRegs fmt) else opVT f (fmt == .f64)
  | .vfma fmt f => opVT f (fmt == .f64) ++ rv f.c.toNat (fmtRegs fmt)
  | .vfclass fmt f => wv f.d.toNat 1 ++ rv f.a.toNat (fmtRegs fmt)
  | .vfcmp f64 _ f => wk f.d.toNat ++ rv f.a.toNat (two f64) ++ bsrc f.bs f.b.toNat (two f64) ++
      (if f.m 30 29 = 0 then [] else rk f.c.toNat)
  | .vfdot2 _ f => opVT f false ++ rv f.c.toNat 1
  | .vfsqrt fmt f | .vfrcp fmt f | .vfrnd fmt f => wv f.d.toNat (fmtRegs fmt) ++ rv f.a.toNat (fmtRegs fmt)
  | .vcvtT32 _ src dst a d =>
    [⟨.v, x.d d, two (cvtWide dst), (cvtElems dst).isSome, true, .lane⟩] ++ rv (x.a a) (two (cvtWide src))
  | .vcvtT64 src dst f =>
    [⟨.v, f.d.toNat, two (cvtWide dst), (cvtElems dst).isSome, true, .lane⟩] ++ rv f.a.toNat (two (cvtWide src))
  | .vbxpk f => wv f.d.toNat 1 ++ rvo f.a.toNat 1
  | .vbxex f => wv f.d.toNat 1 ++ rvw f.a.toNat 1
  | .vdwadd f | .vdwmul f => wv f.d.toNat 2 ++ rv f.a.toNat 2 ++ bsrc f.bs f.b.toNat (two f.dbl)
  | .vdwnorm f => wv f.d.toNat 2 ++ rv f.a.toNat 2
  | .vcred k f => ws f.d.toNat (if k = .f64 then 4 else 2) ++ rvo f.a.toNat (two (k != .f32))
  | .vtbl _ f => wv f.d.toNat 1 ++ rv f.a.toNat 1 ++ rs f.b.toNat 4
  -- texture, matrix, engines
  | .tex f => wv f.d.toNat 5 ++ rvo f.a.toNat 2 ++ rs f.b.toNat 8
  | .texl f | .texf f | .tex4 f => wv f.d.toNat 5 ++ rv f.a.toNat 3 ++ rs f.b.toNat 8
  | .texg f => wv f.d.toNat 5 ++ rv f.a.toNat 6 ++ rs f.b.toNat 8
  | .texq f => ws f.d.toNat 2 ++ rs f.a.toNat 1 ++ rs f.b.toNat 8
  | .mma as _ f => rs f.d.toNat 1 ++ (if as then rs f.a.toNat 4 else []) ++ rs f.b.toNat 4 ++ opVote f
  | .mvote f => wk f.d.toNat ++ opVote f
  | .aclr f => rs f.a.toNat 1
  | .ald f => wv f.d.toNat 3 ++ rs f.a.toNat 1
  | .ast f | .aadd f => rs f.a.toNat 1 ++ rv f.b.toNat 2 ++ rvo (f.b.toNat + 2) 1
  | .acvt f => wv f.d.toNat 2 ++ rs f.a.toNat 1
  | .acpy f => rs f.d.toNat 1 ++ rs f.a.toNat 1
  | .amax f | .abx f => wv f.d.toNat 1 ++ rs f.a.toNat 1
  | .cpy _ _ f | .cpyt _ _ f | .cfill _ _ f | .rred _ _ f => opEng false f
  | .gat _ _ f | .sct _ _ f => opEng true f
  | .ecnt f => ws f.d.toNat 1
  | _ => []

end Sys2Proof
end

