-- ==== Sys2Proof/Machine/Flags.lean ====
section
/-! DEFINITION. The sticky flags (09 R241, R242) and the flags of the integer functions (R285, R286, R316, R320). -/
namespace Sys2Proof.Machine
open Sys2Proof

/-- A lane's result with its flags. -/
structure LRes where
  val : DWord
  fl : Flags
deriving DecidableEq, Repr

/-- Raise flags in fstat (R242). -/
def addFlags (th : Thread) (fl : Flags) : Thread := { th with fstat := th.fstat ||| fl.setWidth 32 }

/-- The enabled flags; none in the nib (R283). -/
def enabled (th : Thread) : Flags := if th.nib then 0 else th.fstat.extractLsb' 16 10

/-- The lanes of a list that raised an enabled flag (R242). -/
def trapLanes (en : Flags) (rs : List (Nat × Flags)) : Mask :=
  rs.foldl (fun m r => if r.2 &&& en = 0 then m else m ||| (1#96 <<< r.1)) 0

/-- All flags of a list of lanes. -/
def allFlags (rs : List (Nat × Flags)) : Flags := rs.foldl (fun a r => a ||| r.2) 0

/-- Clamp an integer to w bits when saturation is requested, else wrap (R236, R285, R316): value and sat flag. -/
def satInt (sat signed : Bool) (w : Nat) (r : Int) : Nat × Flags :=
  let lo := intMin signed w
  let hi := intMax signed w
  if sat ∧ r < lo then (wrapN w lo, flSat)
  else if sat ∧ r > hi then (wrapN w hi, flSat)
  else (wrapN w r, 0)

/-- Division (R286, R320): quotient, remainder and flags of 32-bit operands. -/
def divide (signed : Bool) (a b : Word) : Word × Word × Flags :=
  if b = 0 then (BitVec.allOnes 32, a, flIdz)
  else if signed then
    if a = 0x8000_0000#32 ∧ b = BitVec.allOnes 32 then (a, 0, flIov)
    else (w32 (Int.tdiv a.toInt b.toInt), w32 (Int.tmod a.toInt b.toInt), 0)
  else (BitVec.ofNat 32 (a.toNat / b.toNat), BitVec.ofNat 32 (a.toNat % b.toNat), 0)

end Sys2Proof.Machine
end

