-- ==== Sys2Proof/Machine/FormatWord.lean ====
section
/-! DEFINITION. The format word of the octet operation: the vote, its fields, and what they fix of the operands (R247, R248, R368,
R369, R372). -/
namespace Sys2Proof.Machine
open Sys2Proof

/-- The word that a lane presents. -/
def presented (th : Thread) (f : T64) (L : Nat) : Word := if f.bs then th.lane f.c.toNat L else th.sv f.c.toNat

/-- The word of the lowest-numbered active lane. -/
def voteRef (th : Thread) (m : Mask) (f : T64) : Word :=
  match (lanesOf m).head? with
  | some L => presented th f L
  | none => 0

/-- The active lanes that present another word. -/
def dissent (th : Thread) (m : Mask) (f : T64) : Mask :=
  maskOf (fun L => m.getLsbD L && presented th f L != voteRef th m f)

/-- Fields of a format word. -/
def fmtA (w : Nat) : Nat := fieldN w 0 4
def fmtB (w : Nat) : Nat := fieldN w 4 4
def fmtAcc (w : Nat) : Nat := fieldN w 8 4
def fmtSpm (w : Nat) : Nat := fieldN w 12 2
def fmtSpo (w : Nat) : Bool := bitN w 14

/-- A valid format word (R248). -/
def fmtValid (w : Nat) : Bool :=
  fieldN w 15 17 == 0 && fmtSpm w != 3 && (fmtSpm w != 0 || !fmtSpo w) &&
  ((decide (fmtA w ≤ 4) && decide (fmtB w ≤ 4) && fmtAcc w == 0) ||
   ((fmtA w == 5 || fmtA w == 6) && (fmtB w == 5 || fmtB w == 6) && fmtAcc w == 1))

/-- Bytes of 64 elements by format (R368). -/
def fmtFig (f : Nat) : Nat :=
  match f with
  | 0 => 128
  | 1 => 128
  | 2 => 72
  | 3 => 48
  | 4 => 32
  | _ => 64

/-- Logical K of one step (R368). -/
def logicalK (spm : Nat) : Nat :=
  match spm with
  | 0 => 64
  | 1 => 96
  | _ => 192

/-- Slab lengths of A and of B (R368). -/
def slabA (w : Nat) : Nat :=
  if fmtSpm w ≠ 0 ∧ !fmtSpo w then fmtFig (fmtA w) + 48 else logicalK (fmtSpm w) / 32 * fmtFig (fmtA w) / 2
def slabB (w : Nat) : Nat :=
  if fmtSpm w ≠ 0 ∧ fmtSpo w then fmtFig (fmtB w) + 48 else logicalK (fmtSpm w) / 32 * fmtFig (fmtB w) / 2

/-- Registers of the A stream (R369). -/
def aRun (ls : Nat) : Nat := (8 * ls + 383) / 384

end Sys2Proof.Machine
end

