-- ==== Sys2Proof/Machine/Issue.lean ====
section
/-! DEFINITION. How an instruction issues: the checks of R267 in their order, the waits for operands (R200), the guard
(R258), and what becomes of the unit. Every instruction's meaning goes through `instr`. -/
namespace Sys2Proof.Machine
open Sys2Proof

/-- What an instruction does with its unit. -/
inductive Res where
  /-- its effect is done and the unit retires -/
  | retire (s : State)
  /-- its effect is done and the transfer is taken: handle, offset, whether loop levels pop (R297) -/
  | jump (s : State) (h : BitVec 16) (o : Nat) (pop : Bool)
  /-- a precise trap at the unit; nothing has changed -/
  | trap (cause : Nat) (set : Mask) (val : DWord) (syn : Word)
  /-- its effect is done, the unit is complete and a trap follows it (R242, R252) -/
  | after (s : State) (cause : Nat) (set : Mask) (val : DWord)
  /-- the unit stays: it waits, and is not fetched again (R406) -/
  | stay (s : State)
  /-- the unit stays until a full resource has room again; meanwhile it takes no trap (R406) -/
  | full (s : State) (r : Room)
  /-- the unit is over, and the state is as given -/
  | closed (s : State)
deriving DecidableEq, Repr

/-- The state in which a precise trap is entered: a domain-disabled one for a poisoned descriptor has logged it (R50, R131). -/
def trapBase (s : State) (th : Thread) (cause : Nat) : State :=
  if cause = 0x14 then logDesc s (dieOf th.quill) th.vmid th.asid else s

/-- Carry out what an instruction does with its unit. -/
def settle (s : State) (t : Nat) (th : Thread) (r : Res) : Out :=
  match r with
  | .retire s' => .next (s'.modThread t retire)
  | .jump s' h o pop => .next (s'.modThread t (fun th' => transfer s' th' h o pop))
  | .trap c set val syn => .next (trapThread (trapBase s th c) t th { cause := c, orig := 0, set := set, pc := th.pcO, val := val, syn := syn })
  | .after s' c set val => .next (match s'.thread t with
      | some th' =>
        let th2 := retire th'
        trapThread (s'.setThread t th2) t th2 { cause := c, orig := 0, set := set, pc := th2.pcO, val := val, syn := 0 }
      | none => s')
  | .stay s' => .next (s'.modThread t (fun x => { x with latch := { x.latch with kept := true } }))
  | .full s' r => .next (s'.modThread t (fun x => { x with latch := { x.latch with kept := true, full := some r } }))
  | .closed s' => .next s'

/-- The effect changes only the executing thread. -/
def Res.done (s : State) (th : Thread) : Res := .retire (s.setThread s.cur th)

/-- The words of an instruction as tfval (R396). -/
def latchWords (l : Latch) : DWord := join64 l.w1 l.w0

/-- The word of the unit's pairx prefix. -/
def pairxWord (x : Px) : Word := BitVec.ofNat 32 (x.pairMode * 2 ^ 5 + 0xB)

/-- The word of the unit's xreg prefix. -/
def xregWord (x : Px) : Word :=
  BitVec.ofNat 32 (x.bx * 2 ^ 11 + x.ax * 2 ^ 8 + x.dx * 2 ^ 5 + 3)

/-- The prefix word that makes a legal instruction illegal: xreg, or pairx; of the two, where each does, xreg (R261, R262, R264, R359,
log 90). -/
def blamedPrefix (i : Instr) (x : Px) : Option Word :=
  if i.wf x then none
  else if i.wf { x with x := none } then some (xregWord x)
  else if i.wf { x with p := none } then some (pairxWord x)
  else if i.wf { x with x := none, p := none } then some (xregWord x)
  else none

/-- tfval of an illegal instruction: the prefix word where a prefix makes it illegal, else the instruction (R261). -/
def illegalVal (i : Instr) (l : Latch) : DWord :=
  match blamedPrefix i l.px with
  | some w => w.setWidth 64
  | none => latchWords l

/-- Legal in this thread (R205, R271, R282). -/
def legalIn (i : Instr) (th : Thread) : Bool :=
  i.wf th.latch.px && (if th.nib then !i.nibIllegal else match i with | .dqpush _ => false | _ => true)

/-- The thread stands at a hypervisor entry point outside a segment that may hold hypervisor code, and nothing has executed there yet
(R56). -/
def entryShut (th : Thread) : Bool := (th.atVec == 2 || th.atVec == 3) && (match th.seg with | some e => !e.hyp | none => true)

/-- Privileged, and refused in this mode or segment (R56). -/
def privFails (i : Instr) (th : Thread) : Bool :=
  match i.priv with
  | none => false
  | some sup => (if sup then th.mode == .user else th.mode != .hyp) ||
      (match th.seg with | some e => !e.sys | none => true)

/-- Whether the instruction executes under its guard and mask (R258, R281, R313). -/
def executes (i : Instr) (th : Thread) : Bool :=
  let g := i.guard
  if th.nib then (th.gbits g).getLsbD 0
  else match i.cls with
    | .whole => (g.1 == 0 && !g.2) || th.active g != 0
    | _ => th.active g != 0

/-- The unit at such an entry point raises the privileged-instruction trap: one that acts on lanes only where a lane is active (R202,
R397, log 12). -/
def entryFails (i : Instr) (th : Thread) : Bool := entryShut th && (i.cls == .whole || executes i th)

/-- A unit that does not execute only retires; the entry point that a hypervisor may not have stays in force. -/
def passOver (th : Thread) : Thread := { retire th with atVec := if entryShut th then 3 else 0 }

/-- Registers of an operand beyond the allocation: file code and first offending number (R38). -/
def outOfRange (th : Thread) (o : Opd) : Option (Nat × Nat) :=
  match o.f with
  | .v => if o.n + o.len ≤ th.v.length then none else some (0, max o.n th.v.length)
  | .s => if o.n + o.len ≤ th.s.length then none else some (1, max o.n th.s.length)
  | .k => none

/-- The register that the register-range trap names: of those beyond the allocation the lowest vector register, else the lowest
scalar one (log 41). -/
def rangeTrap (th : Thread) (os : List Opd) : Option (Nat × Nat) :=
  let bad := os.filterMap (outOfRange th)
  let low := fun (f : Nat) => ((bad.filter (fun p => p.1 == f)).map Prod.snd).min?
  match low 0 with
  | some n => some (0, n)
  | none => (low 1).map (fun n => (1, n))

/-- The lowest-numbered tagged register read (R405). -/
def taggedRead (th : Thread) (os : List Opd) : Option Nat :=
  firstBelow 256 (fun n => (th.vreg n).tag &&
    os.any (fun o => o.f == .v && o.rd && decide (o.n ≤ n) && decide (n < o.n + o.len)))

/-- A scalar number with the bank it names: 256 for the supervisor's, 512 for the hypervisor's (R403). -/
def Thread.bankNum (th : Thread) (n : Nat) : Nat := if th.banked n then n + 256 * th.mode.code else n

/-- Registers that an operation will still write: file scalar?, first (a bank number), number. -/
def finDest (f : Fin) : Option (Bool × Nat × Nat) :=
  match f with
  | .vload sz d => some (false, d, szRegs (BitVec.ofNat 3 sz))
  | .sload sz d => some (true, d, szRegs (BitVec.ofNat 3 sz))
  | .xload d _ => some (false, d, 1)
  | .table _ d _ _ _ _ _ _ => some (false, d, 1)
  | .texture _ _ d _ _ => some (false, d, 5)
  | .vatom d w => some (false, d, two w)
  | .satom d w => some (true, d, two w)
  | .none => none

/-- Registers that a matrix entry will still write (R378). -/
def mentDest (m : MEnt) : Option (Nat × Nat) :=
  match m.fn with
  | 1 => some (m.d, 3)
  | 4 => some (m.d, 2)
  | 6 => some (m.d, 1)
  | 7 => some (m.d, 1)
  | _ => none

/-- Two runs of registers meet. -/
def meets (a la b lb : Nat) : Bool := decide (a < b + lb) && decide (b < a + la)

/-- The instruction names a register that an earlier operation has still to write (R200, R378). -/
def opPending (s : State) (t : Nat) (th : Thread) (os : List Opd) : Bool :=
  os.any (fun o =>
    th.mq.any (fun m => !m.dlv && (match finDest m.fin with
      | some (sc, d, n) =>
        if sc then o.f == .s && (List.range o.len).any (fun i => decide (d ≤ th.bankNum (o.n + i)) && decide (th.bankNum (o.n + i) < d + n))
        else o.f == .v && meets o.n o.len d n
      | none => false)) ||
    (o.f == .v && (s.quill th.quill).mx.any (fun m => m.tid == t && m.owed.isNone && (match mentDest m with
      | some (d, n) => meets o.n o.len d n
      | none => false))))

/-- An earlier operation of a warp has still to write a register of its activity mask (R200, R202). -/
def maskPending (th : Thread) : Bool :=
  !th.nib && th.mq.any (fun m => !m.dlv && (match finDest m.fin with
    | some (true, d, _) => decide (d < 3)
    | _ => false))

/-- Poisoned thirds of a predicate as lanes. -/
def kLanes (p : BitVec 3) : Mask := maskOf (fun L => p.getLsbD (L / 32))

/-- Lanes of `m` whose own computation reads a poisoned word through an operand (R117). -/
def opPoison (th : Thread) (m : Mask) (o : Opd) : Mask :=
  if !o.rd then 0
  else (List.range o.len).foldl (fun a i =>
    let n := o.n + i
    a ||| (match o.f, o.how with
      | _, .own => 0
      | .v, .lane => (th.vreg n).poison &&& m
      | .v, .whole => if (th.vreg n).poison = 0 then 0 else m
      | .v, .one L => (th.vreg n).poison &&& m &&& (1#96 <<< L)
      | .k, .one L => kLanes (th.kpoison n) &&& m &&& (1#96 <<< L)
      | .s, .one L => if (th.sreg n).poison then m &&& (1#96 <<< L) else 0
      | .s, _ => if (th.sreg n).poison then m else 0
      | .k, .lane => kLanes (th.kpoison n) &&& m
      | .k, .whole => if th.kpoison n = 0 then 0 else m)) 0

/-- Whether a register read through an operand counts for tfval: some word read is poisoned. -/
def regPoisoned (th : Thread) (m : Mask) (o : Opd) (n : Nat) : Bool :=
  match o.f, o.how with
  | _, .own => false
  | .v, .lane => (th.vreg n).poison &&& m != 0
  | .v, .whole => (th.vreg n).poison != 0
  | .v, .one L => (th.vreg n).poison &&& m &&& (1#96 <<< L) != 0
  | .k, .one L => kLanes (th.kpoison n) &&& m &&& (1#96 <<< L) != 0
  | .s, .one L => (th.sreg n).poison && m.getLsbD L
  | .s, _ => (th.sreg n).poison
  | .k, .lane => kLanes (th.kpoison n) &&& m != 0
  | .k, .whole => th.kpoison n != 0

/-- The register run of an mma that reads its A operand from registers: its length is known, and it is an operand like any other,
once the format word passes its checks (R369, R371). -/
def aOpds (i : Instr) (th : Thread) : List Opd :=
  match i with
  | .mma false _ f =>
    let m := th.active i.guard
    let w := voteRef th m f
    let c := f.c.toNat
    let unread := if f.bs then (th.vreg c).poison &&& m != 0 || (th.uck && th.mode == .user && (th.vreg c).tag) else (th.sreg c).poison
    let o : Opd := ⟨.v, f.a.toNat, aRun (slabA w.toNat), true, false, .whole⟩
    if unread ∨ dissent th m f ≠ 0 ∨ !fmtValid w.toNat ∨ (outOfRange th o).isSome then [] else [o]
  | _ => []

/-- The registers that an instruction names, with those that its format word names. -/
def issueOpds (i : Instr) (th : Thread) : List Opd := i.opds th.latch.px ++ aOpds i th

/-- The instruction reads the activity mask in s0-s2: it acts on lanes or under the mask, has a guard, or is ssel (R202, R258, R289). -/
def readsMask (i : Instr) (th : Thread) : Bool :=
  !th.nib && (i.cls != .whole || i.guard.1 != 0 || (match i with | .ssel .. => true | _ => false))

/-- The operands that an instruction reads, as R117 and R366 count them: with the guard and the mask registers. An ipf consumes none of
its operands (R300). A poisoned mask register counts for every active lane, not for those alone whose bits it holds (log 82). -/
def readOpds (i : Instr) (th : Thread) : List Opd :=
  match i with
  | .ipf .. => []
  | _ => issueOpds i th ++
    (if i.guard.1 = 0 then [] else if i.cls = .lanes then Opd.rk i.guard.1.toNat else Opd.rkw i.guard.1.toNat) ++
    (if readsMask i th then Opd.rs 0 3 else [])

/-- The file code of tfval (R396, R117). -/
def RFile.code : RFile → Nat
  | .v => 0
  | .s => 1
  | .k => 2

/-- The source lane of vswz: up, dn, xor, rot; out of range the lane itself (R323). -/
def swzLane (k n L : Nat) : Nat :=
  match k with
  | 0 => if n ≤ L then L - n else L
  | 1 => if L + n < 96 then L + n else L
  | 2 => if L ^^^ n < 96 then L ^^^ n else L
  | _ => (L + n) % 96

/-- Magnitude width of a BX format code (R243, R356). -/
def bxP (f : Nat) : Nat := if f = 0 then 7 else if f = 1 then 4 else 2

/-- Lanes whose values the words of lane L of a packed stream come from (R356). -/
def bxGroup (p L : Nat) : List Nat :=
  (((List.range 4).map (fun i => (4 * L + i) / bxBytes p)).eraseDups.filter (fun j => decide (j < 6))).flatMap
    (fun j => (List.range 16).map (fun i => 16 * j + i))

/-- Registers read by rules of the instruction, with the lanes that lane L reads of each (R12, R117); reductions and match read the
active lanes, a scan those up to L (log 55); each lane of a format vote reads its own word and that of the lowest active lane
(R372). -/
def ownReads (i : Instr) (th : Thread) (m : Mask) : List (Nat × (Nat → List Nat)) :=
  let x := th.latch.px
  let two' := fun (dbl : Bool) (n : Nat) (f : Nat → List Nat) => if dbl then [(n, f), (n + 1, f)] else [(n, f)]
  let all := fun (_ : Nat) => (List.range 96).filter (fun l => m.getLsbD l)
  match i with
  | .match_ f => [(f.a.toNat, all)]
  | .vred _ f => two' f.dbl f.a.toNat all
  | .vcred k f => two' (k != .f32) f.a.toNat all
  | .vscan _ f => [(f.a.toNat, fun L => (List.range (L + 1)).filter (fun l => m.getLsbD l))]
  | .vextrT32 n a _ => [(x.a a, fun _ => [n.toNat])]
  | .vextrT64 f => two' f.dbl f.a.toNat (fun _ => [f.c.toNat])
  | .vpermT32 rb a _ => [(x.a a, fun L => [(th.lane (x.b rb) L).toNat])]
  | .vpermT64 f => two' f.dbl f.a.toNat (fun L => [(th.lane f.b.toNat L).toNat])
  | .vswzUpT32 n a _ => [(x.a a, fun L => [swzLane 0 n.toNat L])]
  | .vswzDnT32 n a _ => [(x.a a, fun L => [swzLane 1 n.toNat L])]
  | .vswzXorT32 n a _ => [(x.a a, fun L => [swzLane 2 n.toNat L])]
  | .vswzRotT32 n a _ => [(x.a a, fun L => [swzLane 3 n.toNat L])]
  | .vswzT64 k f => two' f.dbl f.a.toNat (fun L => [swzLane k.toNat f.c.toNat L])
  | .ast f | .aadd f => [(f.b.toNat + 2, fun L => if L < 64 then [L] else [])]
  | .mvote f | .mma _ _ f =>
    if f.bs then [(f.c.toNat, fun L => L :: ((List.range 96).find? (fun l => m.getLsbD l)).toList)] else []
  | .vbxpk f => [(f.a.toNat, fun L => (bxGroup (bxP (f.m 31 30)) L).filter (fun l => m.getLsbD l))]
  | .tex f => [(f.a.toNat, fun L => [L / 4 * 4, L / 4 * 4 + 1, L / 4 * 4 + 2, L]),
               (f.a.toNat + 1, fun L => [L / 4 * 4, L / 4 * 4 + 1, L / 4 * 4 + 2, L])]
  | _ => []

/-- Lanes of `m` that read a poisoned word of another lane, by register. -/
def ownPoison (i : Instr) (th : Thread) (m : Mask) : List (Nat × Mask) :=
  (ownReads i th m).map (fun r =>
    let p := (th.vreg r.1).poison
    (r.1, if p = 0 then 0 else m &&& maskOf (fun L => (r.2 L).any (fun l => p.getLsbD l))))

/-- The lanes of the register-poison trap, with the lowest-numbered poisoned register read and its file (R117): of registers of one
number in several files the vector register, then the scalar one (log 82). Where the poisoned word is a predicate that leaves no lane
active, no lane traps (log 65). -/
def poisonTrap (i : Instr) (th : Thread) (m act : Mask) : Option (Mask × Nat × Nat) :=
  let os := readOpds i th
  let ow := ownPoison i th m
  let hit := fun (f : RFile) (n : Nat) =>
    os.any (fun o => o.f == f && o.rd && decide (o.n ≤ n) && decide (n < o.n + o.len) && regPoisoned th m o n) ||
    (f == .v && ow.any (fun w => w.1 == n && w.2 != 0))
  match firstBelow 256 (fun n => hit .v n || hit .s n || hit .k n) with
  | none => none
  | some n =>
    let set := os.foldl (fun a o => a ||| opPoison th m o) 0 ||| ow.foldl (fun a w => a ||| w.2) 0
    some (set &&& act, n, if hit .v n then 0 else if hit .s n then 1 else 2)

/-- Whether the instruction awaits a late flag (R366): also as a reader of the activity mask (R202, R334). -/
def awaits (i : Instr) (th : Thread) (l : LateFlag) : Bool :=
  let all := match i with
    | .fsmov .. | .exitT32 | .exitT64 _ => true
    | _ => false
  let mx := match i with
    | .ald _ | .acvt _ | .abx _ | .amax _ => true
    | _ => false
  all || (l.matrix && mx) || (!l.matrix && (readOpds i th).any (fun o =>
    o.rd && (if l.scal then o.f == .s && (List.range o.len).any (fun j => meets (th.bankNum (o.n + j)) 1 l.d l.len)
      else o.f == .v && meets o.n o.len l.d l.len)))

/-- Late flags that the instruction awaits. -/
def lateAwaited (i : Instr) (th : Thread) : Flags :=
  (th.late.filter (awaits i th)).foldl (fun a l => a ||| l.fl) 0

/-- Entries and accesses that the instruction waits for before it may see the flags (R366). -/
def lateWaits (s : State) (i : Instr) (t : Nat) (th : Thread) : Bool :=
  let mxBusy := (s.quill th.quill).mx.any (fun m => m.tid == t && m.owed.isNone)
  let acBusy := th.mq.any (fun m => match m.fin, m.kind with
    | .table .., _ => !m.dlv
    | _, .atomic .fadd _ => true
    | _, _ => false)
  match i with
  | .fsmov .. | .exitT32 | .exitT64 _ => mxBusy || acBusy
  | .ald _ | .acvt _ | .abx _ | .amax _ => mxBusy
  | _ => false

/-- The thread as the trap of its late flags leaves it: those that the instruction awaits are no longer pending (R366). -/
def takeLate (i : Instr) (th : Thread) : Thread :=
  { th with late := th.late.filter (fun l => !awaits i th l) }

/-- The trapping set of a register-range trap: of a thread-wide instruction the effective mask (R313), of another the activity mask
(R396, log 58); the same of the trap that late flags raise (R366, log 97). -/
def rangeSet (i : Instr) (th : Thread) : Mask := if i.threadWide then th.active i.guard else th.mask

/-- The arithmetic trap of the late flags that an instruction awaits, in its place (R366). -/
def lateTrap (i : Instr) (s : State) (th : Thread) : State :=
  trapThread s s.cur (takeLate i th)
    { cause := 0x30, orig := 0, set := rangeSet i th, pc := th.pcO, val := (lateAwaited i th).setWidth 64, syn := 0 }

/-- The register that decides whether an instruction is legal: the length of a cpyt (R381, R382). -/
def legalReg (i : Instr) : Option Nat :=
  match i with
  | .cpyt _ _ f => some (f.a.toNat + 4)
  | _ => none

/-- Illegal by the value of a register: a cpyt whose row length is no multiple of its element size (R382). -/
def valueIllegal (i : Instr) (th : Thread) : Bool :=
  match i with
  | .cpyt _ _ f => !(th.sreg (f.a.toNat + 4)).poison &&
      (fieldN (th.sv (f.a.toNat + 4)).toNat 0 16 + 1) % 2 ^ (f.m 27 24) != 0
  | _ => false

/-- What stands against the instruction by that value, whatever the mask holds (R397), once it is known (R200). -/
def valueCheck (i : Instr) (s : State) (t : Nat) (th : Thread) : Option Res :=
  match legalReg i with
  | none => none
  | some n =>
    if n ≥ th.s.length then none
    else if opPending s t th (Opd.rs n 1) then some (.stay s)
    else if valueIllegal i th then some (.trap 0x01 th.mask (latchWords th.latch) 0)
    else none

/-- The order of R267 from rank 3 on: illegal, privileged, register-range; uninitialised read, once the registers that earlier
operations still write hold their results (R91, R200); then late flags and poison; then the instruction's own rules. -/
def instr (i : Instr) (s : State) (body : Thread → Res) : Out :=
  match s.thread s.cur with
  | none => .fault .noThread
  | some th =>
    if th.exited ∨ th.wait ≠ .none ∨ th.latch.closed then .next s
    else settle s s.cur th
      (if !legalIn i th then .trap 0x01 th.mask (illegalVal i th.latch) 0
       else match valueCheck i s s.cur th with
       | some r => r
       | none =>
       if entryFails i th then .trap 0x02 th.mask (latchWords th.latch) 0
       else if !executes i th then .closed (s.setThread s.cur (passOver th))
       else
         let m := if i.cls = .whole then th.mask else th.active i.guard
         let os := issueOpds i th
         if privFails i th then .trap 0x02 th.mask (latchWords th.latch) 0
         else match rangeTrap th (i.opds th.latch.px) with
         | some (f, n) => .trap 0x04 (rangeSet i th) (BitVec.ofNat 64 (f * 256 + n)) 0
         | none =>
         if opPending s s.cur th os then .stay s
         else match (if th.uck ∧ th.mode = .user then taggedRead th os else none) with
         | some n => .trap 0x05 (th.active i.guard) (BitVec.ofNat 64 n) 0
         | none =>
         if lateWaits s i s.cur th then .stay s
         else if lateAwaited i th ≠ 0 then .closed (lateTrap i s th)
         else match poisonTrap i th m (th.active i.guard) with
         | some (set, n, f) => .trap 0x28 set (BitVec.ofNat 64 (f * 256 + n)) 0
         | none => body th)

/-- Finish an effect on the thread that raised flags as a whole: the trap is for `set`, since no single lane raised them (R242, R283; the set
is log 91). -/
def wholeFlags (s : State) (th : Thread) (set : Mask) (fl : Flags) : Res :=
  let th' := addFlags th fl
  let en := fl &&& enabled th
  if en = 0 then .done s th' else .after (s.setThread s.cur th') 0x30 set (en.setWidth 64)

/-- Finish an effect on the thread in which lanes raised flags (R242). -/
def laneFlags (s : State) (th : Thread) (rs : List (Nat × Flags)) : Res :=
  let fl := allFlags rs
  let th' := addFlags th fl
  let en := fl &&& enabled th
  if en = 0 then .done s th' else .after (s.setThread s.cur th') 0x30 (trapLanes (enabled th) rs) (en.setWidth 64)

end Sys2Proof.Machine
end

