-- ==== Sys2Proof/Machine/Translate.lean ====
section
/-! DEFINITION. Translation of a thread's accesses (03): misses, the effective policy, shoot-downs. -/
namespace Sys2Proof.Machine
open Sys2Proof

/-! ## Look-up (R73-R76) -/

/-- What translation says of one address of an access. -/
inductive TrRes where
  | hit (l : Leaf) (pa : Nat)
  | fault (cls level stage : Nat)
  | miss
deriving DecidableEq, Repr

/-- Translate a local address for a thread: what the TLBs of its quill hold, or a fault delivered to it (R73, R76). -/
def translate (s : State) (th : Thread) (k : AK) (m : Mode) (va : Nat) : TrRes :=
  match quillFind s th.quill (k == .fetch) th.vmid th.asid va with
  | some (l, pa) => (match permBad k m l with
    | some (c, lv, st) => .fault c lv st
    | none => .hit l pa)
  | none => match th.dlvd.find? (fun d => d.1 == va / 65536) with
    | some (_, .bad c l st) => .fault c l st
    | _ => .miss

/-! ## Effective policy (R68, R40) -/

/-- The cache policy that an instruction requests: its prefix's, or write-back (R68). -/
def reqPolicy (x : Px) : Nat := match x.c with | some (_, p) => p.toNat | none => 3

/-- The effective policy of an access: the lower of the page's and the requested one (R68). -/
def effPolicy (l : Leaf) (req : Nat) : Nat := if l.kind = 4 then 0 else min l.pol req

/-- Whether a line of this kind and policy may be held in an L1 (R107, R147). -/
def l1Held (kind pol : Nat) : Bool := (kind == 0 || kind == 1 || kind == 2) && decide (2 ≤ pol)

/-! ## Shoot-downs (R82-R84) -/

/-- Whether a TLB entry is removed by an operation (R82). -/
def shootHits (op vmid asid addr : Nat) (e : TlbEnt) : Bool :=
  match op with
  | 0 => e.vmid == vmid && (match e.asid with | some a => a == asid | none => true) && e.page == addr * 65536 / 2 ^ e.size
  | 1 => e.vmid == vmid && e.asid == some asid
  | 2 => e.vmid == vmid
  | 3 => e.vmid == vmid
  | _ => true

/-- Whether an operation removes an entry of a walk cache (R82): op 0 the pointers of the context on the address's path, op 1 all
of the context, op 3 the stage-2 pointers on the path of the guest-physical address. -/
def shootWalk (op vmid asid addr : Nat) (e : WcEnt) : Bool :=
  match op with
  | 0 => e.vmid == vmid && e.asid == some asid && e.level != 3 && e.tag == wcTag e.level (addr * 65536)
  | 1 => e.vmid == vmid && e.asid == some asid
  | 2 => e.vmid == vmid
  | 3 => e.vmid == vmid && e.asid == none && e.level != 3 && e.tag == wcTag e.level (addr * 65536)
  | _ => true

/-- Whether an access in flight used an entry that an operation removes; may name more (R82, R83). -/
def shootUses (op vmid asid addr : Nat) (t : Tgt) : Bool :=
  let hit := fun (v a va sz : Nat) =>
    match op with
    | 0 => v == vmid && va / 2 ^ sz == addr * 65536 / 2 ^ sz
    | 1 => v == vmid && a == asid
    | 4 => true
    | _ => v == vmid
  match t with
  | .mem _ _ _ v a va sz => hit v a va sz
  | .dec _ _ v a va sz => hit v a va sz
  | _ => false

/-- Remove the entries that the first shoot-down names, everywhere (R83 step 2). -/
def shootRemove (s : State) : State :=
  match s.xl.shoots with
  | [] => s
  | h :: r =>
    { s with xl := { s.xl with
      tlb := s.xl.tlb.map (fun e => (e.1, e.2.filter (fun t => !shootHits h.op h.vmid h.asid h.addr t)))
      wc := s.xl.wc.map (fun e => (e.1, e.2.filter (fun w => !shootWalk h.op h.vmid h.asid h.addr w)))
      shoots := { h with removed := true } :: r } }

end Sys2Proof.Machine
end

