-- ==== Sys2Proof/Machine/Fetch.lean ====
section
/-! DEFINITION. Fetching a unit (R51-R57, R251-R253) and what stands before its execution: fetch faults, orphaned
prefixes, words that are not instructions (R261, R266, R267). -/
namespace Sys2Proof.Machine
open Sys2Proof

/-- What fetching one word gives. -/
inductive FetchRes where
  | word (w : Word)
  | bad (cause : Nat) (val : DWord) (syn : Word)
  | miss (va : Nat)
  /-- the read never returns (R483) -/
  | stall
deriving DecidableEq, Repr

/-- Fetch the word at an offset of the thread's segment (R51, R54, R55, R77, R131). The fetch reads home values (log 8). An address
outside local space is a bad handle, and a page of the device-register kind gives register values (log 68). -/
def fetchWord (s : State) (th : Thread) (o : Nat) : FetchRes :=
  match th.seg with
  | none => .bad 0x17 (th.pcH.setWidth 64) 0
  | some e =>
    if o ≥ e.limit then .bad 0x18 (BitVec.ofNat 64 o) 0
    else
      let va := e.base + o
      if va ≥ 2 ^ 55 then .bad 0x17 (th.pcH.setWidth 64) 0
      else match translate s th .fetch th.mode va with
      | .hit l pa =>
        if homeStopped s pa ∨ bankShut s pa then .stall
        else if poisoned s pa 4 then .bad 0x29 (BitVec.ofNat 64 o) 0
        else .word (BitVec.ofNat 32 (if l.kind = 4 then regRead s (pa - devBase) 4 else ofBytes (s.bytes pa 4)))
      | .fault c l st => .bad 0x20 (BitVec.ofNat 64 va) (synOf .fetch c l st)
      | .miss => .miss va

/-- The words of a run of prefixes and its instruction, as far as they lie within the segment. -/
inductive Words where
  /-- prefix words, then the words of an instruction -/
  | unit (pre : List Word) (w0 w1 : Word)
  /-- prefix words up to the end of the segment, or three of them -/
  | run (pre : List Word)
  | bad (cause : Nat) (val : DWord) (syn : Word)
  | miss (va : Nat)
  | stall
deriving DecidableEq, Repr

/-- Whether an offset lies at or above the segment's limit. -/
def atLimit (th : Thread) (o : Nat) : Bool :=
  match th.seg with
  | some e => decide (o ≥ e.limit)
  | none => false

/-- Collect the words of a unit: at most three prefix words are read (R252, R266, R267). The words after a prefix that is of a reserved class,
or already orphaned, are read before that counts (log 93). -/
def collect (s : State) (th : Thread) : Nat → Nat → List Word → Words
  | 0, _, pre => .run pre
  | n + 1, o, pre =>
    if !pre.isEmpty && atLimit th o then .run pre
    else match fetchWord s th o with
    | .bad c v y => .bad c v y
    | .miss va => .miss va
    | .stall => .stall
    | .word w =>
      match wordClass w with
      | .pre => collect s th n (o + 4) (pre ++ [w])
      | .short => .unit pre w 0
      | .long =>
        match fetchWord s th (o + 4) with
        | .bad c v y => .bad c v y
        | .miss va => .miss va
        | .stall => .stall
        | .word w1 => .unit pre w w1

/-- The prefix row that the fields of a word name, whatever its other bits are. -/
def prefixRow (w : Word) : Instr :=
  match prefixClass w with
  | 1 => .rmode (fld w 7 3) (w.getLsbD 6) (w.getLsbD 5)
  | 2 => .pairx (fld w 5 2)
  | 3 => .cpol (fld w 7 2) (fld w 5 2)
  | _ => .xreg (fld w 11 3) (fld w 8 3) (fld w 5 3)

/-- The words after a run of prefixes are an instruction: legal by themselves, or with the register numbers that the run's xreg
gives (R4, R260, R266, log 40). -/
def isInstruction (pre : List Word) (i : Instr) : Bool :=
  i.wf Px.none ||
  match pre.find? (fun w => prefixClass w == 0) with
  | some w => i.wf { Px.none with x := some (fld w 5 3, fld w 8 3, fld w 11 3) }
  | none => false

/-- The reason why the last prefix of a run is orphaned by the words after it: a transfer, or words that its class does not
modify (R266). -/
def orphanBy (pre : List Word) (w : Word) (ins : Option Instr) : Option Nat :=
  match ins with
  | none => some 4
  | some j =>
    if !isInstruction pre j then some 4
    else if j.isTransfer then some 3
    else if (prefixRow w).modifies j then none else some 4

/-- The orphan reason of the i-th prefix word of a run (R266); `ins`: the instruction after the run, `there`: whether
there are words of one. -/
def orphanReason (pre : List Word) (i : Nat) (there : Bool) (ins : Option Instr) : Option Nat :=
  match pre[i]? with
  | none => none
  | some w =>
    if prefixClass w ≥ 4 then none
    else
      let after := pre.length - (i + 1)
      match pre[i + 1]? with
      | some nx =>
        if prefixClass nx = prefixClass w then some 1
        else if after ≥ 2 then some 2
        else if prefixClass nx ≥ 4 then some 4
        else if !there then none
        else orphanBy pre w ins
      | none => if !there then some 5 else orphanBy pre w ins

/-- The rows to execute for a unit and the latch they start from. Where several prefixes stand against the unit, tfval holds the first
whose own payload is illegal (R261, log 90). -/
def unitRows (pre : List Word) (w0 w1 : Word) (there : Bool) : List Instr × Latch :=
  let ins := if there then decode w0 w1 else none
  let l0 := { Latch.empty with w0 := w0, w1 := w1 }
  match pre.head? with
  | some p => if prefixClass p ≥ 4 then ([.illegalInstruction], { l0 with w0 := p, w1 := 0 })
    else
      match firstBelow pre.length (fun i => (orphanReason pre i there ins).isSome) with
      | some i =>
        let r := (orphanReason pre i there ins).getD 4
        let nx := if r = 5 then 0 else (pre[i + 1]?).getD w0
        ([prefixRow ((pre[i]?).getD 0)], { l0 with n := i, orphan := some (r, nx) })
      | none =>
        match pre.find? (fun p => match decodePrefix p with | some i => !i.prefixOk | none => true) with
        | some p => ([.illegalInstruction], { l0 with w0 := p, w1 := 0 })
        | none => match ins with
          | some j => (pre.map prefixRow ++ [j], l0)
          | none => ([.illegalInstruction], { l0 with w0 := (pre.head?).getD w0, w1 := 0 })
  | none => match ins with
    | some j => ([j], l0)
    | none => ([.illegalInstruction], l0)

/-- What a thread finds when it fetches its next unit. -/
inductive Fetched where
  | rows (is : List Instr) (l : Latch)
  | miss (va : Nat)
  | stall
deriving DecidableEq, Repr

/-- Fetch the next unit of a thread. -/
def fetchUnit (s : State) (th : Thread) : Fetched :=
  match collect s th 3 th.pcO [] with
  | .miss va => .miss va
  | .stall => .stall
  | .bad c v y => .rows [.instructionFetchFault] { Latch.empty with fetch := some (c, v, y) }
  | .run pre => let r := unitRows pre 0 0 false; .rows r.1 r.2
  | .unit pre w0 w1 => let r := unitRows pre w0 w1 true; .rows r.1 r.2

end Sys2Proof.Machine
end

