-- ==== Sys2Proof/Machine/Mem.lean ====
section
/-! DEFINITION. The memory model (06): the checks of an access before it issues (02 R26-R42), the queue entries of a
thread, when each may take its step (R146-R154), and the steps on the home values, pending lists and copy sets. -/
namespace Sys2Proof.Machine
open Sys2Proof

/-! ## Checks (R26-R42, R397) -/

/-- One access that a lane asks for: base and address, size, store data or operand, comparand. -/
structure LaneReq where
  lane : Nat
  base : DWord
  addr : DWord
  size : Nat
  data : List Byte
  cmp : List Byte
deriving DecidableEq, Repr

/-- What the checks say of one access: its parts, a trap, or a translation that is still missing. -/
inductive Chk where
  | ok (parts : List (Tgt × Nat))
  | bad (cause : Nat) (val : DWord) (syn : Word)
  | miss (va : Nat)
deriving DecidableEq, Repr

/-- The kind rules (R40-R42): the cause of a refusal. An atomic to the inkwell is an inkwell write (R42, R184), not an unsupported
access (log 66). -/
def kindBad (k : AK) (kind size : Nat) : Option Nat :=
  match k, kind with
  | .atomic, 1 => some 0x16
  | .atomic, 3 => some 0x15
  | .store, 1 => some 0x16
  | .engW, 1 => some 0x16
  | .atomic, 4 => some 0x15
  | _, 4 => if size = 4 ∨ size = 8 then none else some 0x15
  | _, _ => none

/-- The parts of an access: the host kind splits 16 bytes (R142). -/
def hostSplit (kind pol pa vmid asid va sz size : Nat) : List (Tgt × Nat) :=
  if kind = 3 ∧ size = 16 then
    [(.mem kind pol pa vmid asid va sz, 8), (.mem kind pol (pa + 8) vmid asid (va + 8) sz, 8)]
  else [(.mem kind pol pa vmid asid va sz, size)]

/-- Non-canonical (R26, R27). -/
def nonCanonical (base addr : DWord) : Bool :=
  fieldN addr.toNat 56 8 != 0 || addr.getLsbD 55 != base.getLsbD 55

/-- The checks of a global access of a thread, in the order of R397. -/
def checkGlobal (s : State) (th : Thread) (k : AK) (r : LaneReq) : Chk :=
  let a := r.addr.toNat
  if nonCanonical r.base r.addr then .bad 0x10 r.addr 0
  else if a % r.size ≠ 0 then .bad 0x11 r.addr 0
  else if r.addr.getLsbD 55 then
    if domEnabled s (dieOf th.quill) th.vmid th.asid then .ok [(.dom (fieldN a 46 9) (fieldN a 0 46), r.size)] else .bad 0x14 r.addr 0
  else match translate s th k th.mode a with
  | .miss => .miss a
  | .fault c l st => .bad 0x20 r.addr (synOf k c l st)
  | .hit l pa => match kindBad k l.kind r.size with
    | some c => .bad c r.addr 0
    | none =>
      .ok (hostSplit l.kind (if l.kind = 4 then th.mode.code else effPolicy l (reqPolicy th.latch.px)) pa th.vmid th.asid a l.sz r.size)

/-- The physical offset of a scratchpad offset under a rotation code (R96). -/
def rotate (code off : Nat) : Nat :=
  if code = 0 then off
  else
    let col := fieldN off 2 5
    let bank := col ^^^ (fieldN off 7 code * 2 ^ (5 - code))
    off - col * 4 + bank * 4

/-- The place of byte `i` of a scratchpad access whose first byte lies at `p`: a wide access keeps to its aligned block, and each of
its words rotates on its own (R96, R98; log 44). -/
def scrByte (p i : Nat) : Nat := (p ^^^ (i / 4 * 4)) + i % 4

/-- Bytes of a gang's scratchpad allocation. -/
def Gang.scrBytes (g : Gang) : Nat := g.scrRun.len * 32768

/-- The gang that a scratchpad address names (R34, R35). -/
def scrGang (s : State) (gid addr : Nat) : Option Nat :=
  if fieldN addr 24 8 ≠ 0 then none
  else if bitN addr 23 then
    match s.gang gid with
    | some g => (match g.fgang with
      | some f => (match s.fgangs.find f with
        | some fg => fg.members.find? (fun m => match s.gang m with
            | some x => x.quill == folioOf g.quill * 8 + fieldN addr 20 3
            | none => false)
        | none => none)
      | none => none)
    | none => none
  else if fieldN addr 20 3 ≠ 0 then none
  else some gid

/-- The scratchpad byte that an address names for an access, or none out of range (R35). -/
def scrPlace (s : State) (gid addr size code : Nat) : Option (Nat × Nat) :=
  match scrGang s gid addr with
  | none => none
  | some t => match s.gang t with
    | some g => if fieldN addr 0 20 + size > g.scrBytes then none else some (t, rotate code (fieldN addr 0 20))
    | none => none

/-- The checks of a scratchpad access (R28, R35). -/
def checkScr (s : State) (th : Thread) (code : Nat) (r : LaneReq) : Chk :=
  let a := r.addr.toNat
  if a % r.size ≠ 0 then .bad 0x11 r.addr 0
  else match scrPlace s th.gang a r.size code with
  | some (g, p) => .ok [(.scr g p, r.size)]
  | none => .bad 0x12 r.addr 0

/-! ## Queue entries (R148-R150) -/

/-- Whether an access may be held in an L1 (R147). -/
def Tgt.held : Tgt → Bool
  | .mem k p _ _ _ _ _ => l1Held k p
  | .dec _ _ _ _ _ _ => true
  | _ => false

/-- Whether two accesses touch a common byte; a decoded texel is no byte of memory (R137). -/
def overlap (t : Tgt) (n : Nat) (u : Tgt) (m : Nat) : Bool :=
  let mt := fun (a b : Nat) => decide (a < b + m) && decide (b < a + n)
  match t, u with
  | .mem _ _ a _ _ _ _, .mem _ _ b _ _ _ _ => mt a b
  | .dom p a, .dom q b => p == q && mt a b
  | .scr g a, .scr h b => g == h && (List.range n).any (fun i => (List.range m).any (fun j => scrByte a i == scrByte b j))
  | _, _ => false

/-- The byte that an access names first: lanes that name the same one reach it together (R141). -/
def Tgt.place : Tgt → Option (Nat × Nat × Nat)
  | .mem _ _ pa _ _ _ _ => some (0, 0, pa)
  | .dom p o => some (1, p, o)
  | .scr g p => some (2, g, p)
  | .dec key pa _ _ _ _ => some (3, key, pa)
  | .skip => none

/-- Whether an access has performed at a scope (R143). -/
def performedAt (sc : Nat) (k : OpKind) (a : Acc) : Bool :=
  match k with
  | .load => a.ph.final
  | .atomic _ _ => a.ph.final
  | .push => sc == 0 || a.ph == .home
  | .store =>
    if sc = 0 then true
    else if sc = 1 then a.ph != .pend
    else match a.tgt with
    | .dom _ _ => if sc < 4 then a.ph != .pend else a.ph.final
    | _ => a.ph.final

/-- Whether an entry has performed at a scope. -/
def MemOp.performed (o : MemOp) (sc : Nat) : Bool := o.accs.all (performedAt sc o.kind)

def MemOp.isLoad (o : MemOp) : Bool := match o.kind with | .store => false | .push => false | _ => true
def MemOp.isStore (o : MemOp) : Bool := o.kind != .load

/-- Entries before a serial number. -/
def earlier (th : Thread) (ser : Nat) : List MemOp := th.mq.filter (fun o => decide (o.ser < ser))

/-- Rules that hold for every later access: atomics and acquires come first (R149, R154). -/
def passesAll (o : MemOp) : Bool :=
  match o.kind with
  | .atomic _ _ => o.accs.all (fun a => a.ph.final)
  | .load => o.acq.isNone || o.accs.all (fun a => a.ph.final)
  | _ => true

/-- An earlier store lets a load go: one of other bytes, or of another line of its peer (R147, R148 rule 3, R181). -/
def storeLetsLoad (l st : Acc) : Bool :=
  match l.tgt, st.tgt with
  | .dom p a, .dom q b => !(p == q && a / 128 == b / 128) || st.ph != .pend
  | _, _ =>
    if !overlap l.tgt l.size st.tgt st.size then true
    else if l.tgt.held && st.tgt.held then st.ph != .pend else st.ph.final

/-- Whether a load access may take its value (R148 rules 1 and 3, R149, R154). -/
def loadReady (th : Thread) (o : MemOp) (a : Acc) : Bool :=
  (earlier th o.ser).all (fun e =>
    passesAll e &&
    match e.kind with
    | .load => e.accs.all (fun x => x.ph.final)
    | .store => e.accs.all (storeLetsLoad a)
    | _ => true)

/-- Whether the release of an entry may perform (R153). -/
def relReady (th : Thread) (o : MemOp) : Bool :=
  match o.rel with
  | none => true
  | some sc => (earlier th o.ser).all (fun e => e.performed sc)

/-- Whether a store access may quill-perform (R148 rules 2 and 4, R149, R153, R154). -/
def storeReady (th : Thread) (o : MemOp) (a : Acc) : Bool :=
  relReady th o &&
  (earlier th o.ser).all (fun e =>
    passesAll e &&
    match e.kind with
    | .load => e.accs.all (fun x => x.ph.final || !overlap a.tgt a.size x.tgt x.size)
    | .store => e.accs.all (fun x => x.ph != .pend) &&
        (!a.tgt.held || (match e.rel with
          | some sc => decide (sc < 2) || e.accs.all (fun x => x.ph.final)
          | none => true))
    | .push => e.accs.all (fun x => x.ph.final)
    | _ => true)

/-- Whether an atomic access may perform, the pending list apart (R149, R153). -/
def atomReady (th : Thread) (o : MemOp) (a : Acc) : Bool :=
  relReady th o &&
  (earlier th o.ser).all (fun e =>
    passesAll e &&
    match e.kind with
    | .load => e.accs.all (fun x => x.ph.final)
    | .store => e.accs.all (fun x => x.ph != .pend && (!a.tgt.held || (match e.rel with
          | some sc => decide (sc < 2) || x.ph.final
          | none => true)))
    | _ => e.accs.all (fun x => x.ph.final))

/-- Every entry of a thread has performed at a scope. -/
def allPerformed (th : Thread) (sc : Nat) : Bool := th.mq.all (fun o => o.performed sc)

/-- Every domain-space store of a thread has been acknowledged (R160). -/
def domStoresDone (th : Thread) : Bool :=
  th.mq.all (fun o => o.kind != .store || o.accs.all (fun a => match a.tgt with | .dom _ _ => a.ph.final | _ => true))

/-- Change an entry of a thread. -/
def modOp (th : Thread) (ser : Nat) (f : MemOp → MemOp) : Thread :=
  { th with mq := th.mq.map (fun o => if o.ser = ser then f o else o) }

/-- Change the n-th access of an entry. -/
def modAcc (o : MemOp) (n : Nat) (f : Acc → Acc) : MemOp :=
  match o.accs[n]? with
  | some a => { o with accs := setAt o.accs n (f a) }
  | none => o

/-- Drop the entries that are finished. -/
def prune (th : Thread) : Thread := { th with mq := th.mq.filter (fun o => !o.finished) }

/-! ## Values (R145-R147) -/

/-- The youngest pending byte of an address in a quill's list. -/
def pendingByte (pq : List PEnt) (a : Nat) : Option Byte :=
  pq.foldl (fun r e => if e.vis ∧ e.pa ≤ a ∧ a < e.pa + e.data.length then e.data[a - e.pa]? else r) none

/-- The value that a held load of a byte takes on a quill (R146). -/
def heldByte (s : State) (q a : Nat) : Byte :=
  let x := s.quill q
  match pendingByte x.pq a with
  | some b => b
  | none => match x.cq.find (a / 128) with
    | some l => l.getD (a % 128) 0
    | none => s.byte a

/-- Bytes of a quill's copies or homes. -/
def heldBytes (s : State) (q a n : Nat) : List Byte := (List.range n).map (fun i => heldByte s q (a + i))

/-- A line as a fill copies it (R146). -/
def fillLine (s : State) (q line : Nat) : List Byte :=
  (List.range 128).map (fun i => match pendingByte (s.quill q).pq (line * 128 + i) with
    | some b => b
    | none => s.byte (line * 128 + i))

/-- Overlay store bytes on a line's copy. -/
def overlay (l : List Byte) (line pa : Nat) (data : List Byte) : List Byte :=
  (List.range 128).map (fun i =>
    let a := line * 128 + i
    if pa ≤ a ∧ a < pa + data.length then data.getD (a - pa) 0 else l.getD i 0)

/-- Update a quill's copy of the line of an access, if it holds it. -/
def cqUpdate (x : Quill) (pa : Nat) (data : List Byte) : Quill :=
  { x with cq := x.cq.change (pa / 128) (fun l => overlay l (pa / 128) pa data) }

/-- Drop a line. -/
def cqDrop (x : Quill) (line : Nat) : Quill := { x with cq := x.cq.del line }

/-- Drop every line (R108, R151, R154). -/
def cqClear (x : Quill) : Quill := { x with cq := [] }

/-- Whether a gang still has its stores: those of an exited one discard what arrives (R217). -/
def gangLive (s : State) (g : Nat) : Bool := match s.gang g with | some x => !x.ended | none => false

/-- Read scratchpad bytes of a gang; zero bytes where the gang is gone (R217). -/
def scrRead (s : State) (g p n : Nat) : List Byte :=
  match s.gang g with
  | some x => (List.range n).map (fun i => (x.scr.find (scrByte p i)).getD 0)
  | none => List.replicate n 0

/-- Whether a scratchpad access meets a poisoned word (R117). -/
def scrPoisoned (s : State) (g p n : Nat) : Bool :=
  match s.gang g with
  | some x => x.scrPoison.any (fun w => (List.range n).any (fun i => scrByte p i / 4 == w))
  | none => false

/-- Write bytes of a sparse store whose unlisted bytes are zero. -/
def sparseWrite : FMap Byte → Nat → List Byte → FMap Byte
  | m, _, [] => m
  | m, a, b :: r => sparseWrite (if b = 0 then FMap.del m a else FMap.put m a b) (a + 1) r

/-- Scratchpad words lose their poison (R117). -/
def scrClean (s : State) (g : Nat) (p : Nat → Bool) : State :=
  s.modGang g (fun x => { x with scrPoison := x.scrPoison.filter (fun w => !p w) })

/-- Write scratchpad bytes of a gang that is still there; whole words lose their poison (R117). -/
def scrWrite (s : State) (g p : Nat) (data : List Byte) : State :=
  s.modGang g (fun x =>
    { x with scr := data.zipIdx.foldl (fun m e => sparseWrite m (scrByte p e.2) [e.1]) x.scr,
             scrPoison := x.scrPoison.filter (fun w =>
               !(List.range 4).all (fun k => (List.range data.length).any (fun i => scrByte p i == 4 * w + k))) })

/-- Home value of an access to memory (R145). -/
def homeRead (s : State) (kind pa n : Nat) : List Byte :=
  if kind = 4 then toBytes n (regRead s (pa - devBase) n) else s.bytes pa n

/-- Who a thread is to a device register: hypervisor contexts are known by the mode (R58, log 15). -/
def regAgent (mode : Nat) : Agent := if mode = 2 then .hypervisor else .warp

/-- Write the home value. -/
def homeWrite (s : State) (kind pol pa : Nat) (data : List Byte) : State :=
  if kind = 4 then regWrite s (regAgent pol) (pa - devBase) data.length (ofBytes data) else s.setBytes pa data

/-! ## Requests to peers (R174-R178) -/

/-- The hash lane (R176). -/
def hashLane (off : Nat) : Nat :=
  fieldN off 7 6 ^^^ fieldN off 13 6 ^^^ fieldN off 19 6 ^^^ fieldN off 25 6 ^^^ fieldN off 31 6 ^^^ fieldN off 37 6 ^^^
    fieldN off 43 3

/-- The port of rank `r` among the set bits of a route. -/
def portOfRank (ports r : Nat) : Option Nat := ((List.range 18).filter (fun i => bitN ports i))[r]?

/-- The route value that a lane of a peer uses now (R179). -/
def routeOf (s : State) (peer lane : Nat) : Nat :=
  match s.fab.oldRoute.find? (fun r => r.1 == peer && r.2.1 == lane) with
  | some r => r.2.2.toNat
  | none => ((s.fab.route.find peer).getD 0).toNat

/-- The port by which a request leaves, or none (R178, R45). -/
def portFor (s : State) (peer lane : Nat) : Option Nat :=
  if peer ≥ s.fab.size.toNat then none
  else
    let r := routeOf s peer lane
    let m := popN' (fieldN r 0 18)
    if !bitN r 63 ∨ m = 0 then none else portOfRank (fieldN r 0 18) (lane % m)
where
  /-- Number of ports of a route. -/
  popN' (x : Nat) : Nat := ((List.range 18).filter (fun i => bitN x i)).length

/-- Whether requests of a lane wait at the source for a route change (R179). -/
def laneHeld (s : State) (peer lane : Nat) : Bool := s.fab.oldRoute.any (fun r => r.1 == peer && r.2.1 == lane)

/-- Virtual lane of a request (R188). -/
def reqVl : ReqKind → Nat
  | .rred _ => 2
  | _ => 0

/-- Whether a port's virtual lane is stopped: its requests queue at the port (R189, R192). -/
def vlStopped (s : State) (n vl : Nat) : Bool := match s.fab.ports[n]? with | some p => p.stopped.contains vl | none => false

/-- Outstanding requests of a quill (R175). -/
def quillOut (s : State) (q : Nat) : Nat := (s.fab.out.filter (fun r => r.quill == q)).length

/-- Send a request: none where it cannot leave the module (R178), which completes as peer-unreachable. -/
def sendReq (s : State) (q peer line : Nat) (owner : ReqOwner) (kind : ReqKind) (accs : List ReqAcc) : Option (State × Nat) :=
  let lane := hashLane (line * 128)
  let self := peer == s.fab.peer.toNat
  let port := portFor s peer lane
  if !self && port.isNone then none
  else
    let id := s.fab.nextId
    let rq : Request := { src := s.fab.peer.toNat, id := id, kind := kind, accs := accs }
    let o : OutReq := { id := id, peer := peer, lane := lane, quill := q, port := if self then none else port,
                        sentAt := s.tick, owner := owner, req := rq, line := line,
                        gone := self || !(match port with | some n => vlStopped s n (reqVl kind) | none => false) }
    some ({ s with fab := { s.fab with out := s.fab.out ++ [o], nextId := id + 1 } }, id)

/-! ## Issue of an entry -/

/-- The accesses of one lane's checked parts. -/
def partsOf (r : LaneReq) (parts : List (Tgt × Nat)) : List Acc :=
  (parts.foldl (fun (x : Nat × List Acc) p =>
    (x.1 + p.2, x.2 ++ [{ lane := r.lane, tgt := p.1, size := p.2, data := (r.data.drop x.1).take p.2, cmp := r.cmp, got := [],
                          ph := .pend, poison := false, req := none, und := [] }])) (0, [])).2

/-- Lower lanes of a store that a higher lane covers store nothing (R141). -/
def dropCovered : List Acc → List Acc
  | [] => []
  | a :: r => (if r.any (fun b => overlap a.tgt a.size b.tgt b.size) then { a with tgt := .skip, ph := .home } else a) :: dropCovered r

/-- The first trap among the checks, with the lanes that fail. -/
def firstBad (cs : List (Nat × Chk)) : Option (Nat × DWord × Word × Mask) :=
  let bad := fun (c : Nat × Chk) => match c.2 with | .bad _ _ _ => true | _ => false
  match cs.find? bad with
  | some (_, .bad c v y) => some (c, v, y, maskOf (fun L => cs.any (fun x => x.1 == L && bad x)))
  | _ => none

/-- Queue the misses of an instruction (R75, R76). -/
def queueMisses (s : State) (t : Nat) (th : Thread) (cs : List (Nat × Chk)) : State :=
  cs.foldl (fun s c => match c.2 with
    | .miss va => queueMiss s (dieOf th.quill) th.vmid th.asid (va / 65536) (th.mode != .user) t
    | _ => s) s

/-- Lines of a peer that a list of accesses needs requests for (R174). -/
def domLines (as : List Acc) : List (Nat × Nat) :=
  (as.filterMap (fun a => match a.tgt with | .dom p o => some (p, o / 128) | _ => none)).eraseDups

/-- Domain requests that queued entries of a quill have still to send. -/
def pendingLines (s : State) (q : Nat) : Nat :=
  (s.threads.filter (fun e => e.2.quill == q)).foldl (fun n e =>
    e.2.mq.foldl (fun n o => n + (domLines (o.accs.filter (fun a => a.ph == .pend))).length) n) 0

/-- Whether a resource of a quill is full (R76, R175, R364, R379). -/
def roomFull (s : State) (q : Nat) (r : Room) : Bool :=
  match r with
  | .matrix => decide (16 ≤ ((s.quill q).mx.filter (fun m => m.owed.isNone)).length)
  | .stream st => decide (32 ≤ ((s.quill q).stream st).cmds.length)
  | .requests n => n != 0 && decide (quillOut s q + pendingLines s q + n > 1024)
  | .misses => !missRoom s (dieOf q)

/-- Some access of an instruction has no translation yet. -/
def missing (cs : List (Nat × Chk)) : Bool := cs.any (fun c => match c.2 with | .miss _ => true | _ => false)

/-- An instruction waits for translations; where the miss table has no room for all its misses, for room (R76, R406). -/
def awaitMisses (s : State) (th : Thread) (cs : List (Nat × Chk)) : Res :=
  let s' := queueMisses s s.cur th cs
  let ms := (s'.xl.miss.find (dieOf th.quill)).getD []
  let held := fun (va : Nat) => ms.any (fun m => m.vmid == th.vmid && m.asid == th.asid && m.page == va / 65536)
  if cs.all (fun c => match c.2 with | .miss va => held va | _ => true) then .stay s' else .full s' .misses

/-- Append an entry to a thread's queues. -/
def pushOp (th : Thread) (kind : OpKind) (accs : List Acc) (acq rel : Option Nat) (fin : Fin) : Thread :=
  { th with mq := th.mq ++ [{ ser := th.ser, kind := kind, mode := th.mode, pol := reqPolicy th.latch.px, accs := accs, acq := acq, rel := rel, fin := fin,
                              dlv := fin == .none && kind != .load }], ser := th.ser + 1 }

/-- What stands against a release of domain or system scope (R160): none when it may go on. -/
def checkPoint (s : State) (th : Thread) (set : Mask) : Option Res :=
  if !domStoresDone th then some (.stay s)
  else if th.rfault.isSome then some (.trap 0x38 set 0 0)
  else none

/-- An instruction's accesses are checked and enter the queues of its thread (R29, R76, R148). `wide`: the trapping set of a
fault is `set` (R313). -/
def issueMem (s : State) (th : Thread) (set : Mask) (wide : Bool) (kind : OpKind) (chk : LaneReq → Chk) (reqs : List LaneReq)
    (acq rel : Option Nat) (fin : Fin) : Res :=
  let cs := reqs.map (fun r => (r.lane, chk r))
  if missing cs then awaitMisses s th cs
  else match firstBad cs with
  | some (c, v, y, m) => .trap c (if wide then set else m) v y
  | none =>
    let as := (reqs.zip cs).flatMap (fun x => match x.2.2 with | .ok ps => partsOf x.1 ps | _ => [])
    let as' := if kind = .store then dropCovered as else as
    let nl := (domLines (as'.filter (fun a => a.ph == .pend))).length
    if roomFull s th.quill (.requests nl) then .full s (.requests nl)
    else match (match rel with | some sc => if sc ≥ 4 then checkPoint s th set else none | none => none) with
    | some r => r
    | none => .done s (pushOp th kind as' acq rel fin)

end Sys2Proof.Machine
end

