-- ==== Sys2Proof/Machine/Control.lean ====
section
/-! DEFINITION. Transfers, loops, barriers, the decision queue, ordered sections and the small services of a gang
(11 R291-R304; 08 R203-R206), with the events that end their waits. -/
namespace Sys2Proof.Machine
open Sys2Proof

/-! ## Transfers (R55, R253, R291-R293) -/

/-- A transfer to a computed offset, or the fault at the transferring instruction (R55, R253). -/
def takeJump (s : State) (th : Thread) (h : BitVec 16) (t : Int) (pop : Bool) : Res :=
  if t % 4 ≠ 0 then .trap 0x11 th.mask (BitVec.ofInt 64 t) 0
  else if t < 0 ∨ t ≥ 2 ^ 32 then .trap 0x18 th.mask (BitVec.ofInt 64 t) 0
  else .jump s h t.toNat pop

/-- The target of a branch (R291). -/
def branchTarget (th : Thread) (off : BitVec 21) : Int := (th.own : Int) + 4 * off.toInt

def execB (off : BitVec 21) (neg : Bool) (g : BitVec 3) (s : State) : Out :=
  instr (.b off neg g) s (fun th => takeJump s th th.pcH (branchTarget th off) true)

def execCall (off : BitVec 21) (neg : Bool) (g : BitVec 3) (s : State) : Out :=
  instr (.call off neg g) s (fun th =>
    takeJump (s.setThread s.cur (th.setS 31 (BitVec.ofNat 32 (th.own + 4)))) th th.pcH (branchTarget th off) false)

def execJr (a : BitVec 5) (s : State) : Out :=
  instr (.jr a) s (fun th => takeJump s th th.pcH (th.sv a.toNat).toNat true)

def execJrL (a d : BitVec 5) (s : State) : Out :=
  instr (.jrL a d) s (fun th =>
    takeJump (s.setThread s.cur (th.setS d.toNat (BitVec.ofNat 32 (th.own + 4)))) th th.pcH (th.sv a.toNat).toNat false)

/-- Target offset and handle of a long transfer (R293). -/
def longTarget (th : Thread) (k : JmpKind) (a : Nat) (y : Word) : BitVec 16 × Int :=
  match k with
  | .abs => (th.pcH, y.toNat)
  | .reg => (th.pcH, (th.sv a).toNat + y.toInt)
  | .seg => ((th.sv (a + 1)).extractLsb' 0 16, (th.sv a).toNat + y.toInt)

def execLjmp (k : JmpKind) (d a : BitVec 8) (y : Word) (s : State) : Out :=
  instr (.ljmp k d a y) s (fun th =>
    let t := longTarget th k a.toNat y
    takeJump s th t.1 t.2 true)

def execLcall (k : JmpKind) (d a : BitVec 8) (y : Word) (s : State) : Out :=
  instr (.lcall k d a y) s (fun th =>
    let t := longTarget th k a.toNat y
    let th1 := (th.setS d.toNat (BitVec.ofNat 32 (th.own + 8))).setS (d.toNat + 1) (th.pcH.setWidth 32)
    takeJump (s.setThread s.cur th1) th t.1 t.2 false)

/-! ## Loops (R295-R297) -/

def execLoop (imm : Bool) (f : T64) (s : State) : Out :=
  instr (.loop imm f) s (fun th =>
    let n : Word := if imm then BitVec.ofNat 32 (f.a.toNat + 256 * f.md.toNat) else th.sv f.a.toNat
    let start := th.own + 8
    let stop := start + 4 * (f.b.toNat + 256 * f.c.toNat) - 4
    if n = 0 then
      let th1 := retireAt th (stop + 4)
      if th1.pcO ≥ 2 ^ 32 then .trap 0x18 th.mask (BitVec.ofNat 64 th1.pcO) 0 else .closed (s.setThread s.cur th1)
    else if th.loops.length ≥ 4 then .trap 0x06 th.mask 0 0
    else
      let l : Level := { handle := th.pcH, start := start, stop := stop, left := n }
      .closed (s.setThread s.cur { retireAt th start with loops := l :: th.loops, pcO := start }))

def execLoopCnt (f : T64) (s : State) : Out :=
  instr (.loopCnt f) s (fun th =>
    .done s (th.setS f.d.toNat (match th.loops with | l :: _ => l.left | [] => 0)))

/-! ## Barriers (R203, R204, R156, R157, R301) -/

/-- The thread waits; its unit has taken its effect but does not retire until the wait ends. -/
def waitAt (th : Thread) (w : Wait) : Thread := { th with wait := w, wend := th.nextO, latch := Latch.empty }

/-- The wait of a thread ends and its unit retires. -/
def endWait (s : State) (t : Nat) : State := s.modThread t (fun th => retireAt th th.wend)

def execBarGang (f : T64) (s : State) : Out :=
  instr (.barGang f) s (fun th =>
    if !allPerformed th 1 then .stay s
    else
      let s1 := s.modGang th.gang (fun g => { g with bars := g.bars ++ [(f.c.toNat, s.cur)] })
      .closed (s1.setThread s.cur (waitAt th (.bar f.c.toNat))))

def execBarFol (f : T64) (s : State) : Out :=
  instr (.barFol f) s (fun th =>
    match s.gang th.gang with
    | some g => (match g.fgang with
      | none => .trap 0x42 (th.active (Instr.barFol f).guard) 0 0
      | some fg =>
        if !allPerformed th 2 then .stay s
        else
          let s1 := { s with fgangs := s.fgangs.change fg (fun x => { x with arrived := x.arrived ++ [s.cur] }) }
          .closed (s1.setThread s.cur (waitAt th .fol)))
    | none => .stay s)

/-- A gang barrier whose participants have all arrived releases (R203). -/
def execGangBarrierRelease (s : State) : Out :=
  .next (match s.gang s.inp.n1 with
  | none => s
  | some g =>
    let n := s.inp.n2
    let ps := liveThreads s g
    if ps ≠ [] ∧ ps.all (fun t => g.bars.contains (n, t)) then
      ps.foldl endWait (s.modGang s.inp.n1 (fun g => { g with bars := g.bars.filter (fun b => b.1 != n) }))
    else s)

/-- A folio barrier releases: every participant's quill drops its copies (R157, R204). -/
def execFolioBarrierRelease (s : State) : Out :=
  .next (match s.fgangs.find s.inp.n1 with
  | none => s
  | some fg =>
    let ps := fg.members.flatMap (fun m => match s.gang m with | some g => liveThreads s g | none => [])
    let qs := fg.members.filterMap (fun m => (s.gang m).map (fun g => g.quill))
    if ps ≠ [] ∧ ps.all (fun t => fg.arrived.contains t) then
      let s1 := { s with fgangs := s.fgangs.change s.inp.n1 (fun x => { x with arrived := [] }) }
      ps.foldl endWait (qs.foldl (fun s q => s.modQuill q cqClear) s1)
    else s)

/-! ## The decision queue (R206, R302, R169) -/

/-- Pushes of a thread that are not yet visible. -/
def pendingPushes (th : Thread) : Nat := (th.mq.filter (fun o => o.kind == .push)).length

/-- Words of the queue that are not freed (R206). -/
def dqHeld (s : State) (g : Gang) : Nat :=
  let ends := g.dqBase + g.dq.length
  let poss := (liveWarps s g).filterMap (fun t => (s.thread t).map (fun th => th.dqpos))
  ends - poss.foldl min ends

/-- Room for one more push. -/
def dqRoom (s : State) (g : Gang) (th : Thread) : Bool := decide (dqHeld s g + pendingPushes th < 64)

/-- Enter a push into the store queue of the nib. -/
def pushWord (th : Thread) (w : Word) : Thread :=
  pushOp th .push [{ lane := 0, tgt := .skip, size := 4, data := toBytes 4 w.toNat, cmp := [], got := [], ph := .pend,
                     poison := false, req := none, und := [] }] none none .none

def execDqpush (f : T64) (s : State) : Out :=
  instr (.dqpush f) s (fun th =>
    match s.gang th.gang with
    | none => .stay s
    | some g =>
      let w := th.sv f.a.toNat
      if dqRoom s g th then .done s (pushWord th w) else .closed (s.setThread s.cur (waitAt th (.push w))))

/-- A push that waited finds room. -/
def execDqpushWake (s : State) : Out :=
  .next (match s.threads.find? (fun e => e.2.quill == s.inp.n1 && e.2.nib && !e.2.exited) with
  | some (t, th) => (match th.wait, s.gang th.gang with
    | .push w, some g => if dqRoom s g th then s.setThread t (retireAt (pushWord th w) th.wend) else s
    | _, _ => s)
  | none => s)

/-- The next word for a warp, if there is one. -/
def dqWord (g : Gang) (th : Thread) : Option Word := if th.dqpos < g.dqBase then none else g.dq[th.dqpos - g.dqBase]?

/-- The nib has exited and none of its pushes is under way. -/
def nibClosed (s : State) (g : Gang) : Bool :=
  match g.nib with
  | some n => (match s.thread n with | some th => th.exited && pendingPushes th == 0 | none => true)
  | none => true

def execDqpop (f : T64) (s : State) : Out :=
  instr (.dqpop f) s (fun th =>
    let m := th.active (Instr.dqpop f).guard
    match s.gang th.gang with
    | none => .stay s
    | some g =>
      if g.nib.isNone then .trap 0x41 m 0 0
      else if !allPerformed th 1 then .stay s
      else match dqWord g th with
      | some w => .done s { th.setS f.d.toNat w with dqpos := th.dqpos + 1 }
      | none =>
        if nibClosed s g then .trap 0x40 m 0 0
        else .closed (s.setThread s.cur (waitAt th (.pop f.d.toNat))))

/-- A pop that waited goes on: it takes its word, or executes again and traps where the queue has closed (R206). -/
def execDqpopWake (s : State) : Out :=
  .next (match s.thread s.inp.n1 with
  | none => s
  | some th => match th.wait, s.gang th.gang with
    | .pop d, some g => (match dqWord g th with
      | some w => s.setThread s.inp.n1 (retireAt { th.setS d w with dqpos := th.dqpos + 1 } th.wend)
      | none => if nibClosed s g then s.setThread s.inp.n1 { th with wait := .none } else s)
    | _, _ => s)

/-! ## Ordered sections (R303, R304) -/

/-- Gangs with their threads, wherever they are: on the quills, or saved by a pre-emption (R304, R410). -/
def gangsAnywhere (s : State) : List ((Nat × Gang) × FMap Thread) :=
  s.gangs.map (fun e => (e, s.threads)) ++
  s.scrip.saved.flatMap (fun v => v.quills.flatMap (fun q => q.gangs.map (fun e => (e, q.threads))))

/-- A gang still counts for the sections of its grid: a warp lives (R303), or the section of a warp that halt has ended is not yet
released (R309). -/
def sectionOpen (g : Gang) (ts : FMap Thread) : Bool :=
  g.warps.any (fun t => match ts.find t with | some th => !th.exited | none => false) ||
  (match g.held with
    | some (w, _) => (match ts.find w with | some th => !allPerformed th 3 | none => false)
    | none => false)

/-- Every live gang of the grid with a lower sequence number is past the key (R303). -/
def mayEnter (s : State) (gid : Nat) (g : Gang) (key : Word) : Bool :=
  (gangsAnywhere s).all (fun e => decide (gid ≤ e.1.1) || e.1.2.grid != g.grid || !sectionOpen e.1.2 e.2 ||
    decide (e.1.2.frontier > key.toNat))

/-- A warp enters the section: an acquire at device scope. -/
def enterSection (s : State) (t gid : Nat) (key : Word) (q : Nat) : State :=
  (s.modGang gid (fun g => { g with held := some (t, key) })).modQuill q cqClear

/-- ordbeg (R303). While the gang holds a section the thread waits, and takes no trap (R406). -/
def execOrdbeg (f : T64) (s : State) : Out :=
  instr (.ordbeg f) s (fun th =>
    let key := th.sv f.a.toNat
    let m := th.active (Instr.ordbeg f).guard
    match s.gang th.gang with
    | none => .stay s
    | some g =>
      if g.held.isSome then .closed (s.setThread s.cur (waitAt th (.ordheld key m)))
      else if key.toNat < g.frontier then .trap 0x43 m (key.setWidth 64) 0
      else
        let g1 := { g with frontier := key.toNat }
        let s1 := s.setGang th.gang g1
        if mayEnter s1 th.gang g1 key then .retire (enterSection s1 s.cur th.gang key th.quill)
        else .closed (s1.setThread s.cur (waitAt th (.ordbeg key))))

/-- A waiting ordbeg goes on: once its gang holds no section, the key is judged, and the frontier moves to it; it enters its section when
every earlier gang has passed the key (R303). -/
def execOrdbegEnter (s : State) : Out :=
  .next (match s.thread s.inp.n1 with
  | none => s
  | some th => match th.wait, s.gang th.gang with
    | .ordheld key m, some g =>
      if g.held.isSome then s
      else if key.toNat < g.frontier then
        trapThread s s.inp.n1 th { cause := 0x43, orig := 0, set := m, pc := th.pcO, val := key.setWidth 64, syn := 0 }
      else (s.setGang th.gang { g with frontier := key.toNat }).setThread s.inp.n1 { th with wait := .ordbeg key }
    | .ordbeg key, some g =>
      if g.held.isNone ∧ mayEnter s th.gang g key then endWait (enterSection s s.inp.n1 th.gang key th.quill) s.inp.n1 else s
    | _, _ => s)

/-- End a section held by the executing warp: a release at device scope (R304). -/
def endSection (s : State) (th : Thread) : Res :=
  if !allPerformed th 3 then .stay s else .retire (s.modGang th.gang (fun g => relSection g s.cur))

def execOrdend (f : T64) (s : State) : Out :=
  instr (.ordend f) s (fun th =>
    let key := th.sv f.a.toNat
    match s.gang th.gang with
    | none => .stay s
    | some g => match g.held with
      | none => .retire (s.setGang th.gang { g with frontier := max g.frontier (key.toNat + 1) })
      | some (w, k) =>
        if w = s.cur ∧ k = key then endSection s th
        else .trap 0x43 (th.active (Instr.ordend f).guard) (key.setWidth 64) 0)

def execOrdrel (f : T64) (s : State) : Out :=
  instr (.ordrel f) s (fun th =>
    match s.gang th.gang with
    | none => .stay s
    | some g => match g.held with
      | some (w, _) => if w = s.cur then endSection s th else .retire s
      | none => .retire s)

/-! ## Services (R298-R300) -/

/-- rdtick (R298): no read of a thread gives less than its last one, also where a pre-emption has moved the thread to a quill whose
count is lower (log 56; log 28). -/
def execRdtick (clk : Bool) (f : T64) (s : State) : Out :=
  instr (.rdtick clk f) s (fun th =>
    if clk then
      let n := max (clkCount s th.quill) th.clkLow
      .done s ({ th with clkLow := n }.setSp f.d.toNat (BitVec.ofNat 64 n))
    else .done s (th.setSp f.d.toNat s.ticks))

/-- The phase of an inkwell bank (R122). -/
def bankPhase (b : Nat) : Nat := 5600 * (b % 24) + 700 * (b / 24)

/-- Ticks since the bank's last window opened (R122). -/
def bankQ (t b : Nat) : Nat := (t + 134400 - bankPhase b) % 134400

/-- The refresh calendar of a bank (R124). -/
def calendar (t b : Nat) : Word :=
  if b ≥ 192 then BitVec.allOnes 32
  else
    let q := bankQ t b
    if q < 1076 then BitVec.ofNat 32 (0x8000_0000 + (1076 - q)) else BitVec.ofNat 32 (134400 - q)

def execInkcal (f : T64) (s : State) : Out :=
  instr (.inkcal f) s (fun th => .done s (th.setS f.d.toNat (calendar (s.tick % 2 ^ 64) (th.sv f.a.toNat).toNat)))

/-- A launch mailbox word of a thread's grid (R209). -/
def mailbox (s : State) (th : Thread) (n : Nat) : Word :=
  match s.gang th.gang with
  | some g => (match s.grids.find g.grid with | some x => x.op.mbx.getD n 0 | none => 0)
  | none => 0

def execMbx (f : T64) (s : State) : Out :=
  instr (.mbx f) s (fun th => .done s (th.setS f.d.toNat (mailbox s th f.c.toNat)))

/-- The lines of a prefetch that lie within the segment and whose fetch would not fault (R300); a poisoned offset names none (log 83). -/
def ipfLines (s : State) (th : Thread) (f : T64) : List Nat :=
  match (if (th.sreg f.a.toNat).poison then none else th.seg) with
  | none => []
  | some e => ((List.range (f.c.toNat + 1)).map (fun i => (th.sv f.a.toNat).toNat / 128 + i)).filter (fun l =>
      decide (l * 128 < e.limit) && (match (walk s [] th.vmid th.asid (e.base + l * 128)).1 with
        | .ok lf => (permBad .fetch th.mode lf).isNone && !poisoned s (lf.pa + (e.base + l * 128) % 2 ^ lf.sz) 128
        | .bad _ _ _ => false))

/-- Lines pinned on a quill. -/
def pinned (s : State) (q : Nat) : Nat :=
  s.gangs.foldl (fun n e => if e.2.quill = q then n + e.2.pins.length else n) 0

def execIpf (k : IpfKind) (f : T64) (s : State) : Out :=
  instr (.ipf k f) s (fun th =>
    let ls := (ipfLines s th f).map (fun l => (th.pcH.toNat, l))
    match k with
    | .pf => .retire s
    | .pin => .retire (ls.foldl (fun s p =>
        if pinned s th.quill < 512 then s.modGang th.gang (fun g => if g.pins.contains p then g else { g with pins := g.pins ++ [p] })
        else s) s)
    | .unpin => .retire (s.modGang th.gang (fun g => { g with pins := g.pins.filter (fun p => !ls.contains p) })))

/-- Bits of fstat that hold (R241, R283). -/
def fstatMask (nib : Bool) : Word := if nib then 0x3FF#32 else 0x03FF_03FF#32

def execFsmov (k : FsKind) (f : T64) (s : State) : Out :=
  instr (.fsmov k f) s (fun th =>
    match k with
    | .rd => .done s (th.setS f.d.toNat th.fstat)
    | .wr => .done s { th with fstat := th.sv f.a.toNat &&& fstatMask th.nib }
    | .clr => .done s { th with fstat := th.fstat &&& ~~~(th.sv f.a.toNat &&& 0x3FF#32) })

end Sys2Proof.Machine
end

