-- ==== Sys2Proof/Machine/Scalar.lean ====
section
/-! DEFINITION. Scalar arithmetic, constants, compares, predicates and the mask (11 R284-R290). -/
namespace Sys2Proof.Machine
open Sys2Proof

/-- A scalar result with its flags. -/
abbrev SRes := DWord × Flags

/-- Width of a scalar operation. -/
def sWidth (dbl : Bool) : Nat := if dbl then 64 else 32

/-- A source of a scalar operation: one register or a pair. -/
def sSrc (th : Thread) (dbl : Bool) (n : Nat) : DWord := if dbl then th.sp n else (th.sv n).setWidth 64

/-- The shape of a scalar operation (R281): destination, width, result. -/
def scalarOp (i : Instr) (s : State) (dbl : Bool) (d : Nat) (f : Thread → SRes) : Out :=
  instr i s (fun th => let r := f th; wholeFlags s (th.setSx dbl d r.1) (th.active i.guard) r.2)

/-! ## The functions of R284 -/

/-- A + B or A - B (R285). -/
def sAddF (sub sat : Bool) (w : Nat) (a b : DWord) : SRes :=
  let x := sext a.toNat w
  let y := sext b.toNat w
  let r := satInt sat true w (if sub then x - y else x + y)
  (BitVec.ofNat 64 r.1, r.2)

/-- The low half of a product (R284). -/
def sMulF (sat : Bool) (a b : DWord) : SRes :=
  let r := satInt sat true 32 (sext a.toNat 32 * sext b.toNat 32)
  (BitVec.ofNat 64 r.1, r.2)

/-- The high half of a product (R284). -/
def sMulHiF (signed : Bool) (a b : Word) : SRes :=
  let p : Int := if signed then a.toInt * b.toInt else (a.toNat : Int) * b.toNat
  ((BitVec.ofInt 64 p >>> 32), 0)

/-- Left shift by n (R284). -/
def sShlF (w : Nat) (a : DWord) (n : Nat) : SRes := (if n ≥ w then 0 else a <<< n, 0)

/-- Right shift by n (R284). -/
def sShrF (arith : Bool) (w : Nat) (a : DWord) (n : Nat) : SRes :=
  if arith then (BitVec.ofInt 64 (sext a.toNat w / 2 ^ (min n w)), 0)
  else (BitVec.ofNat 64 (fieldN a.toNat 0 w / 2 ^ (min n w)), 0)

/-- Minimum or maximum of two words (R284). -/
def sMinMaxF (mx signed : Bool) (a b : DWord) : SRes :=
  let lt := if signed then decide (sext a.toNat 32 < sext b.toNat 32) else decide (fieldN a.toNat 0 32 < fieldN b.toNat 0 32)
  (if lt != mx then a else b, 0)

/-- Bits [7:0] of a shift count. -/
def shCount (b : DWord) : Nat := fieldN b.toNat 0 8

/-- Register numbers of a T32 form with the source values. -/
def sT32 (i : Instr) (s : State) (d a b : BitVec 5) (f : Thread → DWord → DWord → SRes) : Out :=
  scalarOp i s false (match s.thread s.cur with | some th => th.latch.px.d d | none => 0)
    (fun th => f th (sSrc th false (th.latch.px.a a)) (sSrc th false (th.latch.px.b b)))

/-- A T64 register form with .d. -/
def sT64 (i : Instr) (s : State) (f : T64) (dblB : Bool) (g : Thread → Nat → DWord → DWord → SRes) : Out :=
  scalarOp i s f.dbl f.d.toNat
    (fun th => g th (sWidth f.dbl) (sSrc th f.dbl f.a.toNat) (sSrc th (f.dbl && dblB) f.b.toNat))

/-- Sign extension of imm32 (R285). -/
def sxImm (y : Word) : DWord := y.signExtend 64

/-- A long form: registers, or an immediate made by `imm`. -/
def sLong (i : Instr) (s : State) (f : SForm) (imm : Word → DWord) (g : Thread → Bool → Nat → DWord → DWord → SRes) : Out :=
  match f with
  | .reg f => sT64 i s f true (fun th => g th (f.sat th.latch.px))
  | .imm d a y => scalarOp i s false d.toNat (fun th => g th th.latch.px.sat 32 (sSrc th false a.toNat) (imm y))
  | .immD d a y => scalarOp i s true d.toNat (fun th => g th th.latch.px.sat 64 (sSrc th true a.toNat) (imm y))

def execSaddT32 (d a b : BitVec 5) (s : State) : Out :=
  sT32 (.saddT32 d a b) s d a b (fun th x y => sAddF false th.latch.px.sat 32 x y)
def execSaddT64 (f : SForm) (s : State) : Out :=
  sLong (.saddT64 f) s f sxImm (fun _ sat w x y => sAddF false sat w x y)
def execSsubT32 (d a b : BitVec 5) (s : State) : Out :=
  sT32 (.ssubT32 d a b) s d a b (fun th x y => sAddF true th.latch.px.sat 32 x y)
def execSsubT64 (f : T64) (s : State) : Out :=
  sT64 (.ssubT64 f) s f true (fun th w x y => sAddF true (f.sat th.latch.px) w x y)
def execSandT32 (d a b : BitVec 5) (s : State) : Out :=
  sT32 (.sandT32 d a b) s d a b (fun _ x y => (x &&& y, 0))
def execSandT64 (f : SForm) (s : State) : Out :=
  sLong (.sandT64 f) s f (BitVec.setWidth 64) (fun _ _ _ x y => (x &&& y, 0))
def execSorT32 (d a b : BitVec 5) (s : State) : Out :=
  sT32 (.sorT32 d a b) s d a b (fun _ x y => (x ||| y, 0))
def execSorT64 (f : SForm) (s : State) : Out :=
  sLong (.sorT64 f) s f (BitVec.setWidth 64) (fun _ _ _ x y => (x ||| y, 0))
def execSxorT32 (d a b : BitVec 5) (s : State) : Out :=
  sT32 (.sxorT32 d a b) s d a b (fun _ x y => (x ^^^ y, 0))
def execSxorT64 (f : SForm) (s : State) : Out :=
  sLong (.sxorT64 f) s f (BitVec.setWidth 64) (fun _ _ _ x y => (x ^^^ y, 0))
def execSshlT32 (d a b : BitVec 5) (s : State) : Out :=
  sT32 (.sshlT32 d a b) s d a b (fun _ x y => sShlF 32 x (shCount y))
def execSshlT64 (f : T64) (s : State) : Out :=
  sT64 (.sshlT64 f) s f false (fun _ w x y => sShlF w x (shCount y))
def execSshrT32 (ar : Bool) (d a b : BitVec 5) (s : State) : Out :=
  sT32 (.sshrT32 ar d a b) s d a b (fun _ x y => sShrF ar 32 x (shCount y))
def execSshrT64 (ar : Bool) (f : T64) (s : State) : Out :=
  sT64 (.sshrT64 ar f) s f false (fun _ w x y => sShrF ar w x (shCount y))
def execSmulT32 (d a b : BitVec 5) (s : State) : Out :=
  sT32 (.smulT32 d a b) s d a b (fun th x y => sMulF th.latch.px.sat x y)

def execSmulT64 (f : SMulForm) (s : State) : Out :=
  match f with
  | .reg g => sT64 (.smulT64 f) s g true (fun th _ x y => sMulF (g.sat th.latch.px) x y)
  | .imm d a y => scalarOp (.smulT64 f) s false d.toNat (fun th => sMulF th.latch.px.sat (sSrc th false a.toNat) (sxImm y))
  | .hi sg g => sT64 (.smulT64 f) s g true (fun _ _ x y => sMulHiF sg (lo32 x) (lo32 y))

def execSminST32 (d a b : BitVec 5) (s : State) : Out :=
  sT32 (.sminST32 d a b) s d a b (fun _ x y => sMinMaxF false true x y)
def execSminUT32 (d a b : BitVec 5) (s : State) : Out :=
  sT32 (.sminUT32 d a b) s d a b (fun _ x y => sMinMaxF false false x y)
def execSminT64 (sg : Bool) (f : SForm) (s : State) : Out :=
  sLong (.sminT64 sg f) s f (fun y => if sg then sxImm y else y.setWidth 64) (fun _ _ _ x y => sMinMaxF false sg x y)
def execSmaxST32 (d a b : BitVec 5) (s : State) : Out :=
  sT32 (.smaxST32 d a b) s d a b (fun _ x y => sMinMaxF true true x y)
def execSmaxUT32 (d a b : BitVec 5) (s : State) : Out :=
  sT32 (.smaxUT32 d a b) s d a b (fun _ x y => sMinMaxF true false x y)
def execSmaxT64 (sg : Bool) (f : SForm) (s : State) : Out :=
  sLong (.smaxT64 sg f) s f (fun y => if sg then sxImm y else y.setWidth 64) (fun _ _ _ x y => sMinMaxF true sg x y)

/-- Division (R286); register c is written last. -/
def execSdiv (sg : Bool) (f : T64) (s : State) : Out :=
  instr (.sdiv sg f) s (fun th =>
    let r := divide sg (th.sv f.a.toNat) (th.sv f.b.toNat)
    wholeFlags s ((th.setS f.d.toNat r.1).setS f.c.toNat r.2.1) (th.active (Instr.sdiv sg f).guard) r.2.2)

/-- A bit field of a word (R284). -/
def bitField (k : BfKind) (a old : Word) (pos wid : Nat) : Word :=
  match k with
  | .extractU => BitVec.ofNat 32 (fieldN a.toNat pos wid)
  | .extractS => w32 (sext (a.toNat / 2 ^ pos) wid)
  | .insert =>
    let m : Word := BitVec.ofNat 32 ((2 ^ wid - 1) * 2 ^ pos)
    (old &&& ~~~m) ||| ((a <<< pos) &&& m)

def execSbf (k : BfKind) (f : T64) (s : State) : Out :=
  scalarOp (.sbf k f) s false f.d.toNat (fun th =>
    ((bitField k (th.sv f.a.toNat) (th.sv f.d.toNat) f.b.toNat f.c.toNat).setWidth 64, 0))

/-- Number of set bits among the low n. -/
def popN (x n : Nat) : Nat := ((List.range n).filter (fun i => bitN x i)).length

/-- Bit counts of a word (R284). -/
def countBits (k : CntKind) (a : Word) : Word :=
  match k with
  | .pop => BitVec.ofNat 32 (popN a.toNat 32)
  | .clz => BitVec.ofNat 32 (if a = 0 then 32 else 31 - Nat.log2 a.toNat)
  | .ctz => BitVec.ofNat 32 ((firstBelow 32 (fun i => bitN a.toNat i)).getD 32)

def execScnt (k : CntKind) (f : T64) (s : State) : Out :=
  scalarOp (.scnt k f) s false f.d.toNat (fun th => ((countBits k (th.sv f.a.toNat)).setWidth 64, 0))

def execSset (dbl : Bool) (d a : BitVec 8) (y : Word) (s : State) : Out :=
  scalarOp (.sset dbl d a y) s dbl d.toNat (fun _ => (sxImm y, 0))

/-! ## Short immediates (R287) -/

/-- An I32 form: the source and the immediate. -/
def sI32 (i : Instr) (s : State) (a d : BitVec 5) (f : Thread → DWord → SRes) : Out :=
  scalarOp i s false (match s.thread s.cur with | some th => th.latch.px.d d | none => 0)
    (fun th => f th (sSrc th false (th.latch.px.a a)))

def execSaddi (imm : BitVec 12) (a d : BitVec 5) (s : State) : Out :=
  sI32 (.saddi imm a d) s a d (fun th x => sAddF false th.latch.px.sat 32 x (imm.signExtend 64))
def execSandi (imm : BitVec 12) (a d : BitVec 5) (s : State) : Out :=
  sI32 (.sandi imm a d) s a d (fun _ x => (x &&& imm.signExtend 64, 0))
def execSori (imm : BitVec 12) (a d : BitVec 5) (s : State) : Out :=
  sI32 (.sori imm a d) s a d (fun _ x => (x ||| imm.signExtend 64, 0))
def execSshli (imm : BitVec 12) (a d : BitVec 5) (s : State) : Out :=
  sI32 (.sshli imm a d) s a d (fun _ x => sShlF 32 x imm.toNat)
def execSshri (ar : Bool) (imm : BitVec 12) (a d : BitVec 5) (s : State) : Out :=
  sI32 (.sshri ar imm a d) s a d (fun _ x => sShrF ar 32 x imm.toNat)

/-! ## Constants (R288) -/

def execSlh (imm : BitVec 20) (d : BitVec 5) (s : State) : Out :=
  scalarOp (.slh imm d) s false (match s.thread s.cur with | some th => th.latch.px.d d | none => 0)
    (fun _ => (BitVec.ofNat 64 (imm.toNat * 2 ^ 12), 0))
def execSpch (imm : BitVec 20) (d : BitVec 5) (s : State) : Out :=
  scalarOp (.spch imm d) s false (match s.thread s.cur with | some th => th.latch.px.d d | none => 0)
    (fun th => (BitVec.ofNat 64 (th.own + imm.toNat * 2 ^ 12), 0))

/-! ## Compares and selects (R289) -/

/-- Conditions of scmp. -/
def sCond (c : BitVec 3) (a b : Word) : Bool :=
  match c.toNat with
  | 0 => a == b
  | 1 => a != b
  | 2 => decide (a.toInt < b.toInt)
  | 3 => decide (a.toInt ≥ b.toInt)
  | 4 => decide (a.toNat < b.toNat)
  | _ => decide (a.toNat ≥ b.toNat)

def execScmp (cond : BitVec 3) (b a : BitVec 5) (p : BitVec 3) (s : State) : Out :=
  instr (.scmp cond b a p) s (fun th =>
    let x := th.latch.px
    .done s (th.setK p.toNat (if sCond cond (th.sv (x.a a)) (th.sv (x.b b)) then BitVec.allOnes 96 else 0)))

/-- cond of ssel: set in an active lane; in the nib bit 0 (R289). -/
def selCond (th : Thread) (n : Nat) : Bool :=
  if th.nib then (th.kbits n).getLsbD 0 else th.mask &&& th.kbits n != 0

def execSsel (neg : Bool) (n : BitVec 3) (b a d : BitVec 5) (s : State) : Out :=
  instr (.ssel neg n b a d) s (fun th =>
    let x := th.latch.px
    let c := selCond th n.toNat != neg
    .done s (th.setS (x.d d) (if c then th.sv (x.a a) else th.sv (x.b b))))

/-! ## Predicates and the mask (R290) -/

/-- The kop functions. -/
def kopF (f : BitVec 3) (a b : Mask) : Mask :=
  match f.toNat with
  | 0 => a &&& b
  | 1 => a ||| b
  | 2 => a ^^^ b
  | 3 => a &&& ~~~b
  | 4 => ~~~a
  | _ => a

def execKop (f r q p : BitVec 3) (s : State) : Out :=
  instr (.kop f r q p) s (fun th => .done s (th.setK p.toNat (kopF f (th.kbits q.toNat) (th.kbits r.toNat))))

/-- A mask in three scalar registers. -/
def sTriple (th : Thread) (n : Nat) : Mask := th.sv (n + 2) ++ th.sv (n + 1) ++ th.sv n

/-- Write a mask into three scalar registers. -/
def setTriple (th : Thread) (n : Nat) (m : Mask) : Thread :=
  ((th.setS n (m.extractLsb' 0 32)).setS (n + 1) (m.extractLsb' 32 32)).setS (n + 2) (m.extractLsb' 64 32)

def execKopKs (a : BitVec 5) (p : BitVec 3) (s : State) : Out :=
  instr (.kopKs a p) s (fun th => .done s (th.setK p.toNat (sTriple th (th.latch.px.a a))))

def execKopSk (q : BitVec 3) (d : BitVec 5) (s : State) : Out :=
  instr (.kopSk q d) s (fun th =>
    let m := th.kbits q.toNat
    .done s (setTriple th (th.latch.px.d d) (if th.nib then m &&& 1 else m)))

def execMsplit (neg : Bool) (q : BitVec 3) (d : BitVec 5) (s : State) : Out :=
  instr (.msplit neg q d) s (fun th =>
    let m := th.mask
    let k := th.kbits q.toNat
    .done s ((setTriple th (th.latch.px.d d) m).setMask (m &&& (if neg then ~~~k else k))))

def execMjoin (a : BitVec 5) (s : State) : Out :=
  instr (.mjoin a) s (fun th => .done s (th.setMask (sTriple th (th.latch.px.a a))))

end Sys2Proof.Machine
end

