-- ==== Sys2Proof/Machine/VecInt.lean ====
section
/-! DEFINITION. Vector integer arithmetic, division and wide products (12 R312-R320). -/
namespace Sys2Proof.Machine
open Sys2Proof

/-! ## Elements (R314-R316) -/

/-- Element width of a width code. -/
def elemBits (wd : BitVec 2) : Nat :=
  match wd.toNat with
  | 0 => 32
  | 1 => 16
  | 2 => 8
  | _ => 64

/-- Elements in a lane. -/
def elemCount (wd : BitVec 2) : Nat :=
  match wd.toNat with
  | 1 => 2
  | 2 => 4
  | _ => 1

/-- An integer function of elements: width, x, y, z; its result modulo 2^width and its flags. -/
abbrev EFn := Nat → Nat → Nat → Nat → Nat × Flags

/-- Apply an element function to the elements of a lane (R316). -/
def packed (wd : BitVec 2) (f : EFn) (a b c : DWord) : DWord × Flags :=
  let e := elemBits wd
  let r := (List.range (elemCount wd)).map (fun i =>
    f e (fieldN a.toNat (e * i) e) (fieldN b.toNat (e * i) e) (fieldN c.toNat (e * i) e))
  (BitVec.ofNat 64 (r.foldr (fun x acc => x.1 + 2 ^ e * acc) 0), r.foldl (fun fl x => fl ||| x.2) 0)

/-- An element as an integer. -/
def elemInt (u : Bool) (e x : Nat) : Int := if u then x else sext x e

def eAdd (u sat : Bool) : EFn := fun e x y _ => satInt sat (!u) e (elemInt u e x + elemInt u e y)
def eSub (u sat : Bool) : EFn := fun e x y _ => satInt sat (!u) e (elemInt u e x - elemInt u e y)
def eMul (u sat : Bool) : EFn := fun e x y _ => satInt sat (!u) e (elemInt u e x * elemInt u e y)
def eMad (u sat : Bool) : EFn := fun e x y z => satInt sat (!u) e (elemInt u e x * elemInt u e y + elemInt u e z)
def eAvg (u : Bool) : EFn := fun e x y _ => (wrapN e ((elemInt u e x + elemInt u e y + 1) / 2), 0)
def eAnd : EFn := fun _ x y _ => (x &&& y, 0)
def eOr : EFn := fun _ x y _ => (x ||| y, 0)
def eXor : EFn := fun _ x y _ => (x ^^^ y, 0)
def eAndn : EFn := fun e x y _ => (x &&& (2 ^ e - 1 - y), 0)
def eShl : EFn := fun e x y _ => (if y % 256 ≥ e then 0 else x * 2 ^ (y % 256) % 2 ^ e, 0)
def eShrU : EFn := fun e x y _ => (x / 2 ^ (min (y % 256) e), 0)
def eShrS : EFn := fun e x y _ => (wrapN e (sext x e / 2 ^ (min (y % 256) e)), 0)
/-- Rotation left, a shift of R315 (log 42). -/
def eRot : EFn := fun e x y _ =>
  let n := y % 256 % e
  ((x * 2 ^ n + x / 2 ^ (e - n)) % 2 ^ e, 0)
def eMin (u : Bool) : EFn := fun e x y _ => (if elemInt u e x ≤ elemInt u e y then x else y, 0)
def eMax (u : Bool) : EFn := fun e x y _ => (if elemInt u e x ≥ elemInt u e y then x else y, 0)
def eAbsd (u : Bool) : EFn := fun e x y _ => ((elemInt u e x - elemInt u e y).natAbs % 2 ^ e, 0)
def eClamp (u : Bool) : EFn := fun e x y z =>
  let m := if elemInt u e x ≥ elemInt u e y then x else y
  (if elemInt u e m ≤ elemInt u e z then m else z, 0)

/-- Bits of a word in reverse order (R315). -/
def revBits (a : Word) : Word := BitVec.ofNat 32 ((List.range 32).foldl (fun r i => if bitN a.toNat i then r + 2 ^ (31 - i) else r) 0)

/-! ## The shape of a lane operation (R312) -/

/-- Read a lane of a register or pair. -/
def vsrc (th : Thread) (p : Bool) (n L : Nat) : DWord := if p then th.lanep n L else (th.lane n L).setWidth 64

/-- Read source b: a lane, or a scalar for every lane (R314). -/
def bsrcOf (th : Thread) (bs p : Bool) (n L : Nat) : DWord := if bs then sSrc th p n else vsrc th p n L

/-- Write a register or pair in the lanes of a mask. -/
def setVx (th : Thread) (p : Bool) (n : Nat) (m : Mask) (f : Nat → DWord) : Thread :=
  if p then th.setVp n m f else th.setV n m (fun L => lo32 (f L))

/-- A lane operation: destination, whether it is a pair, and the value and flags of each lane. -/
def laneOp (i : Instr) (s : State) (p : Bool) (d : Thread → Nat) (f : Thread → Nat → DWord × Flags) : Out :=
  instr i s (fun th =>
    let m := th.active i.guard
    laneFlags s (setVx th p (d th) m (fun L => (f th L).1)) ((lanesOf m).map (fun L => (L, (f th L).2))))

/-- T32 integer function (R314). -/
def vT32 (i : Instr) (s : State) (bs : Bool) (wd : BitVec 2) (rb ra rd : BitVec 5) (f : Thread → EFn) : Out :=
  laneOp i s (wd == 3) (fun th => th.latch.px.d rd) (fun th L =>
    packed wd (f th) (vsrc th (wd == 3) (th.latch.px.a ra) L) (bsrcOf th bs (wd == 3) (th.latch.px.b rb) L) 0)

/-- I32 integer function (R318): y is the immediate. -/
def vI32 (i : Instr) (s : State) (ra rd : BitVec 5) (y : DWord) (f : Thread → EFn) : Out :=
  laneOp i s false (fun th => th.latch.px.d rd) (fun th L => packed 0 (f th) (vsrc th false (th.latch.px.a ra) L) y 0)

/-- T64 integer function with up to three sources. -/
def vT64 (i : Instr) (s : State) (wd : BitVec 2) (f : T64) (g : Thread → EFn) : Out :=
  laneOp i s (wd == 3) (fun _ => f.d.toNat) (fun th L =>
    packed wd (g th) (vsrc th (wd == 3) f.a.toNat L) (bsrcOf th f.bs (wd == 3) f.b.toNat L) (vsrc th (wd == 3) f.c.toNat L))

/-- A long form (R314, R319); the function takes whether saturation is requested. -/
def vLong (i : Instr) (s : State) (f : VForm) (g : Bool → EFn) : Out :=
  match f with
  | .reg wd f => vT64 i s wd f (fun th => g (f.sat th.latch.px))
  | .imm d a y => laneOp i s false (fun _ => d.toNat) (fun th L =>
      packed 0 (g th.latch.px.sat) (vsrc th false a.toNat L) (y.setWidth 64) 0)

/-! ## The functions (R315) -/

def execVaddT32 (bs : Bool) (wd : BitVec 2) (u : Bool) (b a d : BitVec 5) (s : State) : Out :=
  vT32 (.vaddT32 bs wd u b a d) s bs wd b a d (fun th => eAdd u th.latch.px.sat)
def execVaddT64 (u : Bool) (f : VForm) (s : State) : Out :=
  vLong (.vaddT64 u f) s f (fun sat => eAdd u sat)
def execVsubT32 (bs : Bool) (wd : BitVec 2) (u : Bool) (b a d : BitVec 5) (s : State) : Out :=
  vT32 (.vsubT32 bs wd u b a d) s bs wd b a d (fun th => eSub u th.latch.px.sat)
def execVsubT64 (u : Bool) (f : VForm) (s : State) : Out :=
  vLong (.vsubT64 u f) s f (fun sat => eSub u sat)
def execVmulT32 (bs : Bool) (wd : BitVec 2) (u : Bool) (b a d : BitVec 5) (s : State) : Out :=
  vT32 (.vmulT32 bs wd u b a d) s bs wd b a d (fun th => eMul u th.latch.px.sat)
def execVmulT64 (u : Bool) (f : VForm) (s : State) : Out :=
  vLong (.vmulT64 u f) s f (fun sat => eMul u sat)
def execVavgT32 (bs : Bool) (wd : BitVec 2) (u : Bool) (b a d : BitVec 5) (s : State) : Out :=
  vT32 (.vavgT32 bs wd u b a d) s bs wd b a d (fun _ => eAvg u)
def execVavgT64 (u : Bool) (f : VForm) (s : State) : Out :=
  vLong (.vavgT64 u f) s f (fun _ => eAvg u)
def execVandT32 (bs : Bool) (wd : BitVec 2) (b a d : BitVec 5) (s : State) : Out :=
  vT32 (.vandT32 bs wd b a d) s bs wd b a d (fun _ => eAnd)
def execVandT64 (f : VForm) (s : State) : Out :=
  vLong (.vandT64 f) s f (fun _ => eAnd)
def execVorT32 (bs : Bool) (wd : BitVec 2) (b a d : BitVec 5) (s : State) : Out :=
  vT32 (.vorT32 bs wd b a d) s bs wd b a d (fun _ => eOr)
def execVorT64 (f : VForm) (s : State) : Out :=
  vLong (.vorT64 f) s f (fun _ => eOr)
def execVxorT32 (bs : Bool) (wd : BitVec 2) (b a d : BitVec 5) (s : State) : Out :=
  vT32 (.vxorT32 bs wd b a d) s bs wd b a d (fun _ => eXor)
def execVxorT64 (f : VForm) (s : State) : Out :=
  vLong (.vxorT64 f) s f (fun _ => eXor)
def execVandnT32 (bs : Bool) (wd : BitVec 2) (b a d : BitVec 5) (s : State) : Out :=
  vT32 (.vandnT32 bs wd b a d) s bs wd b a d (fun _ => eAndn)
def execVandnT64 (f : VForm) (s : State) : Out :=
  vLong (.vandnT64 f) s f (fun _ => eAndn)
def execVshlT32 (bs : Bool) (wd : BitVec 2) (b a d : BitVec 5) (s : State) : Out :=
  vT32 (.vshlT32 bs wd b a d) s bs wd b a d (fun _ => eShl)
def execVshlT64 (f : VForm) (s : State) : Out :=
  vLong (.vshlT64 f) s f (fun _ => eShl)
def execVrotT32 (bs : Bool) (wd : BitVec 2) (b a d : BitVec 5) (s : State) : Out :=
  vT32 (.vrotT32 bs wd b a d) s bs wd b a d (fun _ => eRot)
def execVrotT64 (f : VForm) (s : State) : Out :=
  vLong (.vrotT64 f) s f (fun _ => eRot)
def execVminT32 (bs : Bool) (wd : BitVec 2) (u : Bool) (b a d : BitVec 5) (s : State) : Out :=
  vT32 (.vminT32 bs wd u b a d) s bs wd b a d (fun _ => eMin u)
def execVminT64 (u : Bool) (f : VForm) (s : State) : Out :=
  vLong (.vminT64 u f) s f (fun _ => eMin u)
def execVmaxT32 (bs : Bool) (wd : BitVec 2) (u : Bool) (b a d : BitVec 5) (s : State) : Out :=
  vT32 (.vmaxT32 bs wd u b a d) s bs wd b a d (fun _ => eMax u)
def execVmaxT64 (u : Bool) (f : VForm) (s : State) : Out :=
  vLong (.vmaxT64 u f) s f (fun _ => eMax u)
def execVabsdT32 (bs : Bool) (wd : BitVec 2) (u : Bool) (b a d : BitVec 5) (s : State) : Out :=
  vT32 (.vabsdT32 bs wd u b a d) s bs wd b a d (fun _ => eAbsd u)
def execVabsdT64 (u : Bool) (f : VForm) (s : State) : Out :=
  vLong (.vabsdT64 u f) s f (fun _ => eAbsd u)
def execVshrUT32 (bs : Bool) (wd : BitVec 2) (b a d : BitVec 5) (s : State) : Out :=
  vT32 (.vshrUT32 bs wd b a d) s bs wd b a d (fun _ => eShrU)
def execVshrST32 (bs : Bool) (wd : BitVec 2) (b a d : BitVec 5) (s : State) : Out :=
  vT32 (.vshrST32 bs wd b a d) s bs wd b a d (fun _ => eShrS)
def execVshrT64 (ar : Bool) (f : VForm) (s : State) : Out :=
  vLong (.vshrT64 ar f) s f (fun _ => if ar then eShrS else eShrU)

/-! ## Short immediates (R318) -/

def execVaddI32 (imm : BitVec 12) (a d : BitVec 5) (s : State) : Out :=
  vI32 (.vaddI32 imm a d) s a d ((imm.signExtend 32).setWidth 64) (fun th => eAdd false th.latch.px.sat)
def execVmulI32 (imm : BitVec 12) (a d : BitVec 5) (s : State) : Out :=
  vI32 (.vmulI32 imm a d) s a d ((imm.signExtend 32).setWidth 64) (fun th => eMul false th.latch.px.sat)
def execVandI32 (imm : BitVec 12) (a d : BitVec 5) (s : State) : Out :=
  vI32 (.vandI32 imm a d) s a d ((imm.signExtend 32).setWidth 64) (fun _ => eAnd)
def execVorI32 (imm : BitVec 12) (a d : BitVec 5) (s : State) : Out :=
  vI32 (.vorI32 imm a d) s a d ((imm.signExtend 32).setWidth 64) (fun _ => eOr)
def execVxorI32 (imm : BitVec 12) (a d : BitVec 5) (s : State) : Out :=
  vI32 (.vxorI32 imm a d) s a d ((imm.signExtend 32).setWidth 64) (fun _ => eXor)
def execVshlI32 (imm : BitVec 12) (a d : BitVec 5) (s : State) : Out :=
  vI32 (.vshlI32 imm a d) s a d (imm.setWidth 64) (fun _ => eShl)
def execVshrUI32 (imm : BitVec 12) (a d : BitVec 5) (s : State) : Out :=
  vI32 (.vshrUI32 imm a d) s a d (imm.setWidth 64) (fun _ => eShrU)
def execVshrSI32 (imm : BitVec 12) (a d : BitVec 5) (s : State) : Out :=
  vI32 (.vshrSI32 imm a d) s a d (imm.setWidth 64) (fun _ => eShrS)

/-! ## Addresses, single words, three sources (R315) -/

/-- A pair plus a sign-extended word. -/
def addaF (a : DWord) (b : Word) : DWord × Flags := (a + b.signExtend 64, 0)

def execVaddaT32 (bs : Bool) (b a d : BitVec 5) (s : State) : Out :=
  laneOp (.vaddaT32 bs b a d) s true (fun th => th.latch.px.d d) (fun th L =>
    addaF (th.lanep (th.latch.px.a a) L) (lo32 (bsrcOf th bs false (th.latch.px.b b) L)))
def execVaddaT64 (f : VForm) (s : State) : Out :=
  match f with
  | .reg _ g => laneOp (.vaddaT64 f) s true (fun _ => g.d.toNat) (fun th L =>
      addaF (th.lanep g.a.toNat L) (lo32 (bsrcOf th g.bs false g.b.toNat L)))
  | .imm d a y => laneOp (.vaddaT64 f) s true (fun _ => d.toNat) (fun th L => addaF (th.lanep a.toNat L) y)

/-- A function of one word: T32. -/
def vUn32 (i : Instr) (s : State) (a d : BitVec 5) (f : Word → Word) : Out :=
  laneOp i s false (fun th => th.latch.px.d d) (fun th L => ((f (th.lane (th.latch.px.a a) L)).setWidth 64, 0))
/-- A function of one word: T64. -/
def vUn64 (i : Instr) (s : State) (f : T64) (g : Word → Word) : Out :=
  laneOp i s false (fun _ => f.d.toNat) (fun th L => ((g (th.lane f.a.toNat L)).setWidth 64, 0))

def execVbrevT32 (a d : BitVec 5) (s : State) : Out := vUn32 (.vbrevT32 a d) s a d revBits
def execVbrevT64 (wd : BitVec 2) (f : T64) (s : State) : Out := vUn64 (.vbrevT64 wd f) s f revBits
def execVcntPopT32 (a d : BitVec 5) (s : State) : Out := vUn32 (.vcntPopT32 a d) s a d (countBits .pop)
def execVcntClzT32 (a d : BitVec 5) (s : State) : Out := vUn32 (.vcntClzT32 a d) s a d (countBits .clz)
def execVcntCtzT32 (a d : BitVec 5) (s : State) : Out := vUn32 (.vcntCtzT32 a d) s a d (countBits .ctz)
def execVcntT64 (k : CntKind) (wd : BitVec 2) (f : T64) (s : State) : Out := vUn64 (.vcntT64 k wd f) s f (countBits k)

def execVmad (u : Bool) (wd : BitVec 2) (f : T64) (s : State) : Out :=
  vT64 (.vmad u wd f) s wd f (fun th => eMad u (f.sat th.latch.px))
def execVclamp (u : Bool) (wd : BitVec 2) (f : T64) (s : State) : Out :=
  vT64 (.vclamp u wd f) s wd f (fun _ => eClamp u)

def execVshf (wd : BitVec 2) (f : T64) (s : State) : Out :=
  laneOp (.vshf wd f) s false (fun _ => f.d.toNat) (fun th L =>
    (join64 (th.lane f.a.toNat L) (th.lane f.c.toNat L) >>> fieldN (bsrcOf th f.bs false f.b.toNat L).toNat 0 5, 0))

def execVbf (k : BfKind) (wd : BitVec 2) (f : T64) (s : State) : Out :=
  laneOp (.vbf k wd f) s false (fun _ => f.d.toNat) (fun th L =>
    ((bitField k (th.lane f.a.toNat L) (th.lane f.d.toNat L) f.b.toNat f.c.toNat).setWidth 64, 0))

/-- The bytes that vbyte selects. -/
def byteSel (a b c : Word) : Word :=
  BitVec.ofNat 32 (ofBytes ((List.range 4).map (fun i =>
    if bitN c.toNat (4 * i + 3) then 0 else (BitVec.ofNat 8 (fieldN (join64 b a).toNat (8 * fieldN c.toNat (4 * i) 3) 8)))))

def execVbyte (wd : BitVec 2) (f : T64) (s : State) : Out :=
  laneOp (.vbyte wd f) s false (fun _ => f.d.toNat) (fun th L =>
    ((byteSel (th.lane f.a.toNat L) (th.lane f.b.toNat L) (th.lane f.c.toNat L)).setWidth 64, 0))

/-- Write the bits of a mask in a predicate; the others keep (R312). -/
def setKlanes (th : Thread) (n : Nat) (m bits : Mask) : Thread :=
  let old := th.kbits n
  let p := (th.k.getD n { bits := 0, poison := 0 }).poison
  let new := (old &&& ~~~m) ||| (bits &&& m)
  -- a third is whole again once all of its bits are written
  let keep : BitVec 3 := (List.range 3).foldl (fun a i =>
    if p.getLsbD i && m.extractLsb' (32 * i) 32 != BitVec.allOnes 32 then a ||| (1#3 <<< i) else a) 0
  { th with k := setAt th.k n { bits := new, poison := keep } }

/-- Sum or difference with a carry predicate (R315): the exact result of a lane. -/
def carrySum (sub : Bool) (f : T64) (th : Thread) (L : Nat) : Int :=
  let a : Int := (th.lane f.a.toNat L).toNat
  let b : Int := (bsrcOf th f.bs false f.b.toNat L).toNat
  let c : Int := if (th.kbits f.c.toNat).getLsbD L then 1 else 0
  if sub then a - b - c else a + b + c

/-- vaddc and vsubb. -/
def carryOp (i : Instr) (s : State) (sub : Bool) (f : T64) : Out :=
  instr i s (fun th =>
    let m := th.active i.guard
    let out := maskOf (fun L => if sub then decide (carrySum sub f th L < 0) else decide (carrySum sub f th L ≥ 2 ^ 32))
    .done s (setKlanes (th.setV f.d.toNat m (fun L => w32 (carrySum sub f th L))) f.c.toNat m out))

def execVaddc (wd : BitVec 2) (f : T64) (s : State) : Out := carryOp (.vaddc wd f) s false f
def execVsubb (wd : BitVec 2) (f : T64) (s : State) : Out := carryOp (.vsubb wd f) s true f

def execVset (dbl : Bool) (d a : BitVec 8) (y : Word) (s : State) : Out :=
  laneOp (.vset dbl d a y) s dbl (fun _ => d.toNat) (fun _ _ => (y.signExtend 64, 0))

/-! ## Division and wide products (R320) -/

/-- The operands of a lane of major 9. -/
def divSrc (th : Thread) (f : T64) (L : Nat) : Word × Word :=
  (th.lane f.a.toNat L, lo32 (bsrcOf th f.bs false f.b.toNat L))

def execVdiv (u : Bool) (f : T64) (s : State) : Out :=
  instr (.vdiv u f) s (fun th =>
    let m := th.active (Instr.vdiv u f).guard
    let r := fun L => divide (!u) (divSrc th f L).1 (divSrc th f L).2
    laneFlags s ((th.setV f.d.toNat m (fun L => (r L).1)).setV f.c.toNat m (fun L => (r L).2.1))
      ((lanesOf m).map (fun L => (L, (r L).2.2))))

/-- The exact product of two words. -/
def wideMul (u : Bool) (a b : Word) : DWord :=
  if u then BitVec.ofNat 64 (a.toNat * b.toNat) else BitVec.ofInt 64 (a.toInt * b.toInt)

def execVmulhi (u : Bool) (f : T64) (s : State) : Out :=
  laneOp (.vmulhi u f) s false (fun _ => f.d.toNat) (fun th L =>
    ((hi32 (wideMul u (divSrc th f L).1 (divSrc th f L).2)).setWidth 64, 0))
def execVmulw (u : Bool) (f : T64) (s : State) : Out :=
  laneOp (.vmulw u f) s true (fun _ => f.d.toNat) (fun th L => (wideMul u (divSrc th f L).1 (divSrc th f L).2, 0))

end Sys2Proof.Machine
end

