-- ==== Sys2Proof/Machine/VecMove.lean ====
section
/-! DEFINITION. Vector compares, selects, moves, permutes, match, reductions and scans (12 R321-R326). -/
namespace Sys2Proof.Machine
open Sys2Proof

/-! ## Compares (R321) -/

/-- The conditions of vcmp on e-bit values. -/
def vCond (c : Nat) (e : Nat) (a b : Nat) : Bool :=
  match c with
  | 0 => a == b
  | 1 => a != b
  | 2 => decide (sext a e < sext b e)
  | 3 => decide (sext a e ≤ sext b e)
  | 4 => decide (sext a e > sext b e)
  | 5 => decide (sext a e ≥ sext b e)
  | 6 => decide (a < b)
  | 7 => decide (a ≤ b)
  | 8 => decide (a > b)
  | _ => decide (a ≥ b)

/-- Combine a comparison with a predicate (R321). -/
def combK (comb : Nat) (t k : Mask) : Mask :=
  match comb with
  | 1 => t &&& k
  | 2 => t ||| k
  | _ => t

def execVcmpT32 (bs : Bool) (wd : BitVec 2) (cond : BitVec 4) (b a : BitVec 5) (p : BitVec 3) (s : State) : Out :=
  instr (.vcmpT32 bs wd cond b a p) s (fun th =>
    let w := wd == 3
    let t := maskOf (fun L => vCond cond.toNat (elemBits wd) (vsrc th w (th.latch.px.a a) L).toNat
      (bsrcOf th bs w (th.latch.px.b b) L).toNat)
    .done s (setKlanes th p.toNat (th.active (0, false)) t))

def execVcmpT64 (wd : BitVec 2) (cond : BitVec 4) (f : T64) (s : State) : Out :=
  instr (.vcmpT64 wd cond f) s (fun th =>
    let w := wd == 3
    let t := maskOf (fun L => vCond cond.toNat (elemBits wd) (vsrc th w f.a.toNat L).toNat (bsrcOf th f.bs w f.b.toNat L).toNat)
    .done s (setKlanes th f.d.toNat (th.active (Instr.vcmpT64 wd cond f).guard) (combK (f.m 30 29) t (th.kbits f.c.toNat))))

/-! ## Selects and moves (R322) -/

def execVselT32 (neg : Bool) (n : BitVec 3) (b a d : BitVec 5) (s : State) : Out :=
  laneOp (.vselT32 neg n b a d) s false (fun th => th.latch.px.d d) (fun th L =>
    (vsrc th false (if (th.kbits n.toNat).getLsbD L != neg then th.latch.px.a a else th.latch.px.b b) L, 0))
def execVselT64 (f : T64) (s : State) : Out :=
  laneOp (.vselT64 f) s f.dbl (fun _ => f.d.toNat) (fun th L =>
    (if (th.kbits f.c.toNat).getLsbD L != f.mb 30 then vsrc th f.dbl f.a.toNat L else bsrcOf th f.bs f.dbl f.b.toNat L, 0))

def execVbcastT32 (a d : BitVec 5) (s : State) : Out :=
  laneOp (.vbcastT32 a d) s false (fun th => th.latch.px.d d) (fun th _ => (sSrc th false (th.latch.px.a a), 0))
def execVbcastT64 (f : T64) (s : State) : Out :=
  laneOp (.vbcastT64 f) s f.dbl (fun _ => f.d.toNat) (fun th _ => (sSrc th f.dbl f.a.toNat, 0))

def execVextrT32 (n : BitVec 7) (a d : BitVec 5) (s : State) : Out :=
  instr (.vextrT32 n a d) s (fun th => .done s (th.setS (th.latch.px.d d) (th.lane (th.latch.px.a a) n.toNat)))
def execVextrT64 (f : T64) (s : State) : Out :=
  instr (.vextrT64 f) s (fun th => .done s (th.setSx f.dbl f.d.toNat (vsrc th f.dbl f.a.toNat f.c.toNat)))

/-- Write one lane of a register or pair, if it is active. -/
def insLane (th : Thread) (p : Bool) (d n : Nat) (m : Mask) (x : DWord) : Thread :=
  setVx th p d (m &&& (1#96 <<< n)) (fun _ => x)

def execVinsT32 (n : BitVec 7) (a d : BitVec 5) (s : State) : Out :=
  instr (.vinsT32 n a d) s (fun th =>
    .done s (insLane th false (th.latch.px.d d) n.toNat (th.active (0, false)) (sSrc th false (th.latch.px.a a))))
def execVinsT64 (f : T64) (s : State) : Out :=
  instr (.vinsT64 f) s (fun th =>
    .done s (insLane th f.dbl f.d.toNat f.c.toNat (th.active (Instr.vinsT64 f).guard) (sSrc th f.dbl f.a.toNat)))

def execVlidT32 (d : BitVec 5) (s : State) : Out :=
  laneOp (.vlidT32 d) s false (fun th => th.latch.px.d d) (fun _ L => (BitVec.ofNat 64 L, 0))
def execVlidT64 (f : T64) (s : State) : Out :=
  laneOp (.vlidT64 f) s false (fun _ => f.d.toNat) (fun _ L => (BitVec.ofNat 64 L, 0))

/-- All ones or zero. -/
def onesIf (c : Bool) : DWord := if c then BitVec.allOnes 64 else 0

def execVkvT32 (n : BitVec 3) (d : BitVec 5) (s : State) : Out :=
  laneOp (.vkvT32 n d) s false (fun th => th.latch.px.d d) (fun th L => (onesIf ((th.kbits n.toNat).getLsbD L), 0))
def execVkvT64 (f : T64) (s : State) : Out :=
  laneOp (.vkvT64 f) s false (fun _ => f.d.toNat) (fun th L => (onesIf ((th.kbits f.c.toNat).getLsbD L), 0))

/-! ## Permutes (R323) -/

/-- vperm: a source of 96 or more gives zero. -/
def permLane (th : Thread) (p : Bool) (a : Nat) (src : Word) : DWord :=
  if src.toNat < 96 then vsrc th p a src.toNat else 0

def execVpermT32 (b a d : BitVec 5) (s : State) : Out :=
  laneOp (.vpermT32 b a d) s false (fun th => th.latch.px.d d) (fun th L =>
    (permLane th false (th.latch.px.a a) (th.lane (th.latch.px.b b) L), 0))
/-- vperm in T64; with .d the index is u32 of the single register b, odd or even (R323, log 103). -/
def execVpermT64 (f : T64) (s : State) : Out :=
  laneOp (.vpermT64 f) s f.dbl (fun _ => f.d.toNat) (fun th L => (permLane th f.dbl f.a.toNat (th.lane f.b.toNat L), 0))

/-- vswz in T32. -/
def swz32 (i : Instr) (s : State) (k n : Nat) (a d : BitVec 5) : Out :=
  laneOp i s false (fun th => th.latch.px.d d) (fun th L => (vsrc th false (th.latch.px.a a) (swzLane k n L), 0))

def execVswzUpT32 (n : BitVec 7) (a d : BitVec 5) (s : State) : Out := swz32 (.vswzUpT32 n a d) s 0 n.toNat a d
def execVswzDnT32 (n : BitVec 7) (a d : BitVec 5) (s : State) : Out := swz32 (.vswzDnT32 n a d) s 1 n.toNat a d
def execVswzXorT32 (n : BitVec 7) (a d : BitVec 5) (s : State) : Out := swz32 (.vswzXorT32 n a d) s 2 n.toNat a d
def execVswzRotT32 (n : BitVec 7) (a d : BitVec 5) (s : State) : Out := swz32 (.vswzRotT32 n a d) s 3 n.toNat a d
def execVswzT64 (k : BitVec 2) (f : T64) (s : State) : Out :=
  laneOp (.vswzT64 k f) s f.dbl (fun _ => f.d.toNat) (fun th L =>
    (vsrc th f.dbl f.a.toNat (swzLane k.toNat f.c.toNat L), 0))

/-! ## match (R324) -/

/-- The active lanes whose key equals that of lane L. -/
def sameKey (th : Thread) (a : Nat) (m : Mask) (L : Nat) : Mask :=
  m &&& maskOf (fun l => th.lane a l == th.lane a L)

def execMatch (f : T64) (s : State) : Out :=
  instr (.match_ f) s (fun th =>
    let m := th.active (Instr.match_ f).guard
    let g := sameKey th f.a.toNat m
    let d := f.d.toNat
    let th1 := ((th.setV d m (fun L => (g L).extractLsb' 0 32)).setV (d + 1) m (fun L => (g L).extractLsb' 32 32)).setV (d + 2) m
      (fun L => (g L).extractLsb' 64 32)
    let lead := maskOf (fun L => m.getLsbD L && !(List.range L).any (fun l => (g L).getLsbD l))
    .done s (th1.setK f.c.toNat lead))

/-! ## Reductions and scans (R325, R326) -/

/-- The operation of vred on e-bit values. -/
def redOp (op : RedOp) (sat : Bool) (e : Nat) (a b : Nat × Flags) : Nat × Flags :=
  let x := a.1
  let y := b.1
  let r := match op with
    | .addS => eAdd false sat e x y 0
    | .addU => eAdd true sat e x y 0
    | .minS => eMin false e x y 0
    | .minU => eMin true e x y 0
    | .maxS => eMax false e x y 0
    | .maxU => eMax true e x y 0
    | .and => (x &&& y, 0)
    | .or => (x ||| y, 0)
    | .xor => (x ^^^ y, 0)
  (r.1, r.2 ||| a.2 ||| b.2)

/-- vred (R325). The flag of a saturating tree traps for all active lanes (log 91). -/
def execVred (op : RedOp) (f : T64) (s : State) : Out :=
  instr (.vred op f) s (fun th =>
    let m := th.active (Instr.vred op f).guard
    let leaves := (List.range 96).map (fun L =>
      if m.getLsbD L then some ((vsrc th f.dbl f.a.toNat L).toNat, (0 : Flags)) else none)
    match laneTree (redOp op (f.sat th.latch.px) (sWidth f.dbl)) leaves with
    | some r => wholeFlags s (th.setSx f.dbl f.d.toNat (BitVec.ofNat 64 r.1)) m r.2
    | none => .retire s)

/-- Sum of the active lanes below L, and of L itself for inc. -/
def scanSum (th : Thread) (a : Nat) (m : Mask) (exc : Bool) (L : Nat) : Word :=
  (List.range (if exc then L else L + 1)).foldl (fun t l => if m.getLsbD l then t + th.lane a l else t) 0

def execVscan (exc : Bool) (f : T64) (s : State) : Out :=
  instr (.vscan exc f) s (fun th =>
    let m := th.active (Instr.vscan exc f).guard
    .done s (th.setV f.d.toNat m (scanSum th f.a.toNat m exc)))

end Sys2Proof.Machine
end

