-- ==== Sys2Proof/Machine/FloatVec.lean ====
section
/-! DEFINITION. Floating-point and exact arithmetic (13 R344-R362). -/
namespace Sys2Proof.Machine
open Sys2Proof

/-! ## Formats in lanes, rounding mode (R263, R344) -/

/-- Elements of a lane and their width. -/
def layOf : FFmt → Nat × Nat
  | .f32 => (1, 32)
  | .f64 => (1, 64)
  | _ => (2, 16)

/-- Apply a function to the elements of a lane, with results of rw bits each. -/
def fElems (n ew rw : Nat) (g : Nat → Nat → Nat → FRes) (a b c : DWord) : DWord × Flags :=
  let r := (List.range n).map (fun i => g (fieldN a.toNat (ew * i) ew) (fieldN b.toNat (ew * i) ew) (fieldN c.toNat (ew * i) ew))
  (BitVec.ofNat 64 (r.foldr (fun x acc => x.bits + 2 ^ rw * acc) 0), r.foldl (fun fl x => fl ||| x.flags) 0)

/-- Element by element in a format. -/
def fPacked (fmt : FFmt) (g : Nat → Nat → Nat → FRes) (a b c : DWord) : DWord × Flags :=
  fElems (layOf fmt).1 (layOf fmt).2 (layOf fmt).2 g a b c

/-- The rounding mode of a 32-bit instruction (R263). -/
def rm32 (x : Px) : RM := match x.rm with | some m => RM.ofCode m | none => .rne

/-- The rounding mode of a 64-bit instruction (R263). -/
def rm64 (f : T64) (x : Px) : RM := if f.mb 27 then RM.ofCode (BitVec.ofNat 3 (f.m 26 24)) else rm32 x

/-- The arithmetic functions 0-4 of R347. -/
def fArithF (op : Nat) (fmt : Fmt) (rm : RM) (sat : Bool) (a b : Nat) : FRes :=
  match op with
  | 0 => fAdd fmt rm sat a b
  | 1 => fSub fmt rm sat a b
  | 2 => fMul fmt rm sat a b
  | 3 => fMinMax fmt false a b
  | _ => fMinMax fmt true a b

/-! ## Add, subtract, multiply, minimum, maximum (R346-R349, R357, R359) -/

/-- The pair of a DW32 source. -/
def dwSrc (th : Thread) (sc : Bool) (n L : Nat) : Nat × Nat :=
  if sc then ((th.sv n).toNat, (th.sv (n + 1)).toNat) else ((th.lane n L).toNat, (th.lane (n + 1) L).toNat)

/-- The results of a lane in pair or double-word mode: value, error, flags. -/
def pairLane (th : Thread) (f64 bs : Bool) (op : Nat) (rm : RM) (sat : Bool) (a b L : Nat) : PairRes :=
  if th.latch.px.pairMode = 2 then
    let x := dwSrc th false a L
    let y := dwSrc th bs b L
    dwOp rm sat op false x.1 x.2 y.1 y.2
  else fPair (if f64 then Fmt.f64 else Fmt.f32) rm sat op (vsrc th f64 a L).toNat (bsrcOf th bs f64 b L).toNat

/-- Write value and error registers of the lanes of a mask. -/
def setPair (th : Thread) (f64 : Bool) (d : Nat) (m : Mask) (r : Nat → PairRes) : Thread :=
  setVx (setVx th f64 d m (fun L => BitVec.ofNat 64 (r L).v)) f64 (d + two f64) m (fun L => BitVec.ofNat 64 (r L).e)

/-- An operation that delivers a value with its error. -/
def pairOp (i : Instr) (s : State) (f64 : Bool) (d : Nat) (r : Thread → Nat → PairRes) (th : Thread) : Res :=
  let m := th.active i.guard
  laneFlags s (setPair th f64 d m (r th)) ((lanesOf m).map (fun L => (L, (r th L).flags)))

/-- Arithmetic of one format with resolved register numbers (R347). -/
def fArithOp (i : Instr) (s : State) (fmt : FFmt) (op : Nat) (bs : Bool) (reg : Thread → Nat × Nat × Nat)
    (rm : Thread → RM) (sat : Thread → Bool) : Out :=
  instr i s (fun th =>
    let (d, a, b) := reg th
    let f64 := fmt == .f64
    if th.latch.px.pairMode ≠ 0 then
      pairOp i s f64 d (fun th L => pairLane th f64 bs op (rm th) (sat th) a b L) th
    else
      let m := th.active i.guard
      let r := fun L => fPacked fmt (fun x y _ => fArithF op (fmtOf fmt) (rm th) (sat th) x y) (vsrc th f64 a L) (bsrcOf th bs f64 b L) 0
      laneFlags s (setVx th f64 d m (fun L => (r L).1)) ((lanesOf m).map (fun L => (L, (r L).2))))

/-- T32 register numbers. -/
def reg32 (b a d : BitVec 5) (th : Thread) : Nat × Nat × Nat :=
  (th.latch.px.d d, th.latch.px.a a, th.latch.px.b b)

/-- Arithmetic in T32. -/
def fArith32 (i : Instr) (s : State) (fmt : FFmt) (op : Nat) (bs : Bool) (b a d : BitVec 5) : Out :=
  fArithOp i s fmt op bs (reg32 b a d) (fun th => rm32 th.latch.px) (fun th => th.latch.px.sat)

/-- Arithmetic in T64. -/
def fArith64 (i : Instr) (s : State) (fmt : FFmt) (op : Nat) (f : T64) : Out :=
  fArithOp i s fmt op f.bs (fun _ => (f.d.toNat, f.a.toNat, f.b.toNat)) (fun th => rm64 f th.latch.px) (fun th => f.sat th.latch.px)

/-- The packed format of 32-bit major 35. -/
def packedFmt (bf : Bool) : FFmt := if bf then .bf16 else .f16

def execVfaddF32T32 (bs : Bool) (b a d : BitVec 5) (s : State) : Out :=
  fArith32 (.vfaddF32T32 bs b a d) s .f32 0 bs b a d
def execVfaddPackedT32 (bs bf : Bool) (b a d : BitVec 5) (s : State) : Out :=
  fArith32 (.vfaddPackedT32 bs bf b a d) s (packedFmt bf) 0 bs b a d
def execVfaddT64 (fmt : FFmt) (f : T64) (s : State) : Out := fArith64 (.vfaddT64 fmt f) s fmt 0 f
def execVfsubF32T32 (bs : Bool) (b a d : BitVec 5) (s : State) : Out :=
  fArith32 (.vfsubF32T32 bs b a d) s .f32 1 bs b a d
def execVfsubPackedT32 (bs bf : Bool) (b a d : BitVec 5) (s : State) : Out :=
  fArith32 (.vfsubPackedT32 bs bf b a d) s (packedFmt bf) 1 bs b a d
def execVfsubT64 (fmt : FFmt) (f : T64) (s : State) : Out := fArith64 (.vfsubT64 fmt f) s fmt 1 f
def execVfmulF32T32 (bs : Bool) (b a d : BitVec 5) (s : State) : Out :=
  fArith32 (.vfmulF32T32 bs b a d) s .f32 2 bs b a d
def execVfmulPackedT32 (bs bf : Bool) (b a d : BitVec 5) (s : State) : Out :=
  fArith32 (.vfmulPackedT32 bs bf b a d) s (packedFmt bf) 2 bs b a d
def execVfmulT64 (fmt : FFmt) (f : T64) (s : State) : Out := fArith64 (.vfmulT64 fmt f) s fmt 2 f
def execVfminF32T32 (bs : Bool) (b a d : BitVec 5) (s : State) : Out :=
  fArith32 (.vfminF32T32 bs b a d) s .f32 3 bs b a d
def execVfminPackedT32 (bs bf : Bool) (b a d : BitVec 5) (s : State) : Out :=
  fArith32 (.vfminPackedT32 bs bf b a d) s (packedFmt bf) 3 bs b a d
def execVfminT64 (fmt : FFmt) (f : T64) (s : State) : Out := fArith64 (.vfminT64 fmt f) s fmt 3 f
def execVfmaxF32T32 (bs : Bool) (b a d : BitVec 5) (s : State) : Out :=
  fArith32 (.vfmaxF32T32 bs b a d) s .f32 4 bs b a d
def execVfmaxPackedT32 (bs bf : Bool) (b a d : BitVec 5) (s : State) : Out :=
  fArith32 (.vfmaxPackedT32 bs bf b a d) s (packedFmt bf) 4 bs b a d
def execVfmaxT64 (fmt : FFmt) (f : T64) (s : State) : Out := fArith64 (.vfmaxT64 fmt f) s fmt 4 f

/-! ## Fused and other element functions (R347, R349, R350, R352, R355) -/

/-- A T64 function of up to three elements in its own format. -/
def fT64 (i : Instr) (s : State) (fmt : FFmt) (f : T64) (g : RM → Bool → Nat → Nat → Nat → FRes) : Out :=
  let w := fmt == .f64
  laneOp i s w (fun _ => f.d.toNat) (fun th L =>
    fPacked fmt (g (rm64 f th.latch.px) (f.sat th.latch.px)) (vsrc th w f.a.toNat L) (bsrcOf th f.bs w f.b.toNat L)
      (vsrc th w f.c.toNat L))

def execVfma (fmt : FFmt) (f : T64) (s : State) : Out :=
  fT64 (.vfma fmt f) s fmt f (fun rm sat a b c => fFma (fmtOf fmt) rm sat (f.mb 29) (f.mb 30) a b c)
def execVfsgn (fmt : FFmt) (f : T64) (s : State) : Out :=
  fT64 (.vfsgn fmt f) s fmt f (fun _ _ a b _ => ⟨fSgn (fmtOf fmt) (f.m 30 29) a b, 0⟩)
def execVfdiv (fmt : FFmt) (f : T64) (s : State) : Out :=
  fT64 (.vfdiv fmt f) s fmt f (fun rm sat a b _ => fDiv (fmtOf fmt) rm sat a b)
def execVfsqrt (fmt : FFmt) (f : T64) (s : State) : Out :=
  fT64 (.vfsqrt fmt f) s fmt f (fun rm sat a _ _ => fSqrt (fmtOf fmt) rm sat a)
def execVfrcp (fmt : FFmt) (f : T64) (s : State) : Out :=
  fT64 (.vfrcp fmt f) s fmt f (fun rm sat a _ _ => fRcp (fmtOf fmt) rm sat a)
def execVfrnd (fmt : FFmt) (f : T64) (s : State) : Out :=
  fT64 (.vfrnd fmt f) s fmt f (fun rm _ a _ _ => fRnd (fmtOf fmt) rm a)

def execVfclass (fmt : FFmt) (f : T64) (s : State) : Out :=
  laneOp (.vfclass fmt f) s false (fun _ => f.d.toNat) (fun th L =>
    fPacked fmt (fun a _ _ => ⟨fClass (fmtOf fmt) a, 0⟩) (vsrc th (fmt == .f64) f.a.toNat L) 0 0)

/-- vfcmp (R351); the flags enter as those of the lanes. -/
def execVfcmp (f64 : Bool) (cond : BitVec 3) (f : T64) (s : State) : Out :=
  instr (.vfcmp f64 cond f) s (fun th =>
    let m := th.active (Instr.vfcmp f64 cond f).guard
    let r := fun L => fCmp (if f64 then Fmt.f64 else Fmt.f32) cond.toNat (vsrc th f64 f.a.toNat L).toNat (bsrcOf th f.bs f64 f.b.toNat L).toNat
    let t := maskOf (fun L => (r L).1)
    laneFlags s (setKlanes th f.d.toNat m (combK (f.m 30 29) t (th.kbits f.c.toNat))) ((lanesOf m).map (fun L => (L, (r L).2))))

def execVfdot2 (bf : Bool) (f : T64) (s : State) : Out :=
  laneOp (.vfdot2 bf f) s false (fun _ => f.d.toNat) (fun th L =>
    let a := (th.lane f.a.toNat L).toNat
    let b := (bsrcOf th f.bs false f.b.toNat L).toNat
    let r := fDot2 (fmtOf (packedFmt bf)) (rm64 f th.latch.px) (f.sat th.latch.px) (fieldN a 0 16) (fieldN b 0 16) (fieldN a 16 16)
      (fieldN b 16 16) (th.lane f.c.toNat L).toNat
    (BitVec.ofNat 64 r.bits, r.flags))

/-! ## Conversions (R353, R354) -/

/-- A conversion format: a float, or an integer of a sign and a width. -/
inductive CvtFmt where
  | flt (f : Fmt)
  | int (signed : Bool) (n : Nat)
deriving DecidableEq, Repr

/-- The format of a code (R353). -/
def cvtFmt (c : Nat) : CvtFmt :=
  match c with
  | 0 => .flt Fmt.f32
  | 1 => .flt Fmt.f64
  | 2 => .flt Fmt.f16
  | 3 => .flt Fmt.bf16
  | 4 => .int true 32
  | 5 => .int false 32
  | 6 => .int true 64
  | 7 => .int false 64
  | 8 => .int true 16
  | 9 => .int false 16
  | 10 => .int true 8
  | _ => .int false 8

/-- Width of a format. -/
def CvtFmt.bits : CvtFmt → Nat
  | .flt f => f.bitsN
  | .int _ n => n

/-- Convert one element (R240). -/
def convert (src dst : CvtFmt) (rm : RM) (sat : Bool) (x : Nat) : FRes :=
  match src, dst with
  | .flt f, .flt g => fToF f g rm sat x
  | .int sg n, .flt g => intToF g rm sat (if sg then sext x n else x)
  | .flt f, .int sg n => let r := fToInt f rm sg n x; ⟨wrapN n r.1, r.2⟩
  | .int _ _, .int _ _ => ⟨x, 0⟩

/-- Convert element e of a lane; a narrow destination keeps its other elements (R354). -/
def cvtLane (src dst : BitVec 4) (e : Nat) (rm : RM) (sat : Bool) (a old : DWord) : DWord × Flags :=
  let sf := cvtFmt src.toNat
  let df := cvtFmt dst.toNat
  let x := match cvtElems src with | some _ => fieldN a.toNat (sf.bits * e) sf.bits | none => fieldN a.toNat 0 sf.bits
  let r := convert sf df rm sat x
  match cvtElems dst with
  | some _ =>
    let o := fieldN old.toNat 0 32
    (BitVec.ofNat 64 (o - fieldN o (df.bits * e) df.bits * 2 ^ (df.bits * e) + r.bits * 2 ^ (df.bits * e)), r.flags)
  | none => (BitVec.ofNat 64 r.bits, r.flags)

def execVcvtT32 (e : BitVec 2) (src dst : BitVec 4) (a d : BitVec 5) (s : State) : Out :=
  laneOp (.vcvtT32 e src dst a d) s (cvtWide dst) (fun th => th.latch.px.d d) (fun th L =>
    cvtLane src dst e.toNat (rm32 th.latch.px) th.latch.px.sat (vsrc th (cvtWide src) (th.latch.px.a a) L)
      (vsrc th (cvtWide dst) (th.latch.px.d d) L))
def execVcvtT64 (src dst : BitVec 4) (f : T64) (s : State) : Out :=
  laneOp (.vcvtT64 src dst f) s (cvtWide dst) (fun _ => f.d.toNat) (fun th L =>
    cvtLane src dst (f.m 31 30) (rm64 f th.latch.px) (f.sat th.latch.px) (vsrc th (cvtWide src) f.a.toNat L)
      (vsrc th (cvtWide dst) f.d.toNat L))

/-! ## BX pack and expand (R356) -/

/-- Block j of the active lanes of a register. -/
def bxBlock (th : Thread) (a p : Nat) (m : Mask) (j : Nat) : Nat × Flags :=
  bxPack p ((List.range 16).map (fun i => if m.getLsbD (16 * j + i) then (th.lane a (16 * j + i)).toNat else 0))

/-- The stream of packed blocks, as bytes. -/
def bxStream (p : Nat) (blocks : List Nat) : List Byte := blocks.flatMap (toBytes (bxBytes p))

/-- Word L of a byte stream; zero beyond its end. -/
def streamWord (st : List Byte) (L : Nat) : Word := BitVec.ofNat 32 (ofBytes ((st.drop (4 * L)).take 4))

/-- vbxpk (R356). A flag of a block is every active lane's of the block (log 91). -/
def execVbxpk (f : T64) (s : State) : Out :=
  instr (.vbxpk f) s (fun th =>
    let m := th.active (Instr.vbxpk f).guard
    let p := bxP (f.m 31 30)
    let bl := (List.range 6).map (bxBlock th f.a.toNat p m)
    let st := bxStream p (bl.map (fun b => b.1))
    laneFlags s (th.setV f.d.toNat m (streamWord st)) ((lanesOf m).map (fun L => (L, (bl.getD (L / 16) (0, 0)).2))))

/-- The bytes of a register's lanes. -/
def laneBytes (th : Thread) (a : Nat) : List Byte := (List.range 96).flatMap (fun L => toBytes 4 (th.lane a L).toNat)

def execVbxex (f : T64) (s : State) : Out :=
  instr (.vbxex f) s (fun th =>
    let p := bxP (f.m 31 30)
    let st := laneBytes th f.a.toNat
    let g := (match cvtFmt f.c.toNat with | .flt g => g | .int _ _ => Fmt.f32)
    let m := th.active (Instr.vbxex f).guard
    let r := fun L =>
      let blk := ofBytes ((st.drop (L / 16 * bxBytes p)).take (bxBytes p))
      match bxElem p blk (L % 16) with
      | some v => saturate g (f.sat th.latch.px) (roundFV g (rm64 f th.latch.px) v)
      | none => ⟨g.nanBits, 0⟩
    laneFlags s (th.setV f.d.toNat m (fun L => BitVec.ofNat 32 (r L).bits)) ((lanesOf m).map (fun L => (L, (r L).flags))))

/-! ## Double-word arithmetic of major 18 (R359) -/

/-- Operand B of major 18: a pair, or one F32 whose low part is a zero of its sign. -/
def dwB (th : Thread) (f : T64) (L : Nat) : Nat × Nat :=
  if f.dbl then dwSrc th f.bs f.b.toNat L
  else
    let b := (bsrcOf th f.bs false f.b.toNat L).toNat
    (b, if bitN b 31 then 2 ^ 31 else 0)

/-- vdwadd and vdwmul. -/
def dwLane (f : T64) (op : Nat) (th : Thread) (L : Nat) : PairRes :=
  let x := dwSrc th false f.a.toNat L
  let y := dwB th f L
  dwOp (rm64 f th.latch.px) (f.sat th.latch.px) op (f.mb 30) x.1 x.2 y.1 y.2

def execVdwadd (f : T64) (s : State) : Out :=
  instr (.vdwadd f) s (pairOp (.vdwadd f) s false f.d.toNat (dwLane f 0))
def execVdwmul (f : T64) (s : State) : Out :=
  instr (.vdwmul f) s (pairOp (.vdwmul f) s false f.d.toNat (dwLane f 2))

/-- Deliver the value of a pair (R358). -/
def dwNorm (rm : RM) (sat : Bool) (x : Nat × Nat) : PairRes :=
  match firstNan Fmt.f32 Fmt.f32 [x.1, x.2] with
  | some r => ⟨r.bits, 0, r.flags⟩
  | none => dwDeliver rm sat (dwValue rm x.1 x.2) 0

def execVdwnorm (f : T64) (s : State) : Out :=
  instr (.vdwnorm f) s (pairOp (.vdwnorm f) s false f.d.toNat (fun th L =>
    dwNorm (rm64 f th.latch.px) (f.sat th.latch.px) (dwSrc th false f.a.toNat L)))

/-! ## Compensated reductions (R360) -/

/-- A sum that keeps only nv, and pi where it is inexact. -/
def quietSum (g : Fmt) (nans : List Nat) (ts : List FV) : Nat × Flags :=
  match firstNan g g nans with
  | some r => (r.bits, r.flags)
  | none => match sumFV .rne ts with
    | some v => let r := roundFV g .rne v; (r.bits, flagIf (r.flags &&& flNx != 0) flPi)
    | none => (g.nanBits, flNv)

/-- Combine two nodes: sum, error, flags. A signalling NaN and infinities of both signs raise nv even where the error term is dropped
(log 75). -/
def credCombine (g : Fmt) (x y : Nat × Nat × Flags) : Nat × Nat × Flags :=
  let s := fAdd g .rne false x.1 y.1
  let parts := [x.1, x.2.1, y.1, y.2.1]
  let fl := x.2.2 ||| y.2.2 ||| (s.flags &&& flNv) ||| flagIf (parts.any (isSnan g)) flNv ||| nvInfs g parts
  match unpack g s.bits with
  | .fin n m e =>
    if s.flags &&& flOf != 0 then (s.bits, 0, fl ||| flPi)
    else
      let r := quietSum g [x.2.1, y.2.1] [unpack g x.2.1, unpack g y.2.1, unpack g x.1, unpack g y.1, .fin (!n) m e]
      (s.bits, r.1, fl ||| r.2)
  | _ => (s.bits, 0, fl ||| flagIf (s.flags &&& flOf != 0) flPi)

/-- The final step: S, E and flags. -/
def credFinal (g : Fmt) (rm : RM) (sat : Bool) (x : Nat × Nat × Flags) : PairRes :=
  match firstNan g g [x.1, x.2.1] with
  | some r => ⟨r.bits, 0, r.flags ||| x.2.2⟩
  | none =>
    let z := sumFV rm [unpack g x.1, unpack g x.2.1]
    let r := errorOf g z (deliver g rm sat z)
    ⟨r.v, r.e, r.flags ||| x.2.2⟩

/-- vcred (R360). The flags of the tree are no single lane's: where one is enabled, every active lane is in the trapping set of the
arithmetic trap (log 91). -/
def execVcred (k : CredKind) (f : T64) (s : State) : Out :=
  instr (.vcred k f) s (fun th =>
    let m := th.active (Instr.vcred k f).guard
    let g := if k = .f64 then Fmt.f64 else Fmt.f32
    let leaf := fun L => match k with
      | .f32 => ((th.lane f.a.toNat L).toNat, 0, (0 : Flags))
      | .dw => ((th.lane f.a.toNat L).toNat, (th.lane (f.a.toNat + 1) L).toNat, 0)
      | .f64 => ((th.lanep f.a.toNat L).toNat, 0, 0)
    let leaves := (List.range 96).map (fun L => if m.getLsbD L then some (leaf L) else none)
    let r := match laneTree (credCombine g) leaves with
      | some x => credFinal g (rm64 f th.latch.px) (f.sat th.latch.px) x
      | none => ⟨0, 0, 0⟩
    let w := k == .f64
    wholeFlags s ((th.setSx w f.d.toNat (BitVec.ofNat 64 r.v)).setSx w (f.d.toNat + two w) (BitVec.ofNat 64 r.e)) m r.flags)

/-! ## The table unit's arithmetic (R362) -/

/-- t of .lin and .quad, with nv where it arises. -/
def tblT (x0 inv a : Nat) : Nat × Flags :=
  let u := fSub Fmt.f32 .rne false a x0
  let t := fMul Fmt.f32 .rne false u.bits inv
  (t.bits, (u.flags ||| t.flags) &&& flNv)

/-- The interval of a t that is not a NaN, and f = t - i clamped to [0, 1]; an exact zero is +0, of a t of -0 too
(log 105). -/
def tblI (t n : Nat) : Nat × FV :=
  match unpack Fmt.f32 t with
  | .inf neg => if neg then (0, FV.zero false) else (n - 1, .fin false 1 0)
  | .fin neg m e =>
    let fl : Int := (let r := roundAt neg m e false 0 .rdn; if neg then -(r.1 : Int) else r.1)
    let i := (max 0 (min ((n : Int) - 1) fl)).toNat
    match sumFV .rne [.fin neg m e, FV.ofInt (-(i : Int))] with
    | some (.fin ng mm ee) =>
      if ng then (i, FV.zero false)
      else if cmpFV (.fin false mm ee) (.fin false 1 0) > 0 then (i, .fin false 1 0) else (i, .fin false mm ee)
    | _ => (i, FV.zero false)
  | .nan _ _ => (0, FV.zero false)

/-- Indexes of the words that a lane reads. -/
def tblReads (k : TblKind) (x0 inv n a : Nat) : List Nat :=
  match k with
  | .idx => [min a n]
  | _ =>
    let t := (tblT x0 inv a).1
    if (unpack Fmt.f32 t).isNan then []
    else
      let i := (tblI t n).1
      match k with
      | .lin => [i, i + 1]
      | _ => [3 * i, 3 * i + 1, 3 * i + 2]

/-- c + f * g exactly, with R237 for its operands. -/
def fmaExact (f : FV) (g c : Nat) (rm : RM) (sat : Bool) : FRes :=
  match firstNan Fmt.f32 Fmt.f32 [g, c] with
  | some r => r
  | none => match mulFV f (unpack Fmt.f32 g) with
    | none => invalid Fmt.f32
    | some p => deliver Fmt.f32 rm sat (sumFV rm [p, unpack Fmt.f32 c])

/-- The result of a lane from the entries it read (R362). In .quad the entry c2 stands before c1 where both are NaN (log 104). -/
def tblValue (k : TblKind) (rm : RM) (sat : Bool) (x0 inv n a : Nat) (es : List Nat) : FRes :=
  match k with
  | .idx => ⟨es.getD 0 0, 0⟩
  | _ =>
    let t := tblT x0 inv a
    if (unpack Fmt.f32 t.1).isNan then ⟨t.1, t.2⟩
    else
      let f := (tblI t.1 n).2
      match k with
      | .lin =>
        let d := fSub Fmt.f32 .rne false (es.getD 1 0) (es.getD 0 0)
        let y := fmaExact f d.bits (es.getD 0 0) rm sat
        ⟨y.bits, y.flags ||| t.2 ||| (d.flags &&& flNv)⟩
      | _ =>
        let g := fmaExact f (es.getD 2 0) (es.getD 1 0) .rne false
        let y := fmaExact f g.bits (es.getD 0 0) rm sat
        ⟨y.bits, y.flags ||| t.2 ||| (g.flags &&& flNv)⟩

end Sys2Proof.Machine
end

