-- ==== Sys2Proof/Machine/Memory.lean ====
section
/-! DEFINITION. Loads, stores, prefetches, atomics, the extracting load, marks, arrival words and the table unit as they
issue (12 R327-R343; 13 R361, R362). Their accesses perform by the steps of MemStep. -/
namespace Sys2Proof.Machine
open Sys2Proof

/-! ## Loads and stores (R327-R331) -/

/-- Bytes of a memory datum by size code (R255). -/
def szBytes (sz : BitVec 3) : Nat :=
  match sz.toNat with
  | 0 => 1
  | 1 => 2
  | 2 => 4
  | 3 => 8
  | 4 => 1
  | 5 => 2
  | _ => 16

/-- The bytes that a store takes from its registers, the lowest first (R329). -/
def storeBytes (sz : BitVec 3) (w : Nat → Word) : List Byte :=
  ((List.range (szRegs sz)).flatMap (fun i => toBytes 4 (w i).toNat)).take (szBytes sz)

/-- The 12-bit offset of the M32 forms. -/
def off12 (imm : BitVec 12) : DWord := imm.signExtend 64

/-- The 16-bit offset of the T64 forms (R328). -/
def off16 (f : T64) : DWord := (f.c ++ f.b).signExtend 64

/-- The scope of an ordered form (R328). -/
def ordOf (f : T64) : Option Nat := if f.mb 28 then some (f.m 31 29) else none

/-- One access of a lane. -/
def lreq (L : Nat) (base addr : DWord) (size : Nat) (data : List Byte) : LaneReq :=
  { lane := L, base := base, addr := addr, size := size, data := data, cmp := [] }

/-- The accesses of a vector global load or store (R329). -/
def vecReqs (th : Thread) (m : Mask) (st : Bool) (sz : BitVec 3) (d a : Nat) (off : DWord) : List LaneReq :=
  (lanesOf m).map (fun L => lreq L (th.lanep a L) (th.lanep a L + off) (szBytes sz)
    (if st then storeBytes sz (fun i => th.lane (d + i) L) else []))

/-- A scratchpad address (R329). -/
def scrAddr (a : Word) (off : DWord) : DWord := (a + lo32 off).setWidth 64

/-- The accesses of a vector scratchpad load or store. -/
def vecScrReqs (th : Thread) (m : Mask) (st : Bool) (sz : BitVec 3) (d a : Nat) (off : DWord) : List LaneReq :=
  (lanesOf m).map (fun L => lreq L (scrAddr (th.lane a L) off) (scrAddr (th.lane a L) off) (szBytes sz)
    (if st then storeBytes sz (fun i => th.lane (d + i) L) else []))

/-- A vector load. -/
def vecLoad (i : Instr) (s : State) (sz : BitVec 3) (d a : Nat) (off : DWord) (acq : Option Nat) : Out :=
  instr i s (fun th =>
    let m := th.active i.guard
    issueMem s th m false .load (checkGlobal s th .load) (vecReqs th m false sz d a off) acq none (.vload sz.toNat d))

/-- A vector store. -/
def vecStore (i : Instr) (s : State) (sz : BitVec 3) (d a : Nat) (off : DWord) (rel : Option Nat) : Out :=
  instr i s (fun th =>
    let m := th.active i.guard
    issueMem s th m false .store (checkGlobal s th .store) (vecReqs th m true sz d a off) none rel .none)

/-- A vector scratchpad load. -/
def scrLoad (i : Instr) (s : State) (sz : BitVec 3) (d a : Nat) (off : DWord) (code : Nat) (acq : Option Nat) : Out :=
  instr i s (fun th =>
    let m := th.active i.guard
    issueMem s th m false .load (checkScr s th code) (vecScrReqs th m false sz d a off) acq none (.vload sz.toNat d))

/-- A vector scratchpad store. -/
def scrStore (i : Instr) (s : State) (sz : BitVec 3) (d a : Nat) (off : DWord) (code : Nat) (rel : Option Nat) : Out :=
  instr i s (fun th =>
    let m := th.active i.guard
    issueMem s th m false .store (checkScr s th code) (vecScrReqs th m true sz d a off) none rel .none)

/-- The access of a scalar load or store; `scr`: to scratchpad. -/
def scalarReq (th : Thread) (scr st : Bool) (sz : BitVec 3) (d a : Nat) (off : DWord) : LaneReq :=
  let data := if st then storeBytes sz (fun i => th.sv (d + i)) else []
  if scr then lreq 0 (scrAddr (th.sv a) off) (scrAddr (th.sv a) off) (szBytes sz) data
  else lreq 0 (th.sp a) (th.sp a + off) (szBytes sz) data

/-- The checks of a scalar access. -/
def scalarChk (s : State) (th : Thread) (scr : Bool) (k : AK) (code : Nat) (r : LaneReq) : Chk :=
  if scr then checkScr s th code r else checkGlobal s th k r

/-- A scalar load. -/
def scalarLoad (i : Instr) (s : State) (scr : Bool) (sz : BitVec 3) (d a : Nat) (off : DWord) (code : Nat)
    (acq : Option Nat) : Out :=
  instr i s (fun th =>
    issueMem s th (th.active i.guard) true .load (scalarChk s th scr .load code) [scalarReq th scr false sz d a off] acq none
      (.sload sz.toNat (th.bankNum d)))

/-- A scalar store. -/
def scalarStore (i : Instr) (s : State) (scr : Bool) (sz : BitVec 3) (d a : Nat) (off : DWord) (code : Nat)
    (rel : Option Nat) : Out :=
  instr i s (fun th =>
    issueMem s th (th.active i.guard) true .store (scalarChk s th scr .store code) [scalarReq th scr true sz d a off] none rel
      .none)

def execSldM32 (sz : BitVec 3) (imm : BitVec 12) (a d : BitVec 5) (s : State) : Out :=
  instr (.sldM32 sz imm a d) s (fun th =>
    let x := th.latch.px
    issueMem s th (th.active (0, false)) true .load (checkGlobal s th .load)
      [scalarReq th false false sz (x.d d) (x.a a) (off12 imm)] none none (.sload sz.toNat (th.bankNum (x.d d))))
def execSldT64 (scr : Bool) (sz : BitVec 3) (f : T64) (s : State) : Out :=
  scalarLoad (.sldT64 scr sz f) s scr sz f.d.toNat f.a.toNat (off16 f) (f.m 27 25) (ordOf f)
def execSstM32 (sz : BitVec 3) (imm : BitVec 12) (a d : BitVec 5) (s : State) : Out :=
  instr (.sstM32 sz imm a d) s (fun th =>
    let x := th.latch.px
    issueMem s th (th.active (0, false)) true .store (checkGlobal s th .store)
      [scalarReq th false true sz (x.d d) (x.a a) (off12 imm)] none none .none)
def execSstT64 (scr : Bool) (sz : BitVec 3) (f : T64) (s : State) : Out :=
  scalarStore (.sstT64 scr sz f) s scr sz f.d.toNat f.a.toNat (off16 f) (f.m 27 25) (ordOf f)
def execVldM32 (sz : BitVec 3) (imm : BitVec 12) (a d : BitVec 5) (s : State) : Out :=
  instr (.vldM32 sz imm a d) s (fun th =>
    let x := th.latch.px
    let m := th.active (0, false)
    issueMem s th m false .load (checkGlobal s th .load) (vecReqs th m false sz (x.d d) (x.a a) (off12 imm)) none none
      (.vload sz.toNat (x.d d)))
def execVldT64 (sz : BitVec 3) (f : T64) (s : State) : Out :=
  vecLoad (.vldT64 sz f) s sz f.d.toNat f.a.toNat (off16 f) (ordOf f)
def execVstM32 (sz : BitVec 3) (imm : BitVec 12) (a d : BitVec 5) (s : State) : Out :=
  instr (.vstM32 sz imm a d) s (fun th =>
    let x := th.latch.px
    let m := th.active (0, false)
    issueMem s th m false .store (checkGlobal s th .store) (vecReqs th m true sz (x.d d) (x.a a) (off12 imm)) none none .none)
def execVstT64 (sz : BitVec 3) (f : T64) (s : State) : Out :=
  vecStore (.vstT64 sz f) s sz f.d.toNat f.a.toNat (off16 f) (ordOf f)
def execPldM32 (sz : BitVec 3) (imm : BitVec 12) (a d : BitVec 5) (s : State) : Out :=
  instr (.pldM32 sz imm a d) s (fun th =>
    let x := th.latch.px
    let m := th.active (0, false)
    issueMem s th m false .load (checkScr s th 0) (vecScrReqs th m false sz (x.d d) (x.a a) (off12 imm)) none none
      (.vload sz.toNat (x.d d)))
def execPldT64 (sz : BitVec 3) (f : T64) (s : State) : Out :=
  scrLoad (.pldT64 sz f) s sz f.d.toNat f.a.toNat (off16 f) (f.m 27 25) (ordOf f)
def execPstM32 (sz : BitVec 3) (imm : BitVec 12) (a d : BitVec 5) (s : State) : Out :=
  instr (.pstM32 sz imm a d) s (fun th =>
    let x := th.latch.px
    let m := th.active (0, false)
    issueMem s th m false .store (checkScr s th 0) (vecScrReqs th m true sz (x.d d) (x.a a) (off12 imm)) none none .none)
def execPstT64 (sz : BitVec 3) (f : T64) (s : State) : Out :=
  scrStore (.pstT64 sz f) s sz f.d.toNat f.a.toNat (off16 f) (f.m 27 25) (ordOf f)

/-! ## Prefetch (R332) -/

/-- The lines that a prefetch brings into the L1: those of addresses that pass their checks and may be held. -/
def prefetchLines (cs : List (Nat × Chk)) : List Nat :=
  (cs.flatMap (fun c => match c.2 with
    | .ok ps => ps.filterMap (fun p => match p.1 with
        | .mem k pol pa _ _ _ _ => if l1Held k pol then some (pa / 128) else none
        | _ => none)
    | _ => [])).eraseDups

/-- Copy a line into a quill's L1 (R146); a poisoned line is not copied (log 16). -/
def fillL1 (s : State) (q line : Nat) : State :=
  if poisoned s (line * 128) 128 then s else s.modQuill q (fun x => { x with cq := x.cq.put line (fillLine s q line) })

def execVpf (scalar : Bool) (f : T64) (s : State) : Out :=
  instr (.vpf scalar f) s (fun th =>
    let m := th.active (Instr.vpf scalar f).guard
    let rq := if scalar then [lreq 0 (th.sp f.a.toNat) (th.sp f.a.toNat + off16 f) 1 []]
      else (lanesOf m).map (fun L => lreq L (th.lanep f.a.toNat L) (th.lanep f.a.toNat L + off16 f) 1 [])
    let cs := rq.map (fun r => (r.lane, checkGlobal s th .load r))
    if missing cs then awaitMisses s th cs
    else if f.mb 24 then .retire s
    else .retire ((prefetchLines cs).foldl (fun s l => if homeStopped s (l * 128) ∨ bankShut s (l * 128) then s else fillL1 s th.quill l) s))

/-! ## Atomics (R333-R335) -/

/-- The orders of an atomic: acquire scope, release scope (R333). -/
def atomAcq (f : T64) : Option Nat := if f.mb 27 then some (f.m 31 29) else none
def atomRel (f : T64) : Option Nat := if f.mb 28 then some (f.m 31 29) else none

/-- One atomic access. -/
def atomReq (L : Nat) (base addr : DWord) (wide : Bool) (op : AtomOp) (b c : DWord) : LaneReq :=
  let n := if wide then 8 else 4
  { lane := L, base := base, addr := addr, size := n, data := toBytes n b.toNat, cmp := if op = .cas then toBytes n c.toNat else [] }

def execVatom (scr wide : Bool) (op : AtomOp) (f : T64) (s : State) : Out :=
  instr (.vatom scr wide op f) s (fun th =>
    let m := th.active (Instr.vatom scr wide op f).guard
    let val := fun (n L : Nat) => if wide then th.lanep n L else (th.lane n L).setWidth 64
    let rq := (lanesOf m).map (fun L =>
      let a := if scr then (th.lane f.a.toNat L).setWidth 64 else th.lanep f.a.toNat L
      atomReq L a a wide op (val f.b.toNat L) (val f.c.toNat L))
    issueMem s th m false (.atomic op wide) (if scr then checkScr s th 0 else checkGlobal s th .atomic) rq (atomAcq f) (atomRel f)
      (if f.mb 26 then .none else .vatom f.d.toNat wide))

def execSatom (scr wide : Bool) (op : AtomOp) (f : T64) (s : State) : Out :=
  instr (.satom scr wide op f) s (fun th =>
    let m := th.active (Instr.satom scr wide op f).guard
    let val := fun (n : Nat) => if wide then th.sp n else (th.sv n).setWidth 64
    let a := if scr then (th.sv f.a.toNat).setWidth 64 else th.sp f.a.toNat
    issueMem s th m true (.atomic op wide) (if scr then checkScr s th 0 else checkGlobal s th .atomic)
      [atomReq 0 a a wide op (val f.b.toNat) (val f.c.toNat)] (atomAcq f) (atomRel f)
      (if f.mb 26 then .none else .satom (th.bankNum f.d.toNat) wide))

/-! ## The extracting load (R336-R338) -/

/-- Fields per period of a pattern, and the period in bits. -/
def Pat.nf (p : Pat) : Nat := fieldN p.hdr.toNat 8 5 + 1
def Pat.per (p : Pat) : Nat := fieldN p.hdr.toNat 0 8
/-- Field j: first bit, width, sign extension. -/
def Pat.field (p : Pat) (j : Nat) : Nat × Nat × Bool :=
  let x := (p.fields.getD j 0).toNat
  (fieldN x 0 8, fieldN x 8 5 + 1, bitN x 15)

/-- A pattern is valid (R336). -/
def Pat.valid (p : Pat) : Bool :=
  fieldN p.hdr.toNat 13 19 == 0 && decide (p.nf ≤ 16) && decide (1 ≤ p.per) && decide (p.per ≤ 192) &&
  (List.range 16).all (fun j =>
    let x := (p.fields.getD j 0).toNat
    if j < p.nf then fieldN x 13 2 == 0 && decide ((p.field j).1 + (p.field j).2.1 ≤ p.per) else x == 0)

/-- A pattern that is all zero (R336). -/
def Pat.zero : Pat := { hdr := 0, fields := List.replicate 16 0 }

def execXpatSet (f : T64) (s : State) : Out :=
  instr (.xpatSet f) s (fun th =>
    let w := fun (k : Nat) => th.sv (f.a.toNat + k)
    let p : Pat := { hdr := w 0, fields := (List.range 8).flatMap (fun k =>
      [(w (k + 1)).extractLsb' 0 16, (w (k + 1)).extractLsb' 16 16]) }
    if p.valid then .done s { th with xpat := setAt th.xpat f.c.toNat p }
    else .trap 0x07 (th.active (Instr.xpatSet f).guard) (f.c.setWidth 64) 0)

def execXpatGet (f : T64) (s : State) : Out :=
  instr (.xpatGet f) s (fun th =>
    let p := th.xpat.getD f.c.toNat Pat.zero
    let th1 := th.setS f.d.toNat p.hdr
    .done s ((List.range 8).foldl (fun t k =>
      t.setS (f.d.toNat + 1 + k) (p.fields.getD (2 * k + 1) 0 ++ p.fields.getD (2 * k) 0)) th1))

/-- Where lane L's element lies: first bit of the stream, width, sign extension (R338). -/
def xldPlace (p : Pat) (first : Word) (L : Nat) : Nat × Nat × Bool :=
  let e := first.toNat + L
  let x := p.field (e % p.nf)
  (e / p.nf * p.per + x.1, x.2.1, x.2.2)

def execXld (f : T64) (s : State) : Out :=
  instr (.xld f) s (fun th =>
    let m := th.active (Instr.xld f).guard
    let p := th.xpat.getD f.c.toNat Pat.zero
    if p.per = 0 then .trap 0x07 m (f.c.setWidth 64) 0
    else
      let base := th.sp f.a.toNat
      let place := fun L => xldPlace p (th.sv f.b.toNat) L
      let rq := (lanesOf m).flatMap (fun L =>
        let x := place L
        (List.range ((x.1 % 8 + x.2.1 + 7) / 8)).map (fun k => lreq L base (base + BitVec.ofNat 64 (x.1 / 8 + k)) 1 []))
      issueMem s th m false .load (checkGlobal s th .load) rq none none
        (.xload f.d.toNat ((lanesOf m).map (fun L => let x := place L; (L, x.1 % 8, x.2.1, x.2.2)))))

/-! ## Marks (R150-R152, R339) -/

/-- Earlier accesses of a form have performed at its scope (R150): forms ls, ld, st, ll, ss. -/
def markMet (th : Thread) (form sc : Nat) : Bool :=
  let loads := th.mq.all (fun o => !o.isLoad || o.performed sc)
  let stores := th.mq.all (fun o => !o.isStore || o.performed sc)
  match form with
  | 1 => loads
  | 3 => loads
  | 4 => stores
  | _ => loads && stores

/-- The later accesses of a form include loads: forms ls, ld, ll. -/
def markLoads (form : Nat) : Bool := form == 0 || form == 1 || form == 3

/-- A mark whose later accesses include loads drops the quill's copies at die scope or wider (R151). -/
def markDrop (s : State) (q form sc : Nat) : State := if markLoads form ∧ 2 ≤ sc then s.modQuill q cqClear else s

/-- A mark: it retires when its condition is met, else the thread waits (R150-R152). -/
def doMark (s : State) (set : Mask) (form sc : Nat) (th : Thread) : Res :=
  match (if sc ≥ 4 then checkPoint s th set else none) with
  | some r => r
  | none =>
    if markMet th form sc then .retire (markDrop s th.quill form sc)
    else .closed (s.setThread s.cur (waitAt th (.mark form sc)))

def execMarkT32 (form scope : BitVec 3) (s : State) : Out :=
  instr (.markT32 form scope) s (fun th => doMark s (th.active (0, false)) form.toNat scope.toNat th)
def execMarkT64 (f : T64) (s : State) : Out :=
  instr (.markT64 f) s (fun th => doMark s (th.active (Instr.markT64 f).guard) (f.m 28 26) (f.m 31 29) th)

/-- A waiting mark retires, or executes again where its warp has a remote fault (R152, R160). -/
def execMarkRetire (s : State) : Out :=
  .next (match s.thread s.inp.n1 with
  | none => s
  | some th => match th.wait with
    | .mark form sc =>
      if sc ≥ 4 ∧ (!domStoresDone th ∨ th.rfault.isSome) then
        (if domStoresDone th then s.setThread s.inp.n1 { th with wait := .none } else s)
      else if markMet th form sc then endWait (markDrop s th.quill form sc) s.inp.n1
      else s
    | _ => s)

/-! ## Arrival words (R101-R105, R340, R341) -/

/-- The fields of an arrival word: target, count, gen, and the upper word (R101). -/
structure AWord where
  target : Nat
  count : Nat
  gen : Word
  top : Nat
deriving DecidableEq, Repr

/-- Read an arrival word of a gang's scratchpad. -/
def awRead (s : State) (g p : Nat) : AWord :=
  let w := fun (i : Nat) => ofBytes (scrRead s g (p + 4 * i) 4)
  { target := w 0, count := w 1, gen := BitVec.ofNat 32 (w 2), top := w 3 }

/-- The arrival step (R102): sticky bits 1 overshoot, 2 cover, 3 disarmed of the upper word. -/
def arrival (x : AWord) (n : Nat) : AWord :=
  let n0 := x.count + n
  let n1 := min n0 0xFFFF_FFFF
  let top1 := if n0 > 0xFFFF_FFFF then x.top ||| 4 else x.top
  if x.target = 0 then { x with count := n1, top := top1 ||| 8 }
  else
    { x with top := if n1 > x.target then top1 ||| 2 else top1
             gen := x.gen + BitVec.ofNat 32 (n1 / x.target)
             count := n1 % x.target }

/-- The bytes of an arrival word. -/
def AWord.bytes (x : AWord) : List Byte := toBytes 4 x.target ++ toBytes 4 x.count ++ toBytes 4 x.gen.toNat ++ toBytes 4 x.top

/-- An arrival of n bytes on the word at a place. -/
def awArrive (s : State) (g p n : Nat) : State := scrWrite s g p (arrival (awRead s g p) n).bytes

/-- The checks of an arrival word's name (R103): its place, or the trap. -/
def awPlace (s : State) (gid : Nat) (a : Word) : Except Nat (Nat × Nat) :=
  if a.toNat % 16 ≠ 0 then .error 0x11
  else match scrPlace s gid a.toNat 16 0 with
    | some x => .ok x
    | none => .error 0x12

/-- A wait for a generation is satisfied (R105). -/
def awSatisfied (x : AWord) (g : Word) : Bool := decide ((x.gen - g).toNat < 2 ^ 31)

/-- tfval of a poisoned arrival word (R117). -/
def awPoisonVal (a : Word) : DWord := join64 a 0x300#32

/-- The entry of an arrival word as a load of the thread's order. -/
def awLoad (th : Thread) (g p : Nat) : MemOp × Acc :=
  ({ ser := th.ser, kind := .load, mode := th.mode, pol := 3, accs := [], acq := none, rel := none, fin := .none, dlv := true },
   { lane := 0, tgt := .scr g p, size := 16, data := [], cmp := [], got := [], ph := .pend, poison := false, req := none, und := [] })

/-- An acquire at a scope (R154). -/
def acquire (s : State) (q : Nat) (acq : Option Nat) : State :=
  match acq with
  | some sc => if 2 ≤ sc then s.modQuill q cqClear else s
  | none => s

def execArwait (f : T64) (s : State) : Out :=
  instr (.arwait f) s (fun th =>
    let m := th.active (Instr.arwait f).guard
    let a := th.sv f.a.toNat
    match awPlace s th.gang a with
    | .error c => .trap c m (a.setWidth 64) 0
    | .ok (g, p) =>
      let l := awLoad th g p
      if !loadReady th l.1 l.2 then .stay s
      else if scrPoisoned s g p 16 then .trap 0x28 m (awPoisonVal a) 0
      else
        let x := awRead s g p
        let gen := th.sv f.b.toNat
        let ok := awSatisfied x gen
        let acq := if f.mb 28 then some (f.m 31 29) else none
        if ok ∨ f.mb 27 then
          let th1 := if f.mb 26 then th.setS f.d.toNat (if f.mb 27 then (if ok then 1 else 0) else x.gen) else th
          .retire (acquire (s.setThread s.cur th1) th.quill (if ok then acq else none))
        else .closed (s.setThread s.cur (waitAt th (.arwait (g, p) gen acq (if f.mb 26 then some f.d.toNat else none)))))

/-- A waiting arwait whose word satisfies it goes on; one whose word is poisoned executes again and traps (R102, R340). -/
def execArwaitWake (s : State) : Out :=
  .next (match s.thread s.inp.n1 with
  | none => s
  | some th => match th.wait with
    | .arwait (g, p) gen acq wr =>
      if scrPoisoned s g p 16 then s.setThread s.inp.n1 { th with wait := .none }
      else
        let x := awRead s g p
        if awSatisfied x gen then
          let th1 := match wr with | some d => th.setS d x.gen | none => th
          acquire (endWait (s.setThread s.inp.n1 th1) s.inp.n1) th.quill acq
        else s
    | _ => s)

def execArrive (f : T64) (s : State) : Out :=
  instr (.arrive f) s (fun th =>
    let m := th.active (Instr.arrive f).guard
    let a := th.sv f.a.toNat
    let sc := f.m 31 29
    match awPlace s th.gang a with
    | .error c => .trap c m (a.setWidth 64) 0
    | .ok (g, p) =>
      if !allPerformed th (max sc 1) then .stay s
      else match (if sc ≥ 4 then checkPoint s th m else none) with
      | some r => r
      | none =>
        if scrPoisoned s g p 16 then .trap 0x28 m (awPoisonVal a) 0
        else .retire (awArrive s g p (th.sv f.b.toNat).toNat))

/-! ## The table unit (13 R361, R362) -/

/-- The rounding mode of a T64 instruction as its code (R263). -/
def rmCode (f : T64) (x : Px) : Nat := if f.mb 27 then f.m 26 24 else match x.rm with | some c => c.toNat | none => 0

def execVtbl (k : TblKind) (f : T64) (s : State) : Out :=
  instr (.vtbl k f) s (fun th =>
    let m := th.active (Instr.vtbl k f).guard
    let w := fun (i : Nat) => (th.sv (f.b.toNat + i)).toNat
    let n := fieldN (w 1) 0 16
    let rc := fieldN (w 1) 16 3
    let x0 := w 2
    let inv := w 3
    let size := if k = .quad then 12 * n else 4 * (n + 1)
    if fieldN (w 1) 19 13 ≠ 0 ∨ n = 0 ∨ rc ≥ 6 then .trap 0x0B m (f.b.setWidth 64) 0
    else if w 0 % 4 ≠ 0 then .trap 0x11 m (BitVec.ofNat 64 (w 0)) 0
    else match scrPlace s th.gang (w 0) size 0 with
    | none => .trap 0x12 m (BitVec.ofNat 64 (w 0)) 0
    | some (g, off) =>
      let lanes := (lanesOf m).map (fun L => (L, (th.lane f.a.toNat L).toNat))
      let accs := lanes.flatMap (fun l => (tblReads k x0 inv n l.2).map (fun e =>
        ({ lane := l.1, tgt := .scr g (rotate rc (off + 4 * e)), size := 4, data := [], cmp := [], got := [], ph := .pend,
           poison := false, req := none, und := [] } : Acc)))
      .done s (pushOp th .load accs none none
        (.table k f.d.toNat (rmCode f th.latch.px) (f.sat th.latch.px) x0 inv n lanes)))

end Sys2Proof.Machine
end

