-- ==== Sys2Proof/Machine/EngAddr.lean ====
section
/-! DEFINITION. What an engine command names (14 R381, R382): the positions of its bytes, the place of each on its source and
destination side with the faults of R383, and the bytes that a thread's own accesses touch before their count (06 R163). -/
namespace Sys2Proof.Machine
open Sys2Proof

/-- The mark of an engine's stores in the pending list, and of its misses. -/
def engTid (q : Nat) (st : Stream) : Nat := 2 ^ 40 + 2 * q + (match st with | .copy => 0 | .gather => 1)

/-! ## Positions (R382) -/

/-- Commands of R380. -/
def cmdCpyt : Nat := 1
def cmdGat : Nat := 2
def cmdSct : Nat := 3
def cmdCfill : Nat := 4
def cmdRred : Nat := 5

namespace EngCmd

/-- The stream of a command (R379, R380). -/
def st (c : EngCmd) : Stream := if c.cmd = cmdGat ∨ c.cmd = cmdSct then .gather else .copy
/-- Bytes of a command. -/
def total (c : EngCmd) : Nat := c.rows * c.len
/-- Element size of cpyt. -/
def es (c : EngCmd) : Nat := 2 ^ c.op
/-- Element size of rred (R384). -/
def rs (c : EngCmd) : Nat := if c.op = 1 then 8 else 4
/-- Rotation codes of the two sides. -/
def srcRc (c : EngCmd) : Nat := fieldN c.srcA.toNat 32 3
def dstRc (c : EngCmd) : Nat := fieldN c.dstA.toNat 32 3
/-- Length of a destination row. -/
def dstLen (c : EngCmd) : Nat := if c.cmd = cmdCpyt then c.rows * c.es else c.len

/-- Row number and byte of position e of an indexed command. -/
def row (c : EngCmd) (e : Nat) : Nat := e / c.len

/-- Distance of the source byte of position e from src, `i` the value that stands for its row. -/
def srcOff (c : EngCmd) (i e : Nat) : Int :=
  if c.cmd = cmdCpyt then
    let k := e / c.es
    (k % c.rows : Nat) * c.sstr + (k / c.rows * c.es + e % c.es : Nat)
  else (i : Int) * c.sstr + (e % c.len : Nat)

/-- Distance of the destination byte of position e from dst. -/
def dstOff (c : EngCmd) (i e : Nat) : Int :=
  if c.cmd = cmdCpyt then
    let k := e / c.es
    (k / c.rows : Nat) * c.dstr + (k % c.rows * c.es + e % c.es : Nat)
  else (i : Int) * c.dstr + (e % c.len : Nat)

end EngCmd

/-- The place of an index word in scratchpad. -/
def idxPlace (s : State) (c : EngCmd) (i : Nat) : Option (Nat × Nat) := scrPlace s c.gang ((c.idx + 4 * i) % 2 ^ 32) 4 0

/-- A command reads the scratchpad of its own gang, or of a far gang that has not exited; another reads as zero (R217). -/
def readsScr (s : State) (c : EngCmd) (g : Nat) : Bool := g == c.gang || gangLive s g

/-- The index of a row (R382). -/
def idxOf (s : State) (c : EngCmd) (i : Nat) : Nat :=
  match idxPlace s c i with
  | some (g, p) => if readsScr s c g then ofBytes (scrRead s g p 4) else 0
  | none => 0

/-- An indexed command whose index array is misaligned: the reads of its index words break R28 (R383). -/
def idxCrooked (c : EngCmd) : Bool := (c.cmd == cmdGat || c.cmd == cmdSct) && c.idx % 4 != 0

/-- Whether an index word is poisoned. -/
def idxPoisoned (s : State) (c : EngCmd) (i : Nat) : Bool :=
  match idxPlace s c i with
  | some (g, p) => readsScr s c g && scrPoisoned s g p 4
  | none => false

/-! ## Sides (R381, R383) -/

/-- Where one byte of a side lies: memory with kind, effective policy and virtual address; a peer; a scratchpad; staging; the fault
that it raises: class, index, address, syndrome; or memory whose translation is missing. -/
inductive ESide where
  | mem (kind pol pa va : Nat)
  | dom (peer off : Nat)
  | scr (gang p : Nat)
  | stg (slice o : Nat)
  | none
  | bad (cls index : Nat) (addr : DWord) (syn : Option Word)
  | miss (va : Nat)
deriving DecidableEq, Repr

/-- The class that a walk has delivered to an engine for an address (R75). -/
def engDlvd (s : State) (q : Nat) (c : EngCmd) (va : Nat) : Option WalkRes :=
  (s.xl.dlvd.find? (fun d => d.who == engTid q c.st && d.vmid == c.vmid && d.asid == c.asid && d.page == va / 65536)).map (fun d => d.res)

/-- The translation of an address for an engine: what the TLBs of its quill hold, or the class delivered to it (R73, R75). With
`peek`, one that is missing is looked up as a walk would find it: for what the command's bytes are, not for an access. -/
def engXlate (s : State) (q : Nat) (c : EngCmd) (k : AK) (va : Nat) (peek : Bool) : Option (Except WalkEnd (Leaf × Nat)) :=
  let r := match quillFind s q false c.vmid c.asid va with
    | some x => some (Except.ok x)
    | none => match engDlvd s q c va with
      | some (.bad cl l st) => some (Except.error (cl, l, st))
      | _ =>
        if peek then (match walk s (wcOf s (dieOf q)) c.vmid c.asid va with
          | (.ok l, size, _) => some (Except.ok (l, l.pa + va % 2 ^ size))
          | (.bad cl l st, _, _) => some (Except.error (cl, l, st)))
        else none
  match r with
  | some (.ok (l, pa)) => (match permBad k c.mode l with
    | some e => some (.error e)
    | none => some (.ok (l, pa)))
  | x => x

/-- An engine's miss joins the miss table of its die (R75, R76). -/
def engMiss (s : State) (q : Nat) (c : EngCmd) (va : Nat) : State :=
  queueMiss s (dieOf q) c.vmid c.asid (va / 65536) (c.mode != .user) (engTid q c.st)

/-- Class of a kind's refusal as efstat has it (R408). -/
def kindClass (cause : Nat) : Nat := if cause = 0x16 then 0x0C else 0x0B

/-- The place of a staging byte of a context (R114). -/
def stgPlace (s : State) (vmid asid slice : Nat) (off : Int) : Option (Nat × Nat) :=
  let own := ownedBy s slice (ownerWord vmid asid)
  if slice ≥ 192 ∨ off < 0 ∨ off ≥ 524288 * own.length then none
  else some (slice, own.getD (off.toNat / 524288) 0 * 524288 + off.toNat % 524288)

/-- A global byte of a command. `ix`: index and first position of an indexed row (R383). An rred element asks for w alone here
(log 67). A byte of a device register is an access of 1 byte, which that kind does not take (log 99). -/
def engGlobal (s : State) (q : Nat) (c : EngCmd) (peek wr : Bool) (base : DWord) (off : Int) (e : Nat) (ix : Option (Nat × Nat)) : ESide :=
  let a := base + BitVec.ofInt 64 off
  let k := if wr then AK.engW else AK.engR
  if nonCanonical base a then
    (match ix with
    | some (v, f) => .bad 0x0F f (BitVec.ofNat 64 v) none
    | none => .bad 0x09 e a none)
  else if a.getLsbD 55 then
    if domEnabled s (dieOf q) c.vmid c.asid then .dom (fieldN a.toNat 46 9) (fieldN a.toNat 0 46) else .bad 0x19 e a none
  else match engXlate s q c k a.toNat peek with
  | none => .miss a.toNat
  | some (.error (cl, l, st)) => .bad cl e a (some (synOf k cl l st))
  | some (.ok (l, pa)) => match kindBad (if wr ∧ c.cmd = cmdRred then .atomic else k) l.kind 1 with
    | some cause => .bad (kindClass cause) e a none
    | none => .mem l.kind (min l.pol c.pol) pa a.toNat

/-- A byte of a side of a command in a space (R381). -/
def engPlace (s : State) (q : Nat) (c : EngCmd) (peek wr : Bool) (space : Nat) (opd : DWord) (off : Int) (e : Nat)
    (ix : Option (Nat × Nat)) : ESide :=
  match space with
  | 0 => engGlobal s q c peek wr opd off e ix
  | 1 =>
    (match scrPlace s c.gang (wrapN 32 ((lo32 opd).toNat + off)) 1 (fieldN opd.toNat 32 3) with
    | some (g, p) => .scr g p
    | none => .none)
  | 2 =>
    (match stgPlace s c.vmid c.asid (fieldN opd.toNat 32 8) ((lo32 opd).toNat + off) with
    | some (k, o) => .stg k o
    | none => match ix with
      | some (v, f) => .bad 0x0F f (BitVec.ofNat 64 v) none
      | none => .bad 0x0D e (opd + BitVec.ofInt 64 off) none)
  | _ => .none

/-- The row value and the index of position e: gat indexes its source, sct its destination. -/
def engIndex (s : State) (c : EngCmd) (cmd e : Nat) : Nat × Option (Nat × Nat) :=
  if c.cmd = cmd then (idxOf s c (c.row e), some (idxOf s c (c.row e), c.row e * c.len)) else (c.row e, none)

/-- The source byte of position e, as an access finds it or as it is known. -/
def srcAt (s : State) (q : Nat) (c : EngCmd) (peek : Bool) (e : Nat) : ESide :=
  let x := engIndex s c cmdGat e
  engPlace s q c peek false c.src c.srcA (c.srcOff x.1 e) e x.2

/-- The destination byte of position e. -/
def dstAt (s : State) (q : Nat) (c : EngCmd) (peek : Bool) (e : Nat) : ESide :=
  let x := engIndex s c cmdSct e
  engPlace s q c peek true c.dst c.dstA (c.dstOff x.1 e) e x.2

/-- What the source and destination bytes of a position are, whatever the TLBs hold. -/
def srcSide (s : State) (q : Nat) (c : EngCmd) (e : Nat) : ESide := srcAt s q c true e
def dstSide (s : State) (q : Nat) (c : EngCmd) (e : Nat) : ESide := dstAt s q c true e

/-! ## Streams -/

/-- The stream of such a mark. -/
def engStream (tid : Nat) : Stream := if tid % 2 = 0 then .copy else .gather

/-- Change a command of a stream by its sequence number. -/
def modCmd (s : State) (q : Nat) (st : Stream) (seq : Nat) (f : EngCmd → EngCmd) : State :=
  s.modQuill q (fun x =>
    let y := x.stream st
    x.setStream st { y with cmds := y.cmds.map (fun c => if c.seq = seq then f c else c) })

/-! ## A thread's own accesses (R163) -/

/-- Whether an engine's byte is byte `i` of an access. -/
def sideIs (t : Tgt) (i : Nat) (d : ESide) : Bool :=
  match t, d with
  | .mem _ _ a _ _ _ _, .mem _ _ b _ => a + i == b
  | .dec _ a _ _ _ _, .mem _ _ b _ => a + i == b
  | .dom p a, .dom q b => p == q && a + i == b
  | .scr g a, .scr h b => g == h && scrByte a i == b
  | _, _ => false

/-- The uncounted positions of a thread's earlier commands that an access touches: stream, command, position, byte. -/
def touched (s : State) (t ser q : Nat) (a : Acc) : List (Stream × Nat × Nat × Nat) :=
  [Stream.copy, Stream.gather].flatMap (fun st =>
    (((s.quill q).stream st).cmds.filter (fun c => c.tid == t && decide (c.ser ≤ ser))).flatMap (fun c =>
      ((List.range (c.total - c.e)).map (fun i => c.e + i)).flatMap (fun e =>
        (List.range a.size).filterMap (fun i =>
          if sideIs a.tgt i (srcSide s q c e) ∨ sideIs a.tgt i (dstSide s q c e) then some (st, c.seq, e, i) else none))))

/-- The touched positions' results are undefined from now on. -/
def taint (s : State) (q : Nat) (ts : List (Stream × Nat × Nat × Nat)) : State :=
  ts.foldl (fun s t => modCmd s q t.1 t.2.1 (fun c => { c with taint := t.2.2.1 :: c.taint })) s

/-- The positions of a command whose destination bytes form the aligned unit of `n` bytes of position e's byte at `a`, where its
row covers the unit whole (R117, R130). -/
def unitPositions (c : EngCmd) (n e a : Nat) : Option (List Nat) :=
  let x := e % c.dstLen
  if a % n ≤ x ∧ x - a % n + n ≤ c.dstLen then some ((List.range n).map (fun i => e - a % n + i)) else none

/-- The poison of the unit that an engine's store reaches: gone when the command has stored the whole unit (R130, R131). -/
def engPoison (s : State) (q : Nat) (tid seq e pa : Nat) : State :=
  let u := pa / 64 * 64
  if !poisoned s u 64 then s
  else match ((s.quill q).stream (engStream tid)).cmds.find? (fun c => c.seq == seq) with
  | none => logPoison s 2 pa
  | some c => match unitPositions c 64 e pa with
    | none => logPoison s 2 pa
    | some es =>
      if es.all (fun i => (decide (i < c.e) || c.wrote.contains i) &&
          !(s.quill q).pq.any (fun x => x.tid == tid && x.ser == seq && x.acc == i)) then clearPoison s u 64
      else s

/-- Bytes with the touched ones free, the n-th use of a free value (log 4). -/
def freeBytes (n : Nat) (ts : List (Stream × Nat × Nat × Nat)) (data : List Byte) : List Byte :=
  data.zipIdx.map (fun b => if ts.any (fun t => t.2.2.2 == b.2) then Config.freeByte (n * 16 + b.2) else b.1)

/-- The results of atomics and the bytes that they leave, with the touched ones free. -/
def freeAtomic (n : Nat) (ts : List (Stream × Nat × Nat × Nat)) (r : List (Nat × List Byte) × List Byte) :
    List (Nat × List Byte) × List Byte :=
  if ts.isEmpty then r else (r.1.map (fun x => (x.1, freeBytes n ts x.2)), freeBytes n ts r.2)

end Sys2Proof.Machine
end

