-- ==== Sys2Proof/Machine/Texture.lean ====
section
/-! DEFINITION. Texture data and sampling (05 R134-R139; 14 R389-R395). -/
namespace Sys2Proof.Machine
open Sys2Proof

/-! ## Texel formats (R134, R138, R392) -/

/-- The rounded F32 of p / q. -/
def ratio (neg : Bool) (p q : Nat) : Nat :=
  if p = 0 then 0 else (roundQuot Fmt.f32 .rne neg p 0 q 0).bits

/-- UNORM8 (R392). -/
def unorm8 (c : Nat) : Nat := ratio false c 255

/-- SNORM8 (R392). -/
def snorm8 (c : Nat) : Nat :=
  let v := sext c 8
  let w : Int := if v < -127 then -127 else v
  ratio (decide (w < 0)) w.natAbs 127

/-- The integer fifth root, by fixing bits from the top. -/
def root5From (n : Nat) : Nat → Nat → Nat
  | 0, acc => acc
  | i + 1, acc => root5From n i (if (acc + 2 ^ i) ^ 5 ≤ n then acc + 2 ^ i else acc)

/-- The sRGB decoding function of IEC 61966-2-1, correctly rounded: c/255/12.92 up to 0.04045, else
((c/255 + 0.055)/1.055)^2.4, with 2.4 = 12/5 (R392). -/
def srgb8 (c : Nat) : Nat :=
  if c ≤ 10 then ratio false (10 * c) 32946
  else
    let p := (1000 * c + 14025) ^ 12 * 2 ^ 200
    let q := 269025 ^ 12
    let r := root5From (p / q) 42 0
    (roundMag Fmt.f32 .rne false r (-40) (r ^ 5 * q != p)).bits

/-- The pattern of 1.0 in F32. -/
def oneF32 : Nat := 0x3F80_0000

/-- One UNORM8 channel, with sRGB for the first three. -/
def chan8 (srgb : Bool) (i c : Nat) : Nat := if srgb && decide (i < 3) then srgb8 c else unorm8 c

/-- Fill the absent channels (R392). -/
def fillRgba (cs : List Nat) : List Nat := [cs.getD 0 0, cs.getD 1 0, cs.getD 2 0, cs.getD 3 oneF32]

/-- n channels of UNORM8. -/
def unormTexel (srgb : Bool) (n : Nat) (bs : List Byte) : List Nat :=
  fillRgba ((List.range n).map (fun i => chan8 srgb i (bs.getD i 0).toNat))

/-- n channels of F16. -/
def halfTexel (n : Nat) (bs : List Byte) : List Nat :=
  fillRgba ((List.range n).map (fun i => (fToF Fmt.f16 Fmt.f32 .rne false (ofBytes ((bs.drop (2 * i)).take 2))).bits))

/-- n channels of F32. -/
def floatTexel (n : Nat) (bs : List Byte) : List Nat :=
  fillRgba ((List.range n).map (fun i => ofBytes ((bs.drop (4 * i)).take 4)))

/-- Bytes of a plain texel (R390). -/
def texelBytes (fmt : Nat) : Nat :=
  match fmt with
  | 0 => 4
  | 1 => 2
  | 2 => 1
  | 3 => 8
  | 4 => 4
  | 5 => 16
  | _ => 4

/-- A plain texel as RGBA in F32. -/
def plainTexel (fmt : Nat) (srgb : Bool) (bs : List Byte) : List Nat :=
  match fmt with
  | 0 => unormTexel srgb 4 bs
  | 1 => unormTexel srgb 2 bs
  | 2 => unormTexel srgb 1 bs
  | 3 => halfTexel 4 bs
  | 4 => floatTexel 1 bs
  | 5 => floatTexel 4 bs
  | _ => halfTexel 2 bs

/-! ## Blocks (R138) -/

/-- An RGB565 endpoint widened to 8 bits. -/
def rgb565 (c : Nat) : List Nat :=
  let r := fieldN c 11 5
  let g := fieldN c 5 6
  let b := fieldN c 0 5
  [r * 8 + r / 4, g * 4 + g / 16, b * 8 + b / 4]

/-- The colour of a BC1-style block at a texel: RGB and alpha; `four`: always four colours. -/
def bcColour (four : Bool) (bs : List Byte) (x y : Nat) : List Nat :=
  let c0 := ofBytes (bs.take 2)
  let c1 := ofBytes ((bs.drop 2).take 2)
  let i := fieldN (ofBytes ((bs.drop 4).take 4)) (2 * (4 * y + x)) 2
  let e0 := rgb565 c0
  let e1 := rgb565 c1
  let mix := fun (a b d r : Nat) => (List.zipWith (fun p q => (a * p + b * q + r) / d) e0 e1) ++ [255]
  match i with
  | 0 => e0 ++ [255]
  | 1 => e1 ++ [255]
  | 2 => if four || decide (c0 > c1) then mix 2 1 3 1 else mix 1 1 2 1
  | _ => if four || decide (c0 > c1) then mix 1 2 3 1 else [0, 0, 0, 0]

/-- Round p / n half away from zero. -/
def divHalfAway (p : Int) (n : Nat) : Int :=
  let m := (2 * p.natAbs + n) / (2 * n)
  if p < 0 then -(m : Int) else m

/-- The value of an interpolated 8-byte channel block at a texel, as a byte. -/
def bcChannel (signed : Bool) (bs : List Byte) (x y : Nat) : Nat :=
  let rd := fun (b : Byte) => if signed then max (-127) b.toInt else (b.toNat : Int)
  let a0 := rd (bs.getD 0 0)
  let a1 := rd (bs.getD 1 0)
  let i := fieldN (ofBytes ((bs.drop 2).take 6)) (3 * (4 * y + x)) 3
  let mix := fun (n k : Nat) => if signed then divHalfAway (((n : Int) - k) * a0 + k * a1) n
    else (((n : Int) - k) * a0 + k * a1 + n / 2) / n
  let v : Int := if i = 0 then a0 else if i = 1 then a1
    else if a0 > a1 then mix 7 (i - 1)
    else if i ≤ 5 then mix 5 (i - 1)
    else if i = 6 then (if signed then -127 else 0) else (if signed then 127 else 255)
  wrapN 8 v

/-- Block bytes, width and height of a dwfmt (R134, R135). -/
def blockGeom (s : State) (dw : Nat) : Nat × Nat × Nat :=
  if dw = 0 ∨ dw = 3 ∨ dw = 4 then (8, 4, 4)
  else if dw < 10 then (16, 4, 4)
  else
    let r := (s.st.astc.getD (dw - 10) 0).toNat
    (16, fieldN r 0 4, fieldN r 4 4)

/-- Decoded texel bytes of a dwfmt (R134). -/
def decodedBytes (s : State) (dw : Nat) : Nat :=
  if dw = 3 ∨ dw = 4 then 1
  else if dw = 5 ∨ dw = 6 then 2
  else if dw = 7 ∨ dw = 8 then 8
  else if dw < 10 then 4
  else if (s.st.astc.getD (dw - 10) 0).getLsbD 15 then 8 else 4

/-- A block of BC6H or BC7 with a reserved mode: a mode field of BC6H that names no mode, a first byte of BC7 without a set bit (R138,
log 70). -/
def modeReserved (dw : Nat) (bs : List Byte) : Bool :=
  let b := (bs.getD 0 0).toNat
  if dw = 9 then b == 0 else [0x13, 0x17, 0x1B, 0x1F].contains (b % 32)

/-- A texel of a block as RGBA in F32 (R138, R392). -/
def blockTexel (s : State) (dw : Nat) (srgb : Bool) (bs : List Byte) (x y : Nat) : List Nat :=
  let u := fun (cs : List Nat) => fillRgba ((cs.zip (List.range 4)).map (fun c => chan8 srgb c.2 c.1))
  match dw with
  | 0 => u (bcColour false bs x y)
  | 1 => u ((bcColour true (bs.drop 8) x y).take 3 ++ [fieldN (ofBytes (bs.take 8)) (4 * (4 * y + x)) 4 * 17])
  | 2 => u ((bcColour true (bs.drop 8) x y).take 3 ++ [bcChannel false bs x y])
  | 3 => u [bcChannel false bs x y]
  | 4 => fillRgba [snorm8 (bcChannel true bs x y)]
  | 5 => u [bcChannel false bs x y, bcChannel false (bs.drop 8) x y]
  | 6 => fillRgba [snorm8 (bcChannel true bs x y), snorm8 (bcChannel true (bs.drop 8) x y)]
  | _ =>
    let r := s.st.astc.getD (dw - 10) 0
    let t := Config.decodeBlock dw r bs x y
    let hdr := r.getLsbD 15
    if dw < 10 then
      if modeReserved dw bs then [0, 0, 0, 0] else if dw = 9 then unormTexel srgb 4 t else halfTexel 3 t
    else if Config.astcError r bs then (if hdr then [oneF32, 0, oneF32, oneF32] else u [255, 0, 255, 255])
    else if hdr then halfTexel 4 t else u ((List.range 4).map (fun i => ofBytes ((t.drop (2 * i)).take 2) / 256))

/-- The smallest power of two at or above n. -/
def powTwo (n : Nat) : Nat := if n ≤ 1 then 1 else 2 ^ (Nat.log2 (n - 1) + 1)

/-- Bytes of a block's decoded texels with their padding: S (R136). -/
def decodedSize (s : State) (dw : Nat) : Nat :=
  let g := blockGeom s dw
  powTwo g.2.1 * powTwo g.2.2 * decodedBytes s dw

/-- The decoded address of a texel of the block at an address (R136). -/
def decAddr (s : State) (dw a x y : Nat) : Nat :=
  let g := blockGeom s dw
  2 ^ 63 + a / g.1 * decodedSize s dw + (y * powTwo g.2.1 + x) * decodedBytes s dw

/-- The key of the decoded line of a texel in an L1: context, decode format and decoded line (R136-R138). -/
def decKey (s : State) (dw vmid asid a x y : Nat) : Nat := ((vmid * 1024 + asid) * 16 + dw) * 2 ^ 64 + decAddr s dw a x y / 128

/-- The address of the compressed bytes that a decoded line draws on (R136). -/
def decSource (s : State) (dw key : Nat) : Nat :=
  (key % 2 ^ 64 * 128 - 2 ^ 63) / decodedSize s dw * (blockGeom s dw).1

/-! ## Descriptors and levels (R390, R391) -/

/-- The fields of a texture descriptor. -/
structure TexDesc where
  base : DWord
  w : Nat
  h : Nat
  lv : Nat
  fmt : Nat
  srgb : Bool
  filt : Nat
  addv : Nat
  addu : Nat
  bias : Nat
  minl : Nat
  maxl : Nat
deriving DecidableEq, Repr

/-- Read a descriptor from eight words. -/
def texDesc (d : List Word) : TexDesc :=
  let w := fun i => (d.getD i 0).toNat
  { base := join64 (d.getD 1 0) (d.getD 0 0), w := fieldN (w 2) 0 16 + 1, h := fieldN (w 2) 16 16 + 1, lv := fieldN (w 3) 24 4,
    fmt := fieldN (w 3) 16 4, srgb := bitN (w 4) 8, filt := fieldN (w 4) 6 2, addv := fieldN (w 4) 3 3, addu := fieldN (w 4) 0 3,
    bias := w 5, minl := w 6, maxl := w 7 }

/-- The descriptor faults of R390. -/
def texDescBad (d : List Word) : Bool :=
  let x := texDesc d
  let w := fun i => (d.getD i 0).toNat
  fieldN (w 3) 28 4 != 0 || fieldN (w 3) 20 4 != 0 || fieldN (w 3) 0 16 != 0 || fieldN (w 4) 9 23 != 0 ||
  (decide (7 ≤ x.fmt) && decide (x.fmt ≤ 14)) || x.filt == 3 || decide (x.addu ≥ 4) || decide (x.addv ≥ 4) ||
  x.base.toNat % 128 != 0 || [x.bias, x.minl, x.maxl].any (fun b => (unpack Fmt.f32 b).isNan)

/-- Width or height of level m. -/
def levelDim (n m : Nat) : Nat := max 1 (n / 2 ^ (min m 32))

/-- Unit bytes and unit width and height in texels: a texel, or a block. -/
def texUnit (s : State) (x : TexDesc) (dw : Option Nat) : Nat × Nat × Nat :=
  match dw with
  | some k => blockGeom s k
  | none => (texelBytes x.fmt, 1, 1)

/-- Pitch and rows of level m (R391). -/
def levelPitch (u : Nat × Nat × Nat) (x : TexDesc) (m : Nat) : Nat × Nat :=
  let un := (levelDim x.w m + u.2.1 - 1) / u.2.1
  ((un * u.1 + 127) / 128 * 128, (levelDim x.h m + u.2.2 - 1) / u.2.2)

/-- Offset of level m from the base. -/
def levelBase (u : Nat × Nat × Nat) (x : TexDesc) (m : Nat) : Nat :=
  (List.range m).foldl (fun a k => let p := levelPitch u x k; a + p.1 * p.2) 0

/-! ## Coordinates, levels, filters (R392-R394) -/

/-- Resolve a coordinate; none outside a border (R392). -/
def wrapCoord (mode n : Nat) (i : Int) : Option Nat :=
  match mode with
  | 0 => some (i % n).toNat
  | 1 => some (max 0 (min i ((n : Int) - 1))).toNat
  | 2 => let j := (i % (2 * n : Nat)).toNat; some (if j < n then j else 2 * n - 1 - j)
  | _ => if 0 ≤ i ∧ i < n then some i.toNat else none

/-- floor of an FV that is finite. -/
def floorFV (v : FV) : Int :=
  match v with
  | .fin neg m e => let r := roundAt neg m e false 0 .rdn; if neg then -(r.1 : Int) else r.1
  | _ => 0

/-- A coordinate that is NaN is zero, one that is infinite is ±2^24 (R394). -/
def fixCoord (v : FV) : FV :=
  match v with
  | .nan _ _ => FV.zero false
  | .inf n => .fin n 1 24
  | w => w

/-- x - i as an FV. -/
def minusInt (v : FV) (i : Int) : FV := (sumFV .rne [v, FV.ofInt (-i)]).getD (FV.zero false)

/-- RNE(256 v) for a finite v from 0 to 1. -/
def in256 (v : FV) : Nat :=
  match v with
  | .fin false m e => (roundAt false m (e + 8) false 0 .rne).1
  | _ => 0

/-- The integer coordinate and the weight in 1/256 of a bilinear axis (R394). -/
def bilinearAxis (sx : FV) : Int × Nat :=
  let su := unpack Fmt.f32 (match sumFV .rne [sx, .fin true 1 (-1)] with | some v => (roundFV Fmt.f32 .rne v).bits | none => 0)
  let i := floorFV su
  let a := in256 (minusInt su i)
  if a = 256 then (i + 1, 0) else (i, a)

/-- A scaled coordinate (R394). -/
def scaled (u n : Nat) : FV := fixCoord (unpack Fmt.f32 (fMul Fmt.f32 .rne false u (intToF Fmt.f32 .rne false n).bits).bits)

/-- λ from the four derivatives (R393). -/
def lambdaOf (x : TexDesc) (dudx dvdx dudy dvdy : Nat) : FV :=
  let w := (intToF Fmt.f32 .rne false x.w).bits
  let h := (intToF Fmt.f32 .rne false x.h).bits
  let sq := fun a n => let p := (fMul Fmt.f32 .rne false a n).bits; (fMul Fmt.f32 .rne false p p).bits
  let side := fun a b => (fAdd Fmt.f32 .rne false (sq a w) (sq b h)).bits
  let p := side dudx dvdx
  let q := side dudy dvdy
  let bad := (unpack Fmt.f32 p).isNan || (unpack Fmt.f32 q).isNan
  if bad then unpack Fmt.f32 x.minl
  else match unpack Fmt.f32 (fMinMax Fmt.f32 true p q).bits with
  | .fin _ m e =>
    if m = 0 then .inf true
    else
      let k : Int := (Nat.log2 (m ^ 128) : Int) + 128 * e
      .fin (decide (k < 0)) k.natAbs (-8)
  | _ => .inf false

/-- The larger or smaller of two values, the other when one is not a number. -/
def pickFV (mx : Bool) (a b : FV) : FV :=
  if a.isNan then b else if b.isNan then a else if (cmpFV a b ≥ 0) = mx then a else b

/-- A value rounded to F32 under RNE (R393). -/
def roundF32 (v : FV) : FV := unpack Fmt.f32 (roundFV Fmt.f32 .rne v).bits

/-- λ' (R393), finite from 0 to lv; λ + bias alone is exact. -/
def lambdaClamped (x : TexDesc) (l : FV) : FV :=
  let v := (sumFV .rne [l, unpack Fmt.f32 x.bias]).getD (.nan false 1)
  let a := roundF32 (pickFV true v (unpack Fmt.f32 x.minl))
  let b := pickFV false a (unpack Fmt.f32 x.maxl)
  pickFV false (pickFV true b (FV.zero false)) (FV.ofInt x.lv)

/-- Where one lane reads: levels, weights, texels. A texel is its level and its integer coordinates. -/
structure TexPlan where
  /-- filter: 0 one texel, 1 bilinear, 2 trilinear with two levels, 3 four texels -/
  how : Nat
  /-- weights of the first level, of the second, and between them, in 1/256 -/
  wts : List Nat
  texels : List (Nat × Int × Int)
deriving DecidableEq, Repr

/-- The four bilinear texels of a level with their weights. -/
def bilinearAt (x : TexDesc) (u v m : Nat) : List (Nat × Int × Int) × List Nat :=
  let p := bilinearAxis (scaled u (levelDim x.w m))
  let q := bilinearAxis (scaled v (levelDim x.h m))
  ([(m, p.1, q.1), (m, p.1 + 1, q.1), (m, p.1, q.1 + 1), (m, p.1 + 1, q.1 + 1)], [p.2, q.2])

/-- The plan of a lane of a filtered sample (R393, R394); `four`: tex4. -/
def texPlan (x : TexDesc) (four : Bool) (u v : Nat) (l : FV) : TexPlan :=
  let lm := lambdaClamped x l
  let near := min (floorFV (roundF32 ((sumFV .rne [lm, .fin false 1 (-1)]).getD lm))).toNat x.lv
  if four then let b := bilinearAt x u v near; { how := 3, wts := [], texels := b.1 }
  else match x.filt with
  | 0 => { how := 0, wts := [], texels := [(near, floorFV (scaled u (levelDim x.w near)), floorFV (scaled v (levelDim x.h near)))] }
  | 1 => let b := bilinearAt x u v near; { how := 1, wts := b.2, texels := b.1 }
  | _ =>
    let k := (floorFV lm).toNat
    let b := bilinearAt x u v k
    if k ≥ x.lv then { how := 1, wts := b.2, texels := b.1 }
    else
      let c := bilinearAt x u v (k + 1)
      { how := 2, wts := b.2 ++ c.2 ++ [in256 (roundF32 (minusInt lm k))], texels := b.1 ++ c.1 }

/-- The plan of a lane (R393, R394). -/
def lanePlan (fn : Nat) (x : TexDesc) (th : Thread) (a L : Nat) : TexPlan :=
  let v := fun r l => (th.lane (a + r) l).toNat
  let sub := fun p q => (fSub Fmt.f32 .rne false p q).bits
  let own := fun b => if (unpack Fmt.f32 b).isNan then unpack Fmt.f32 x.minl else unpack Fmt.f32 b
  match fn with
  | 0 =>
    let q := L / 4 * 4
    texPlan x false (v 0 L) (v 1 L) (lambdaOf x (sub (v 0 (q + 1)) (v 0 q)) (sub (v 1 (q + 1)) (v 1 q))
      (sub (v 0 (q + 2)) (v 0 q)) (sub (v 1 (q + 2)) (v 1 q)))
  | 1 => texPlan x false (v 0 L) (v 1 L) (own (v 2 L))
  | 2 => texPlan x false (v 0 L) (v 1 L) (lambdaOf x (v 2 L) (v 3 L) (v 4 L) (v 5 L))
  | 3 => { how := 0, wts := [], texels := [(min (v 2 L) x.lv, (th.lane a L).toInt, (th.lane (a + 1) L).toInt)] }
  | _ => texPlan x true (v 0 L) (v 1 L) (own (v 2 L))

/-! ## Issue -/

/-- What becomes of one texel. -/
inductive TexChk where
  | border
  | absent
  /-- read: its single-copy atomic parts and the place in a block -/
  | read (parts : List (Tgt × Nat)) (inBlock : Nat)
  | bad (cause : Nat) (val : DWord) (syn : Word)
  | miss (va : Nat)
deriving DecidableEq, Repr

/-- The decode format that a block texture's base page gives, none for a plain format; else the trap that the page raises, or none
where its translation is still missing. -/
def baseFormat (s : State) (th : Thread) (x : TexDesc) : Except (Option (Nat × DWord × Word)) (Option Nat) :=
  if x.fmt ≠ 15 then .ok none
  else if fieldN x.base.toNat 56 8 ≠ 0 then .error (some (0x10, x.base, 0))
  else if x.base.getLsbD 55 then .error (some (0x0C, x.base, 0))
  else match translate s th .tex th.mode x.base.toNat with
  | .miss => .error none
  | .fault c l st => .error (some (0x20, x.base, synOf .tex c l st))
  | .hit l _ => match l.dw with
    | some k => .ok (some k)
    | none => .error (some (0x0C, BitVec.ofNat 64 (x.base.toNat / 65536 * 65536), 0))

/-- Check one texel (R391, R395). -/
def checkTexel (s : State) (th : Thread) (x : TexDesc) (border : Bool) (dw : Option Nat) (t : Nat × Int × Int) : TexChk :=
  let m := t.1
  match wrapCoord (if border then 3 else x.addu) (levelDim x.w m) t.2.1, wrapCoord (if border then 3 else x.addv) (levelDim x.h m) t.2.2 with
  | some i, some j =>
    let u := texUnit s x dw
    let p := levelPitch u x m
    let a : DWord := x.base + BitVec.ofNat 64 (levelBase u x m + j / u.2.2 * p.1 + i / u.2.1 * u.1)
    if nonCanonical x.base a then .bad 0x10 a 0
    else if a.getLsbD 55 then
      if dw.isSome then .bad 0x0C (BitVec.ofNat 64 (a.toNat / 65536 * 65536)) 0
      else if domEnabled s (dieOf th.quill) th.vmid th.asid then .read [(.dom (fieldN a.toNat 46 9) (fieldN a.toNat 0 46), u.1)] 0
      else .bad 0x14 a 0
    else match translate s th .tex th.mode a.toNat with
    | .miss => .miss a.toNat
    | .fault c l st => if c = 7 then .absent else .bad 0x20 a (synOf .tex c l st)
    | .hit l pa => match dw with
      | none => (match kindBad .tex l.kind u.1 with
        | some c => .bad c a 0
        | none => .read (hostSplit l.kind (effPolicy l (reqPolicy Px.none)) pa th.vmid th.asid a.toNat l.sz u.1) 0)
      | some k =>
        if l.dw ≠ some k then .bad 0x0C (BitVec.ofNat 64 (a.toNat / 65536 * 65536)) 0
        else .read [(.dec (decKey s k th.vmid th.asid a.toNat (i % u.2.1) (j % u.2.2)) pa th.vmid th.asid a.toNat l.sz, u.1)]
          (i % u.2.1 + 16 * (j % u.2.2))
  | _, _ => .border

/-- The code of a texel in the queue entry: 0 border, 1 not resident, else 2 plus the place in the block, and 512 more where two
accesses read it. -/
def TexChk.code : TexChk → Nat
  | .border => 0
  | .absent => 1
  | .read ps e => 2 + e + (if ps.length = 2 then 512 else 0)
  | _ => 1

/-- The access of a texel, as a request of its lane. -/
def texReq (L : Nat) : LaneReq := { lane := L, base := 0, addr := 0, size := 0, data := [], cmp := [] }

/-- The decode format under which a block texture's footprint is judged, or the address of a page whose translation is missing: the
format of the base page; where that page gives none, the first one under which some texel lies in a resident page of that format, else
the first under which no texel's page faults, else the first (R139, R391, R395; log 69). -/
def texFormat (s : State) (th : Thread) (x : TexDesc) (border : Bool) (ts : List (Nat × Int × Int)) : Except Nat (Option Nat) :=
  match baseFormat s th x with
  | .ok k => .ok k
  | .error none => .error x.base.toNat
  | .error (some _) =>
    let cs := (List.range 16).map (fun k => (k, ts.map (checkTexel s th x border (some k))))
    match cs.find? (fun c => c.2.any (fun r => match r with | .read .. => true | _ => false)) with
    | some c => .ok (some c.1)
    | none => match (cs.flatMap (fun c => c.2)).findSome? (fun r => match r with | .miss va => some va | _ => none) with
      | some va => .error va
      | none => .ok (some (((cs.find? (fun c => !c.2.any (fun r => match r with | .bad .. => true | _ => false))).map Prod.fst).getD 0))

/-- A sample (R389-R395). -/
def texOp (i : Instr) (s : State) (fn : Nat) (f : T64) (ch : Nat) : Out :=
  instr i s (fun th =>
    let m := th.active i.guard
    let words := (List.range 8).map (fun k => th.sv (f.b.toNat + k))
    if texDescBad words then .trap 0x0A m (f.b.setWidth 64) 0
    else
      let x := texDesc words
      let plans := (lanesOf m).map (fun L => (L, lanePlan fn x th f.a.toNat L))
      let base := texFormat s th x (fn == 3) (plans.flatMap (fun p => p.2.texels))
      let rs := plans.map (fun p => (p.1, p.2.texels.map (fun t => match base with
        | .ok dw => checkTexel s th x (fn == 3) dw t
        | .error va => .miss va)))
      let all := rs.flatMap (fun r => r.2.map (fun c => (r.1, c)))
      let toChk := fun (c : Nat × TexChk) => (c.1, match c.2 with
        | .bad a b d => Chk.bad a b d
        | .miss va => Chk.miss va
        | _ => Chk.ok [])
      let cs := all.map toChk
      if missing cs then awaitMisses s th cs
      else match firstBad cs with
      | some (c, v, y, bm) => .trap c bm v y
      | none =>
        let accs := all.flatMap (fun c => match c.2 with
          | .read ps _ => partsOf (texReq c.1) ps
          | _ => [])
        let nl := (domLines accs).length
        let lanes := (plans.zip rs).map (fun p => (p.1.1, p.1.2.how :: p.1.2.wts.length :: (p.1.2.wts ++ p.2.2.map TexChk.code),
          match base with | .ok (some k) => k | _ => 16))
        if roomFull s th.quill (.requests nl) then .full s (.requests nl)
        else .done s (pushOp th .load accs none none (.texture fn ch f.d.toNat words lanes)))

def execTex (f : T64) (s : State) : Out := texOp (.tex f) s 0 f 0
def execTexl (f : T64) (s : State) : Out := texOp (.texl f) s 1 f 0
def execTexg (f : T64) (s : State) : Out := texOp (.texg f) s 2 f 0
def execTexf (f : T64) (s : State) : Out := texOp (.texf f) s 3 f 0
def execTex4 (f : T64) (s : State) : Out := texOp (.tex4 f) s 4 f (f.m 31 30)

/-- texq (R389, R391). -/
def execTexq (f : T64) (s : State) : Out :=
  instr (.texq f) s (fun th =>
    let m := th.active (Instr.texq f).guard
    let words := (List.range 8).map (fun k => th.sv (f.b.toNat + k))
    if texDescBad words then .trap 0x0A m (f.b.setWidth 64) 0
    else
      let x := texDesc words
      let lev := (th.sv f.a.toNat).toNat
      match baseFormat s th x with
      | .error none => awaitMisses s th [(0, .miss x.base.toNat)]
      | .error (some (c, v, y)) => .trap c m v y
      | .ok dw =>
        let p := levelPitch (texUnit s x dw) x lev
        .done s ((th.setS f.d.toNat (BitVec.ofNat 32 ((levelDim x.h lev - 1) * 65536 + (levelDim x.w lev - 1)))).setS (f.d.toNat + 1)
          (BitVec.ofNat 32 p.1)))

/-! ## Values at the return (R139, R394, R395) -/

/-- A weighted sum of channel values, rounded once; weights in 1/2^k. -/
def weighted (k : Nat) (ts : List (Nat × Nat)) : Nat :=
  match firstNan Fmt.f32 Fmt.f32 (ts.map (fun t => t.2)) with
  | some r => r.bits
  | none =>
    let ps := ts.map (fun t => mulFV (.fin false t.1 (-(k : Int))) (unpack Fmt.f32 t.2))
    if ps.any Option.isNone then Fmt.f32.nanBits
    else match sumFV .rne (ps.filterMap id) with
    | some v => (roundFV Fmt.f32 .rne v).bits
    | none => Fmt.f32.nanBits

/-- Bilinear filtering of one channel of four texels. -/
def bilinearSum (a b : Nat) (t : List Nat) : Nat :=
  weighted 16 [((256 - a) * (256 - b), t.getD 0 0), (a * (256 - b), t.getD 1 0), ((256 - a) * b, t.getD 2 0), (a * b, t.getD 3 0)]

/-- The four words that a lane receives from its texels (each RGBA). -/
def filterTexels (how ch : Nat) (w : List Nat) (ts : List (List Nat)) : List Nat :=
  let c := fun (l : List (List Nat)) (k : Nat) => l.map (fun t => t.getD k 0)
  match how with
  | 0 => ts.getD 0 [0, 0, 0, 0]
  | 1 => (List.range 4).map (fun k => bilinearSum (w.getD 0 0) (w.getD 1 0) (c ts k))
  | 2 => (List.range 4).map (fun k =>
      let r := bilinearSum (w.getD 0 0) (w.getD 1 0) (c (ts.take 4) k)
      let q := bilinearSum (w.getD 2 0) (w.getD 3 0) (c (ts.drop 4) k)
      weighted 8 [(256 - w.getD 4 0, r), (w.getD 4 0, q)])
  | _ => c ts ch

/-- The texels of a lane in order: each code with the accesses that read it. -/
def pairTexels : List Nat → List Acc → List (Nat × List Acc)
  | [], _ => []
  | c :: r, as =>
    let n := if c < 2 then 0 else if c < 512 then 1 else 2
    (c % 512, as.take n) :: pairTexels r (as.drop n)

/-- Status (R139) and the four words of a lane; an access whose page was found not resident when it translated again names no byte. A block's bytes are decoded here, under the astcfmt registers of the moment of the
return; R135 leaves open which value a sample in flight sees (log 71). A texel is poisoned where the 64-byte unit of its bytes
is, not where the rest of its line is (log 72). -/
def texLane (s : State) (ch : Nat) (desc : List Word) (dw : Nat) (plan : List Nat) (as : List Acc) : Nat × List Nat :=
  let x := texDesc desc
  let how := plan.getD 0 0
  let nw := plan.getD 1 0
  let w := (plan.drop 2).take nw
  let ts := pairTexels (plan.drop (2 + nw)) as
  let bad := ts.any (fun t => t.2.any (fun a => a.poison))
  let away := fun (t : Nat × List Acc) => t.1 == 1 || t.2.any (fun a => a.tgt == .skip)
  let gone := ts.any away
  let there := ts.any (fun t => decide (2 ≤ t.1) && !away t)
  let status := if bad then 3 else if gone && !there then 1 else if gone then 2 else 0
  let texel := fun (t : Nat × List Acc) =>
    let got := t.2.flatMap (fun a => a.got)
    if t.2.isEmpty ∨ away t ∨ t.2.any (fun a => a.poison) then [0, 0, 0, 0]
    else if dw < 16 then blockTexel s dw x.srgb got ((t.1 - 2) % 16) ((t.1 - 2) / 16)
    else plainTexel x.fmt x.srgb got
  (status, filterTexels how ch w (ts.map texel))

end Sys2Proof.Machine
end

