-- ==== Sys2Proof/Machine/MemStep.lean ====
section
/-! DEFINITION. The steps of the reference model (06 R146-R149): stores quill-perform and home-perform, loads take their
values, atomics perform, lines fill and drop; values reach their registers; remote faults (R160, R439); walks (03 R75). -/
namespace Sys2Proof.Machine
open Sys2Proof

/-! ## Remote faults (R160, R186, R439) -/

/-- A domain address (R31). -/
def domAddr (peer off : Nat) : DWord := BitVec.ofNat 64 (2 ^ 55 + peer % 512 * 2 ^ 46 + off % 2 ^ 46)

/-- The flags of a grid as in a status word (R425). -/
def Grid.flags (g : Grid) : Nat :=
  (if g.refused then 2 ^ 27 else 0) + (if g.abort then 2 ^ 26 else 0) + (if g.overflow then 2 ^ 25 else 0) +
    (if g.halt then 2 ^ 24 else 0)

/-- A refusal that arrives after its warp has exited (R439, R441). -/
def lateRefusal (s : State) (th : Thread) (r : RFault) : State :=
  let s1 := logError s 9 (dieOf th.quill) th.quill (rinfoOf r).toNat r.addr.toNat
  match s1.gang th.gang with
  | none => s1
  | some g =>
    let s2 := s1.modGrid g.grid (fun x => { x with refused := true })
    match s2.grids.find g.grid with
    | some x => eventRecord s2 x.queue 5 (queueTag s2 x.queue) x.flags (queueVa s2 x.queue)
    | none => s2

/-- A refusal enters the warp's remote-fault record (R160). -/
def remoteFault (s : State) (t peer off cls : Nat) : State :=
  match s.thread t with
  | none => s
  | some th =>
    let r : RFault := { addr := domAddr peer off, peer := BitVec.ofNat 9 peer, cls := BitVec.ofNat 5 cls, count := 0 }
    if th.exited then lateRefusal s th r
    else s.setThread t { th with rfault := some (match th.rfault with
      | none => r
      | some x => { x with count := if x.count = BitVec.allOnes 16 then x.count else x.count + 1 }) }

/-! ## Values reach their registers -/

/-- A lane's result: words and poison. -/
abbrev LaneVal := Nat × List Word × Bool

/-- Write words of lanes to consecutive vector registers (R131, R186). -/
def writeLanes (th : Thread) (d n : Nat) (vs : List LaneVal) : Thread :=
  let m := maskOf (fun L => vs.any (fun v => v.1 == L))
  let p := maskOf (fun L => vs.any (fun v => v.1 == L && v.2.2))
  (List.range n).foldl (fun t i =>
    (t.setV (d + i) m (fun L => match vs.find? (fun v => v.1 == L) with | some v => v.2.1.getD i 0 | none => 0)).poisonV (d + i) p) th

/-- Write a scalar register by bank number (R403). -/
def putBank (th : Thread) (n : Nat) (r : SReg) : Thread :=
  if n < 256 then { th with s := setAt th.s n r }
  else if n < 512 then { th with bankS := setAt th.bankS (n - 264) r }
  else { th with bankH := setAt th.bankH (n - 520) r }

/-- Write words to consecutive scalar registers. -/
def writeScalars (th : Thread) (d : Nat) (ws : List Word) (poison : Bool) : Thread :=
  (ws.zipIdx).foldl (fun t w => putBank t (d + w.2) { val := w.1, poison := poison }) th

/-- The accesses of a lane, in order. -/
def laneAccs (as : List Acc) (L : Nat) : List Acc := as.filter (fun a => a.lane == L)

/-- The lanes of a list of accesses. -/
def accLanes (as : List Acc) : List Nat := (as.map (fun a => a.lane)).eraseDups

/-- Bytes of a lane, and whether they are poisoned. -/
def laneData (as : List Acc) (L : Nat) : List Byte × Bool :=
  let l := laneAccs as L
  (l.flatMap (fun a => a.got), l.any (fun a => a.poison))

/-- The registers of a load by size code: sign extension and words (R255). -/
def loadWords (sz : Nat) (bs : List Byte) : List Word :=
  match sz with
  | 4 => [w32 (sext (ofBytes bs) 8)]
  | 5 => [w32 (sext (ofBytes bs) 16)]
  | _ => (List.range (szRegs (BitVec.ofNat 3 sz))).map (fun i => BitVec.ofNat 32 (ofBytes ((bs.drop (4 * i)).take 4)))

/-- Words of an old value of an atomic. -/
def atomWords (wide : Bool) (bs : List Byte) : List Word :=
  (List.range (two wide)).map (fun i => BitVec.ofNat 32 (ofBytes ((bs.drop (4 * i)).take 4)))

/-- Flags that come late (R366): they enter fstat, and an enabled one is pending. -/
def lateFlags (th : Thread) (matrix scal : Bool) (d len : Nat) (fl : Flags) : Thread :=
  let en := fl &&& enabled th
  let th1 := addFlags th fl
  if en = 0 then th1 else { th1 with late := th1.late ++ [{ fl := en, matrix := matrix, scal := scal, d := d, len := len }] }

/-- A lane of an extracting load (R338). -/
def xldValue (as : List Acc) (l : Nat × Nat × Nat × Bool) : LaneVal :=
  let x := laneData as l.1
  let v := fieldN (ofBytes x.1) l.2.1 l.2.2.1
  (l.1, [if l.2.2.2 then w32 (sext v l.2.2.1) else BitVec.ofNat 32 v], x.2)

/-- An access that its destination refused for another reason than poison: a lane's words are then poisoned (R139, R186). -/
def APhase.refusedElse : APhase → Bool
  | .refused c => c != 0x14
  | _ => false

/-- Values of a finished load or atomic go to their registers. -/
def deliverTo (s : State) (th : Thread) (o : MemOp) : Thread :=
  match o.fin with
  | .none => th
  | .vload sz d =>
    writeLanes th d (szRegs (BitVec.ofNat 3 sz)) ((accLanes o.accs).map (fun L =>
      let x := laneData o.accs L
      (L, loadWords sz x.1, x.2)))
  | .sload sz d =>
    let x := laneData o.accs 0
    writeScalars th d (loadWords sz x.1) x.2
  | .xload d ls => writeLanes th d 1 (ls.map (xldValue o.accs))
  | .table k d rm sat x0 inv n ls =>
    let rs := ls.map (fun l =>
      let as := laneAccs o.accs l.1
      let bad := as.any (fun a => a.poison)
      let v := tblValue k (RM.ofCode (BitVec.ofNat 3 rm)) sat x0 inv n l.2 (as.map (fun a => ofBytes a.got))
      (l.1, v, bad))
    let th1 := writeLanes th d 1 (rs.map (fun r => (r.1, [BitVec.ofNat 32 r.2.1.bits], r.2.2)))
    lateFlags th1 false false d 1 (rs.foldl (fun a r => if r.2.2 then a else a ||| r.2.1.flags) 0)
  | .texture _ ch d desc ls =>
    writeLanes th d 5 (ls.map (fun l =>
      let as := laneAccs o.accs l.1
      let r := texLane s ch desc l.2.2 l.2.1 as
      (l.1, (r.2.map (BitVec.ofNat 32)) ++ [BitVec.ofNat 32 r.1], as.any (fun a => a.ph.refusedElse))))
  | .vatom d w =>
    writeLanes th d (two w) ((accLanes o.accs).map (fun L =>
      let x := laneData o.accs L
      (L, atomWords w x.1, x.2)))
  | .satom d w =>
    let x := laneData o.accs 0
    writeScalars th d (atomWords w x.1) x.2

/-- The flags of a floating-point atomic (R334). -/
def faddFlags (o : MemOp) : Flags :=
  match o.kind with
  | .atomic .fadd _ => o.accs.foldl (fun f a =>
      if a.poison then f else f ||| (fAdd Fmt.f32 .rne false (ofBytes a.got) (ofBytes a.data)).flags) 0
  | _ => 0

/-- The registers that a floating-point atomic writes, for its late flags. -/
def faddDest (o : MemOp) : Bool × Nat × Nat :=
  match o.fin with
  | .vatom d w => (false, d, two w)
  | .satom d w => (true, d, two w)
  | _ => (false, 0, 0)

/-- An entry whose accesses are all final: its values go to their registers unless its thread has exited, its flags are
raised, and an acquire drops the quill's copies (R154, R334). -/
def finishOp (s : State) (t ser : Nat) : State :=
  match s.thread t with
  | none => s
  | some th => match th.mq.find? (fun o => o.ser == ser) with
    | none => s
    | some o =>
      if !o.accs.all (fun a => a.ph.final) then s
      else
        let th1 := if th.exited ∨ o.dlv then th else deliverTo s th o
        let x := faddDest o
        let th2 := if faddFlags o = 0 then th1 else lateFlags th1 false x.1 x.2.1 x.2.2 (faddFlags o)
        acquire (s.setThread t (prune (modOp th2 ser (fun o => { o with dlv := true })))) th.quill o.acq

/-- Change the accesses of an entry that meet a test. -/
def modAccs (s : State) (t ser : Nat) (p : Acc → Bool) (f : Acc → Acc) : State :=
  s.modThread t (fun th => modOp th ser (fun o => { o with accs := o.accs.map (fun a => if p a then f a else a) }))

/-! ## Domain accesses of a thread (R174, R178) -/

/-- Whether an access goes to a line of a peer and has not left. -/
def onLine (peer line : Nat) (a : Acc) : Bool :=
  a.ph == .pend && (match a.tgt with | .dom p o => p == peer && o / 128 == line | _ => false)

/-- Offset of a domain access. -/
def Acc.off (a : Acc) : Nat := match a.tgt with | .dom _ o => o | _ => 0

/-- Whether an access of an entry may leave its quill (R148, R149, R181). -/
def accReady (th : Thread) (o : MemOp) (a : Acc) : Bool :=
  match o.kind with
  | .load => loadReady th o a
  | .store => storeReady th o a
  | .atomic _ _ => atomReady th o a
  | .push => false

/-- The accesses that one request takes, with their touched bytes undefined: stored bytes are free now, bytes that return are free
when they do (R163). -/
def freeSent (s : State) (t q ser : Nat) (st : Bool) : List Acc → State × List Acc
  | [] => (s, [])
  | a :: r =>
    let ts := touched s t ser q a
    let a' := if ts.isEmpty then a
      else if st then { a with data := freeBytes s.free ts a.data } else { a with und := ts.map (fun x => x.2.2.2) }
    let x := freeSent (if ts.isEmpty then s else (taint s q ts).bump) t q ser st r
    (x.1, a' :: x.2)

/-- Send one request for the accesses of an entry to a line, all of them together once each may go (R174): refused as peer-unreachable where it cannot leave. Lanes of a
peer whose route changes wait (R179), and so does a quill with 1,024 requests outstanding (R175; log 52). -/
def sendLine (s : State) (t : Nat) (th : Thread) (o : MemOp) (kind : ReqKind) (peer line : Nat) : State :=
  let go := onLine peer line
  let idx := (o.accs.zipIdx.filter (fun x => go x.1)).map Prod.snd
  if laneHeld s peer (hashLane (line * 128)) ∨ idx.isEmpty ∨ !(o.accs.filter go).all (accReady th o) ∨ 1024 ≤ quillOut s th.quill then s
  else
    let f := freeSent s t th.quill o.ser (o.kind == .store) (o.accs.filter go)
    match sendReq f.1 th.quill peer line (.thread t o.ser idx) kind
      (f.2.map (fun a => { off := a.off, size := a.size, data := a.data ++ a.cmp, bad := false })) with
    | some (s1, id) =>
      (idx.zip f.2).foldl (fun s x => s.modThread t (fun th => modOp th o.ser (fun o => modAcc o x.1 (fun a =>
        { a with ph := .sent, req := some id, und := x.2.und })))) s1
    | none =>
      let s1 := remoteFault f.1 t peer ((f.2.head?.map Acc.off).getD 0) 0x13
      finishOp (modAccs s1 t o.ser go (fun a => { a with ph := .refused 0x13, poison := kind != .store })) t o.ser

/-! ## Loads (R146-R148) -/

/-- A held load of some byte reads a poisoned home (R131). -/
def heldPoison (s : State) (q a n : Nat) : Bool :=
  let x := s.quill q
  (x.cq.find (a / 128)).isNone &&
    (List.range n).any (fun i => (pendingByte x.pq (a + i)).isNone && poisoned s (a + i) 1)

/-- A load that has to read an inkwell bank waits while the bank's refresh window is open (R122, R123). -/
def bankBusy (s : State) (q : Nat) (t : Tgt) : Bool :=
  let held := fun (pol pa : Nat) (k : Nat) => l1Held k pol && ((s.quill q).cq.find (pa / 128)).isSome
  (match t with
  | .mem k pol pa _ _ _ _ => homeStopped s pa && !held pol pa k
  | .dec key pa _ _ _ _ => homeStopped s pa && ((s.quill q).cq.find key).isNone
  | _ => false) ||
  match t with
  | .mem k pol pa _ _ _ _ => bankShut s pa && !held pol pa k
  | .dec key pa _ _ _ _ => bankShut s pa && ((s.quill q).cq.find key).isNone
  | _ => false

/-- The compressed bytes of a texel block: from the copy of the decoded line, or from their home (R136, R137). -/
def decBytes (s : State) (q key pa n : Nat) : List Byte :=
  match (s.quill q).cq.find key with
  | some l => (List.range n).map (fun i => l.getD (pa % 128 + i) 0)
  | none => s.bytes pa n

/-- What a load access reads: bytes, poison with its consumer row and address, and the state with lines dropped. -/
def loadValue (s : State) (q : Nat) (tex : Bool) (a : Acc) : State × List Byte × Bool :=
  let row := if tex then 5 else 0
  match a.tgt with
  | .mem k pol pa _ _ _ _ =>
    if l1Held k pol then
      let bad := heldPoison s q pa a.size
      (if bad then logPoison s row pa else s, heldBytes s q pa a.size, bad)
    else
      let bad := k != 4 && poisoned s pa a.size
      let s1 := if k = 4 ∨ k = 3 then s else s.modQuill q (fun x => cqDrop x (pa / 128))
      (if bad then logPoison s1 row pa else s1, homeRead s k pa a.size, bad)
  | .dec key pa _ _ _ _ =>
    let bad := ((s.quill q).cq.find key).isNone && poisoned s pa a.size
    (if bad then logPoison s row pa else s, decBytes s q key pa a.size, bad)
  | .scr g p => (s, scrRead s g p a.size, scrPoisoned s g p a.size)
  | _ => (s, [], false)

/-- Whether an entry's loads are texel reads. -/
def Fin.isTexture (f : Fin) : Bool := match f with | .texture .. => true | _ => false

/-- The oldest load entry of a thread that has still to take a value or to deliver. -/
def oldestLoad (th : Thread) : Option MemOp := th.mq.find? (fun o => o.kind == .load && !o.dlv)

/-- On a halted quill a load is abandoned unless a later store, atomic or push of its thread waits for it (R148, R173, R407). -/
def loadNeeded (th : Thread) (o : MemOp) : Bool :=
  th.mq.any (fun x => decide (o.ser < x.ser) && x.kind != .load && x.accs.any (fun a => a.ph == .pend))

/-- An abandoned access translates afresh, in the mode in which its instruction issued (R67, R83). A sample whose page is not resident
now reads nothing there (R69, R139); any other access that finds no translation that permits it waits and asks again (log 64). -/
def translateAgain (s : State) (t : Nat) (th : Thread) (o : MemOp) (n : Nat) (a : Acc) : State :=
  let put := fun (s : State) (f : Acc → Acc) => s.modThread t (fun th => modOp th o.ser (fun o => modAcc o n f))
  let find := fun (vmid asid va : Nat) (f : Leaf → Nat → Option Tgt) =>
    let mine := fun (d : Deliv) => d.who == againAgent t && d.vmid == vmid && d.asid == asid && d.page == va / 65536
    let s1 := { s with xl := { s.xl with dlvd := s.xl.dlvd.filter (fun d => !mine d) } }
    let absent := match s.xl.dlvd.find? mine with | some { res := .bad 7 _ _, .. } => o.fin.isTexture | _ => false
    match quillFind s th.quill false vmid asid va with
    | some (l, pa) =>
      if (permBad (if o.fin.isTexture then .tex else .load) o.mode l).isSome ∨ (kindBad .load l.kind a.size).isSome then s1
      else match f l pa with
      | some u => put s1 (fun a => { a with ph := .pend, tgt := u })
      | none => s1
    | none =>
      if absent then finishOp (put s1 (fun a => { a with ph := .taken, tgt := .skip })) t o.ser
      else queueMiss s1 (dieOf th.quill) vmid asid (va / 65536) (o.mode != .user) (againAgent t)
  match a.tgt with
  | .mem _ _ _ vmid asid va _ => find vmid asid va (fun l pa =>
      some (.mem l.kind (if l.kind = 4 then o.mode.code else effPolicy l o.pol) pa vmid asid va l.sz))
  | .dec key _ vmid asid va _ => find vmid asid va (fun l pa => if l.dw = some (key / 2 ^ 64 % 16) then some (.dec key pa vmid asid va l.sz) else none)
  | _ => s

/-- A load access takes its value (R146, R148); the lanes of an instruction that read the same bytes take the same value, also those that
an abandonment has left to take it later (R141). Poison that they read is recorded once for all of them (log 51). -/
def takeLoad (s : State) (t n : Nat) : State :=
  match s.thread t with
  | none => s
  | some th => match oldestLoad th with
    | none => s
    | some o => match o.accs[n]? with
      | none => finishOp s t o.ser
      | some a =>
        let same := fun (x : Acc) => x.ph == .pend && x.tgt.place == a.tgt.place && x.size == a.size
        if (s.quill th.quill).halted ∧ !loadNeeded th o then s
        else if a.ph = .again then translateAgain s t th o n a
        else if a.ph ≠ .pend then s
        else match o.accs.find? (fun x => x.ph == .taken && x.tgt.place.isSome && x.tgt.place == a.tgt.place && x.size == a.size) with
        | some x => finishOp (modAccs s t o.ser same (fun y => { y with ph := .taken, got := x.got, poison := x.poison })) t o.ser
        | none =>
        if bankBusy s th.quill a.tgt then s
        else match a.tgt with
        | .dom p off => if loadReady th o a then sendLine s t th o .load p (off / 128) else s
        | _ =>
          if !(o.accs.filter same).all (loadReady th o) then s
          else
            let ts := touched s t o.ser th.quill a
            let r := loadValue s th.quill o.fin.isTexture a
            let got := if ts.isEmpty then r.2.1 else freeBytes s.free ts r.2.1
            let s1 := if ts.isEmpty then r.1 else (taint r.1 th.quill ts).bump
            finishOp (modAccs s1 t o.ser same (fun x => { x with ph := .taken, got := got, poison := r.2.2 })) t o.ser

def execLoadTakeValue (s : State) : Out := .next (takeLoad s s.inp.n1 s.inp.n2)

/-! ## Stores (R146-R148, R169) -/

/-- Visible words that every warp has popped, or that no warp will pop, are freed (R206). -/
def trimQueue (s : State) (g : Gang) : Gang :=
  let poss := (liveWarps s g).filterMap (fun t => (s.thread t).map (fun th => th.dqpos))
  let lo := poss.foldl min (g.dqBase + g.dq.length)
  { g with dq := g.dq.drop (lo - g.dqBase), dqBase := max g.dqBase lo }

/-- The accesses of a store that have performed have stored a scratchpad word whole between them (R117). -/
def scrCovered (as : List Acc) (g w : Nat) : Bool :=
  (List.range 4).all (fun k => as.any (fun a => a.ph == .home && (match a.tgt with
    | .scr h p => h == g && (List.range a.size).any (fun i => scrByte p i == 4 * w + k)
    | _ => false)))

/-- A store access quill-performs. -/
def performStore (s : State) (t : Nat) (th : Thread) (o : MemOp) (n : Nat) (a : Acc) : State :=
  let mark := fun (s : State) (p : APhase) =>
    finishOp (s.modThread t (fun th => modOp th o.ser (fun o => modAcc o n (fun a => { a with ph := p })))) t o.ser
  let ent := fun (k pol pa vmid asid va : Nat) (vis : Bool) =>
    let e : PEnt := { tid := t, ser := o.ser, acc := n, kind := k, pol := pol, pa := pa, data := a.data, vis := vis, vmid := vmid,
                      asid := asid, va := va, red := none }
    fun (x : Quill) => { x with pq := x.pq ++ [e] }
  match a.tgt with
  | .mem k pol pa vm as va _ =>
    if l1Held k pol then mark (s.modQuill th.quill (fun x => ent k pol pa vm as va true (cqUpdate x pa a.data))) .quill
    else mark (s.modQuill th.quill (fun x => ent k pol pa vm as va false (if k = 3 ∨ k = 4 then x else cqDrop x (pa / 128)))) .quill
  | .scr g p =>
    let s1 := match s.gang g with | some x => if x.ended then s else scrWrite s g p a.data | none => s
    mark (scrClean s1 g (scrCovered (modAcc o n (fun a => { a with ph := .home })).accs g)) .home
  | .dom p off => sendLine s t th o .store p (off / 128)
  | _ => mark s .home

/-- A push becomes visible to the gang's warps (R169). -/
def performPush (s : State) (t : Nat) (th : Thread) (o : MemOp) (a : Acc) : State :=
  let w : Word := BitVec.ofNat 32 (ofBytes a.data)
  let s1 := s.modGang th.gang (fun g => trimQueue s { g with dq := g.dq ++ [w] })
  finishOp (modAccs s1 t o.ser (fun _ => true) (fun a => { a with ph := .home })) t o.ser

/-- A store access quill-performs; bytes of the thread's own uncounted engine commands are undefined (R163). -/
def storeTouching (s : State) (t : Nat) (th : Thread) (o : MemOp) (n : Nat) (a : Acc) : State :=
  let ts := match a.tgt with | .dom _ _ => [] | _ => touched s t o.ser th.quill a
  if ts.isEmpty then performStore s t th o n a
  else
    let a' := { a with data := freeBytes s.free ts a.data }
    performStore (taint s th.quill ts).bump t th (modAcc o n (fun _ => a')) n a'

/-- An access of the store queue takes its quill-perform step, in the queue's order (R148, R169). -/
def quillPerform (s : State) (t ser n : Nat) : State :=
  match s.thread t with
  | none => s
  | some th => match th.mq.find? (fun o => o.ser == ser) with
    | none => s
    | some o => match o.accs[n]? with
      | none => s
      | some a =>
        if a.ph != .pend ∨ !storeReady th o a then s
        else match o.kind with
        | .store => storeTouching s t th o n a
        | .push => performPush s t th o a
        | _ => s

def execStoreQuillPerform (s : State) : Out := .next (quillPerform s s.inp.n1 s.inp.n2 s.inp.n3)

/-- Two pending stores of some byte. -/
def PEnt.meets (a b : PEnt) : Bool := decide (a.pa < b.pa + b.data.length) && decide (b.pa < a.pa + a.data.length)

/-- An entry is the oldest for its bytes; stores that no L1 holds are ordered within their thread alone (R146, R147, log 17). -/
def oldestFor (pq : List PEnt) (n : Nat) : Bool :=
  match pq[n]? with
  | none => false
  | some e => (pq.take n).all (fun x => !PEnt.meets x e || x.red.isSome || (!(x.vis && e.vis) && x.tid != e.tid))

/-- Whether accesses of an entry that meet a test cover a 64-byte unit whole. -/
def coversUnit (as : List Acc) (p : Acc → Bool) (unit : Nat) : Bool :=
  (List.range 64).all (fun i => as.any (fun a => p a && (match a.tgt with
    | .mem _ _ pa _ _ _ _ => decide (pa ≤ unit + i) && decide (unit + i < pa + a.size)
    | _ => false)))

/-- The poison of the unit that a store reaches: a store of the whole unit clears it, a partial one is logged (R130, R131). -/
def storePoison (s : State) (as : List Acc) (pa : Nat) : State :=
  let u := pa / 64 * 64
  if !poisoned s u 64 then s
  else if coversUnit as (fun _ => true) u then (if coversUnit as (fun a => a.ph == .home) u then clearPoison s u 64 else s)
  else logPoison s 2 pa

/-- The new value of memory: w bits, old, B, C (R334). -/
def atomNew (op : AtomOp) (w old b c : Nat) : Nat :=
  match op with
  | .add => (old + b) % 2 ^ w
  | .minS => if sext old w ≤ sext b w then old else b
  | .minU => min old b
  | .maxS => if sext old w ≤ sext b w then b else old
  | .maxU => max old b
  | .and => old &&& b
  | .or => old ||| b
  | .xor => old ^^^ b
  | .xchg => b
  | .cas => if old = c then b else old
  | .zmin => min old b
  | .fadd => (fAdd Fmt.f32 .rne false old b).bits

/-- No L1-held store of a quill to bytes is pending: P_Q of R146, which stores that no L1 holds do not enter (R147). -/
def noPending (pq : List PEnt) (pa n : Nat) : Bool := !pq.any (fun e => e.vis && decide (e.pa < pa + n) && decide (pa < e.pa + e.data.length))

/-- The new value of an element of rred (R384). -/
def rredNew (op old src : Nat) : Nat :=
  match op with
  | 0 => (fAdd Fmt.f32 .rne false old src).bits
  | 1 =>
    let r := dwOp .rne false 0 false (old % 2 ^ 32) (old / 2 ^ 32) (src % 2 ^ 32) (src / 2 ^ 32)
    r.v + r.e * 2 ^ 32
  | 2 => (old + src) % 2 ^ 32
  | 3 => atomNew .minS 32 old src 0
  | 4 => atomNew .minU 32 old src 0
  | 5 => atomNew .maxS 32 old src 0
  | _ => atomNew .maxU 32 old src 0

/-- An element of a reduce-store performs at its home as an atomic (R384); a poisoned home keeps its bytes. -/
def homeReduce (s : State) (q n op : Nat) (e : PEnt) : State :=
  let x := s.quill q
  let s0 := s.setQuill q { x with pq := x.pq.eraseIdx n }
  if homeStopped s e.pa ∨ !noPending x.pq e.pa e.data.length then s
  else if poisoned s e.pa e.data.length then logPoison s0 1 e.pa
  else
    let new := toBytes e.data.length (rredNew op (ofBytes (s.bytes e.pa e.data.length)) (ofBytes e.data))
    (s0.setBytes e.pa new).modQuill q (fun x => if l1Held e.kind e.pol then cqUpdate x e.pa new else cqDrop x (e.pa / 128))

/-- A pending store home-performs (R146). -/
def homePerform (s : State) (q n : Nat) : State :=
  let x := s.quill q
  if !oldestFor x.pq n then s
  else match x.pq[n]? with
  | none => s
  | some e => match e.red with
    | some op => homeReduce s q n op e
    | none =>
      if homeStopped s e.pa then s
      else
        let s1 := homeWrite (s.setQuill q { x with pq := x.pq.eraseIdx n }) e.kind e.pol e.pa e.data
        let s2 := s1.modThread e.tid (fun th => modOp th e.ser (fun o => modAcc o e.acc (fun a => { a with ph := .home })))
        let s3 := if e.kind = 3 ∨ e.kind = 4 then s2 else if 2 ^ 40 ≤ e.tid then engPoison s2 q e.tid e.ser e.acc e.pa
          else match s2.thread e.tid with
          | some th => (match th.mq.find? (fun o => o.ser == e.ser) with
            | some o => storePoison s2 o.accs e.pa
            | none => s2)
          | none => s2
        finishOp s3 e.tid e.ser

def execStoreHomePerform (s : State) : Out := .next (homePerform s s.inp.n1 s.inp.n2)

/-! ## Atomics (R146, R149, R334) -/

/-- The operation of one access on the bytes it finds: bytes returned, bytes written. -/
def atomStep (op : AtomOp) (old data cmp : List Byte) : List Byte :=
  toBytes old.length (atomNew op (8 * old.length) (ofBytes old) (ofBytes data) (ofBytes cmp))

/-- The accesses of one address, lanes ascending, perform one after another; each returns what it finds (R141). -/
def atomRun (op : AtomOp) : List Acc → List Byte → List (Nat × List Byte) × List Byte
  | [], v => ([], v)
  | a :: r, v =>
    let x := atomRun op r (atomStep op v a.data a.cmp)
    ((a.lane, v) :: x.1, x.2)

/-- Write the returned values of a group of accesses to one place. -/
def atomReturn (s : State) (t ser : Nat) (tgt : Tgt) (rs : List (Nat × List Byte)) (poison : Bool) : State :=
  finishOp (modAccs s t ser (fun x => x.ph == .pend && x.tgt.place == tgt.place) (fun x =>
    { x with ph := .taken, poison := poison, got := match rs.find? (fun r => r.1 == x.lane) with | some r => r.2 | none => [] })) t ser

/-- An atomic access performs, with the accesses of its address (R141, R146, R149). -/
def performAtomic (s : State) (t n : Nat) : State :=
  match s.thread t with
  | none => s
  | some th => match th.mq.find? (fun o => (match o.kind with | .atomic _ _ => true | _ => false) && !o.accs.all (fun a => a.ph.final)) with
    | none => s
    | some o => match o.kind, o.accs[n]? with
      | .atomic op wide, some a =>
        let group := o.accs.filter (fun x => x.ph == .pend && x.tgt.place == a.tgt.place)
        if a.ph != .pend ∨ !group.all (atomReady th o) then s
        else
          let ts := touched s t o.ser th.quill a
          let s0 := if ts.isEmpty then s else (taint s th.quill ts).bump
          let own := fun (pa : Nat) => (s.quill th.quill).pq.any (fun e => e.tid == t && decide (e.pa < pa + a.size) && decide (pa < e.pa + e.data.length))
          (match a.tgt with
          | .mem k pol pa _ _ _ _ =>
            if homeStopped s pa ∨ own pa ∨ !noPending (s.quill th.quill).pq pa a.size then s
            else if poisoned s pa a.size then atomReturn (logPoison s0 1 pa) t o.ser a.tgt (group.map (fun x => (x.lane, []))) true
            else
              let r := freeAtomic s.free ts (atomRun op group (s.bytes pa a.size))
              let s1 := s0.setBytes pa r.2
              let s2 := s1.modQuill th.quill (fun x => if l1Held k pol then cqUpdate x pa r.2 else cqDrop x (pa / 128))
              atomReturn s2 t o.ser a.tgt r.1 false
          | .scr g p =>
            if scrPoisoned s g p a.size then atomReturn s0 t o.ser a.tgt (group.map (fun x => (x.lane, []))) true
            else
              let r := freeAtomic s.free ts (atomRun op group (scrRead s g p a.size))
              atomReturn (scrWrite s0 g p r.2) t o.ser a.tgt r.1 false
          | .dom p off => sendLine s t th o (.atomic op wide) p (off / 128)
          | _ => atomReturn s0 t o.ser a.tgt [] false)
      | _, _ => s

def execAtomicPerform (s : State) : Out := .next (performAtomic s s.inp.n1 s.inp.n2)

/-! ## Lines (R106, R107, R146) -/

/-- A line of memory can be read at its home now. -/
def lineReadable (s : State) (line : Nat) : Bool := !homeStopped s (line * 128) && !bankShut s (line * 128)

/-- A line fills: its home values overlaid by the quill's pending bytes; a decoded line copies the compressed line it draws on, in its
context and format, whose texels are decoded when they are read (R136, R137). -/
def fillStep (s : State) (q line dw : Nat) : State :=
  if line < 2 ^ 56 then (if l1Held ((kindOf (line * 128)).getD 4) 2 ∧ lineReadable s line then fillL1 s q line else s)
  else match quillFind s q false (line / 2 ^ 68 / 1024) (line / 2 ^ 68 % 1024) (decSource s dw line) with
  | some (l, pa) =>
    if l.dw = some dw ∧ line / 2 ^ 64 % 16 = dw ∧ (kindOf pa).isSome ∧ lineReadable s (pa / 128) ∧ !poisoned s (pa / 128 * 128) 128 then
      s.modQuill q (fun x => { x with cq := x.cq.put line (s.bytes (pa / 128 * 128) 128) })
    else s
  | none => s

def execL1LineFill (s : State) : Out := .next (fillStep s s.inp.n1 s.inp.n2 s.inp.n3)
def execL1LineDrop (s : State) : Out := .next (s.modQuill s.inp.n1 (fun x => cqDrop x s.inp.n2))

/-! ## Walks (R75, R76) -/

/-- Walkers of a die (R75). -/
def walkers (die : Nat) : Nat := if die = hubDie then 16 else 64

/-- The miss that starts the next walk: privileged misses go first, then arrival order (R76). -/
def nextMiss (ms : List Miss) : Option Nat :=
  match ms.findIdx? (fun m => !m.walking && m.first) with
  | some i => some i
  | none => ms.findIdx? (fun m => !m.walking)

/-- A queued miss starts its walk. -/
def startWalk (s : State) (die : Nat) : State :=
  let ms := (s.xl.miss.find die).getD []
  if (ms.filter (fun m => m.walking)).length ≥ walkers die then s
  else match nextMiss ms with
  | none => s
  | some i => match ms[i]? with
    | some m => { s with xl := { s.xl with miss := s.xl.miss.put die (setAt ms i { m with walking := true }) } }
    | none => s

def execTlbMissWalkStart (s : State) : Out := .next (startWalk s s.inp.n1)

/-- A fault class is delivered to what waits for a miss: threads, engines, rows of the hub (R75, R76). -/
def deliverWalk (s : State) (m : Miss) (r : WalkRes) : State :=
  let rest := fun (s : State) (t : Nat) =>
    s.xl.dlvd.filter (fun d => !(d.who == t && d.vmid == m.vmid && d.asid == m.asid && d.page == m.page))
  let new := fun (t : Nat) => ({ who := t, vmid := m.vmid, asid := m.asid, page := m.page, res := r } : Deliv)
  m.who.foldl (fun s t =>
    if 2 ^ 40 ≤ t then { s with xl := { s.xl with dlvd := new t :: rest s t } }
    else s.modThread t (fun th => { th with dlvd := (m.page, r) :: th.dlvd.filter (fun d => d.1 != m.page) })) s

/-- A walk completes: its translation enters the TLB and satisfies every miss it covers, or its class is delivered (R75). -/
def completeWalk (s : State) (die i : Nat) : State :=
  let ms := (s.xl.miss.find die).getD []
  match ms[i]? with
  | none => s
  | some m =>
    if !m.walking then s
    else
      let va := m.page * 65536
      let rs := walkReads s (wcOf s die) m.vmid m.asid va
      match walk s (wcOf s die) m.vmid m.asid va with
      | (.ok l, size, glob) =>
        let e := tlbEntry m.vmid m.asid va l size glob
        let s1 := wcInsert (tlbInsert (logWalk s rs) die e) die (walkPtrs rs)
        { s1 with xl := { s1.xl with miss := s1.xl.miss.put die (ms.filter (fun x => !e.covers x.vmid x.asid (x.page * 65536))) } }
      | (.bad 0 _ _, _, _) => s
      | (r, _, _) =>
        let same := fun (x : Miss) => x.vmid == m.vmid && x.asid == m.asid && x.page == m.page
        let s1 := (ms.filter same).foldl (fun s x => deliverWalk s x r) (logWalk s rs)
        { s1 with xl := { s1.xl with miss := s1.xl.miss.put die (ms.filter (fun x => !same x)) } }

/-- A walk in flight has read the first n descriptors and pointers of its path, which the walk cache then holds: what the walk
reads later may be newer (R65, R75). -/
def walkRead (s : State) (die i n : Nat) : State :=
  match ((s.xl.miss.find die).getD [])[i]? with
  | some m => if m.walking then wcInsert s die ((walkPtrs (walkReads s (wcOf s die) m.vmid m.asid (m.page * 65536))).take n) else s
  | none => s

def execWalkComplete (s : State) : Out := .next (completeWalk s s.inp.n1 s.inp.n2)

end Sys2Proof.Machine
end

