-- ==== Sys2Proof/Machine/Matrix.lean ====
section
/-! DEFINITION. The matrix queue (14 R364-R378): the format vote, mma, the accumulator moves, and how an entry commits. -/
namespace Sys2Proof.Machine
open Sys2Proof

/-! ## The accumulator store (R37, R92) -/

/-- Bytes of a gang's accumulator allocation. -/
def Gang.accBytes (g : Gang) : Nat := g.accRun.len * 16384

/-- A word of the accumulator store. -/
def accGet (g : Gang) (i : Nat) : Word := (g.acc.find i).getD 0

/-- Write one word, with its poison. -/
def accPut (g : Gang) (i : Nat) (w : Word) (poison : Bool) : Gang :=
  let ps := g.accPoison.filter (· != i)
  { g with acc := if w = 0 then FMap.del g.acc i else FMap.put g.acc i w, accPoison := if poison then i :: ps else ps }

/-- Write words, with their poison. -/
def accPutAll (g : Gang) (ws : List (Nat × Word × Bool)) : Gang := ws.foldl (fun g w => accPut g w.1 w.2.1 w.2.2) g

/-- The word of element (i, n) of a tile at a byte offset (R92). -/
def accIndex (off i n : Nat) : Nat := off / 4 + n / 32 * 256 + 32 * i + n % 32

/-- The checks of a run of granules (R28, R37): the trap, if any. -/
def accBad (s : State) (th : Thread) (m : Mask) (off n : Nat) : Option Res :=
  if off % 1024 ≠ 0 then some (.trap 0x11 m (BitVec.ofNat 64 off) 0)
  else if off + 1024 * n > (match s.gang th.gang with | some g => g.accBytes | none => 0) then
    some (.trap 0x13 m (BitVec.ofNat 64 off) 0)
  else none

/-! ## The queue (R364, R365) -/

/-- An entry of the executing thread. -/
def ment (s : State) (th : Thread) (m : Mask) (fn : Nat) : MEnt :=
  { tid := s.cur, gang := th.gang, fn := fn, mask := m, rm := 0, sat := false, s32 := false, fmt := 0, n := 0, d := 0, a := 0,
    regs := [], aDesc := none, bDesc := [], ser := th.ser, seq := 0, snap := [], owed := none }

/-- An entry joins the queue of its quill, or does not issue where the queue is full. -/
def enqueue (s : State) (th : Thread) (e : MEnt) : Res :=
  let x := s.quill th.quill
  if roomFull s th.quill .matrix then .full s .matrix
  else .retire (s.setQuill th.quill { x with mx := x.mx ++ [{ e with seq := x.mxSeq }], mxSeq := x.mxSeq + 1 })

/-! ## Descriptors (R369-R371) -/

/-- Four words of a descriptor. -/
def descWords (th : Thread) (x : Nat) : List Word := (List.range 4).map (fun i => th.sv (x + i))

def dAddr (d : List Word) : Nat := (d.getD 0 0).toNat
def dStride (d : List Word) : Nat := fieldN (d.getD 1 0).toNat 16 16
def dAw (d : List Word) : Bool := bitN (d.getD 1 0).toNat 15
def dRc (d : List Word) : Nat := fieldN (d.getD 1 0).toNat 12 3
def dAwAddr (d : List Word) : Word := d.getD 2 0

/-- The checks of a descriptor of `n` slabs of `ls` bytes (R371). -/
def descBad (s : State) (th : Thread) (m : Mask) (x ls n : Nat) : Option Res :=
  let d := descWords th x
  if dAddr d % 2 ≠ 0 ∨ dStride d % 2 ≠ 0 ∨ dStride d < ls ∨ fieldN (d.getD 1 0).toNat 0 12 ≠ 0 ∨ d.getD 3 0 ≠ 0 ∨ dRc d ≥ 6 ∨
      (!dAw d ∧ dAwAddr d ≠ 0) then some (.trap 0x0A m (BitVec.ofNat 64 x) 0)
  else if (scrPlace s th.gang (dAddr d) (dStride d * (n - 1) + ls) 0).isNone then
    some (.trap 0x12 m (BitVec.ofNat 64 (dAddr d)) 0)
  else if dAw d then
    (match awPlace s th.gang (dAwAddr d) with
    | .error c => some (.trap c m ((dAwAddr d).setWidth 64) 0)
    | .ok _ => none)
  else none

/-- The words of the A stream in its registers. -/
def aWords (th : Thread) (a ls : Nat) : List Word := (List.range (2 * ls)).map (fun j => th.lane (a + j / 96) (j % 96))

/-- The register run of A at or beyond the allocation (R371); what else stands against it stands against an operand (`aOpds`). -/
def aRegsBad (th : Thread) (a ls : Nat) : Option Res :=
  match outOfRange th ⟨.v, a, aRun ls, true, false, .whole⟩ with
  | some (f, n) => some (.trap 0x04 th.mask (BitVec.ofNat 64 (f * 256 + n)) 0)
  | none => none

/-! ## mma and mvote (R367-R376) -/

/-- Columns of an mma. -/
def mmaN (f : T64) : Nat := 16 * (f.m 28 24 + 1)

/-- The checks of an mma in the order of R371. -/
def mmaBad (s : State) (th : Thread) (m : Mask) (as : Bool) (f : T64) : Option Res :=
  let w := voteRef th m f
  let D := dissent th m f
  if D ≠ 0 then
    some (.trap 0x09 D (join64 (match (lanesOf D).head? with | some L => presented th f L | none => 0) w) 0)
  else if !fmtValid w.toNat then some (.trap 0x08 m (w.setWidth 64) 0)
  else
    let la := slabA w.toNat
    let lb := slabB w.toNat
    match (if as then descBad s th m f.a.toNat la 8 else aRegsBad th f.a.toNat la) with
    | some r => some r
    | none => match descBad s th m f.b.toNat lb (mmaN f) with
      | some r => some r
      | none => accBad s th m (th.sv f.d.toNat).toNat ((mmaN f + 31) / 32)

def execMma (as z : Bool) (f : T64) (s : State) : Out :=
  instr (.mma as z f) s (fun th =>
    let m := th.active (Instr.mma as z f).guard
    match mmaBad s th m as f with
    | some r => r
    | none =>
      let w := (voteRef th m f).toNat
      let e : MEnt := { ment s th m (if z then 17 else 16) with
        fmt := w, n := mmaN f, d := (th.sv f.d.toNat).toNat, regs := if as then [] else aWords th f.a.toNat (slabA w),
        aDesc := if as then some (descWords th f.a.toNat) else none, bDesc := descWords th f.b.toNat }
      enqueue s th e)

def execMvote (f : T64) (s : State) : Out :=
  instr (.mvote f) s (fun th => .done s (th.setK f.d.toNat (dissent th (th.active (Instr.mvote f).guard) f)))

/-! ## Accumulator moves (R377, R378) -/

/-- The words of three vector registers by register place. -/
def placeWords (th : Thread) (b : Nat) : List Word := (List.range 256).map (fun w => th.lane (b + w / 96) (w % 96))

/-- An accumulator instruction of `n` granules at s(a): its checks, and its entry. -/
def accInstr (i : Instr) (s : State) (a n : Nat) (more : Thread → Mask → Option Res) (e : Thread → MEnt → MEnt) : Out :=
  instr i s (fun th =>
    let m := th.active i.guard
    let off := (th.sv a).toNat
    match accBad s th m off n with
    | some r => r
    | none => match more th m with
      | some r => r
      | none => enqueue s th (e th { ment s th m 0 with a := off, n := n }))

def execAclr (f : T64) (s : State) : Out :=
  accInstr (.aclr f) s f.a.toNat (f.c.toNat + 1) (fun _ _ => none) (fun _ e => e)
def execAld (f : T64) (s : State) : Out :=
  accInstr (.ald f) s f.a.toNat 1 (fun _ _ => none) (fun _ e => { e with fn := 1, d := f.d.toNat })
def execAst (f : T64) (s : State) : Out :=
  accInstr (.ast f) s f.a.toNat 1 (fun _ _ => none) (fun th e => { e with fn := 2, regs := placeWords th f.b.toNat })
def execAadd (f : T64) (s : State) : Out :=
  accInstr (.aadd f) s f.a.toNat 1 (fun _ _ => none) (fun th e =>
    { e with fn := 3, regs := placeWords th f.b.toNat, s32 := f.mb 29, rm := rmCode f th.latch.px, sat := f.sat th.latch.px })
def execAcvt (f : T64) (s : State) : Out :=
  accInstr (.acvt f) s f.a.toNat 1 (fun _ _ => none) (fun th e =>
    { e with fn := 4, d := f.d.toNat, fmt := f.m 30 30, rm := rmCode f th.latch.px, sat := f.sat th.latch.px })
def execAcpy (f : T64) (s : State) : Out :=
  accInstr (.acpy f) s f.a.toNat (f.c.toNat + 1) (fun th m => accBad s th m (th.sv f.d.toNat).toNat (f.c.toNat + 1))
    (fun th e => { e with fn := 5, d := (th.sv f.d.toNat).toNat })
def execAmax (f : T64) (s : State) : Out :=
  accInstr (.amax f) s f.a.toNat (f.c.toNat + 1) (fun _ _ => none) (fun _ e => { e with fn := 6, d := f.d.toNat, s32 := f.mb 29 })
def execAbx (f : T64) (s : State) : Out :=
  accInstr (.abx f) s f.a.toNat 1 (fun _ _ => none) (fun _ e => { e with fn := 7, d := f.d.toNat, fmt := f.m 30 29 })

/-! ## What an entry does when it commits -/

/-- Write words to consecutive registers by register place, in the active lanes (R377, R378). -/
def putWords (th : Thread) (m : Mask) (d cnt : Nat) (f : Nat → Word × Bool) : Thread :=
  (List.range ((cnt + 95) / 96)).foldl (fun t i =>
    let k := m &&& maskOf (fun L => decide (96 * i + L < cnt))
    (t.setV (d + i) k (fun L => (f (96 * i + L)).1)).poisonV (d + i) (maskOf (fun L => k.getLsbD L && (f (96 * i + L)).2))) th

/-- A word of an entry's granules with its poison. -/
def accWord (g : Gang) (e : MEnt) (w : Nat) : Word × Bool := (accGet g (e.a / 4 + w), g.accPoison.contains (e.a / 4 + w))

/-- The registers that an entry writes: their words, and the flags. acvt and abx raise the flags of all their elements, those that lanes
outside the mask would hold included (log 106). -/
def moveOut (g : Gang) (e : MEnt) : Nat × (Nat → Word × Bool) × Flags :=
  match e.fn with
  | 1 => (256, accWord g e, 0)
  | 4 =>
    let fmt := if e.fmt = 0 then Fmt.bf16 else Fmt.f16
    let cv := fun (w : Nat) => fToF Fmt.f32 fmt (RM.ofCode (BitVec.ofNat 3 e.rm)) e.sat (accWord g e w).1.toNat
    (128, fun k => (BitVec.ofNat 32 ((cv (2 * k)).bits + (cv (2 * k + 1)).bits * 65536), (accWord g e (2 * k)).2 || (accWord g e (2 * k + 1)).2),
     (List.range 256).foldl (fun a w => if (accWord g e w).2 then a else a ||| (cv w).flags) 0)
  | 6 =>
    let row := fun (i : Nat) => (List.range (32 * e.n)).map (fun k => accWord g e (k / 32 * 256 + 32 * i + k % 32))
    let mag := fun (i : Nat) =>
      let vs := (row i).map (fun w => if e.s32 then w.1.toInt.natAbs else w.1.toNat % 2 ^ 31)
      if !e.s32 ∧ vs.any (fun v => decide (v > Fmt.f32.infBits)) then Fmt.f32.nanBits else vs.foldl max 0
    (8, fun i => (BitVec.ofNat 32 (mag i), (row i).any (fun w => w.2)), 0)
  | 7 =>
    let p := bxP e.fmt
    let src := fun (b : Nat) => (List.range 16).map (fun c => accWord g e (32 * (b / 2) + 16 * (b % 2) + c))
    let bl := (List.range 16).map (fun b => bxPack p ((src b).map (fun w => w.1.toNat)))
    let bad := fun (b : Nat) => (src b).any (fun w => w.2)
    let st := bxStream p (bl.map (fun b => b.1))
    (4 * bxBytes p, fun k => (streamWord st k, (List.range 4).any (fun i => bad ((4 * k + i) / bxBytes p))),
     (bl.zipIdx).foldl (fun a b => if bad b.2 then a else a ||| b.1.2) 0)
  | _ => (0, fun _ => (0, false), 0)

/-- One word of aadd: the sum and its flags (R377). -/
def aaddWord (e : MEnt) (x y : Word) : Word × Flags :=
  if e.s32 then
    let r := satInt e.sat true 32 (x.toInt + y.toInt)
    (BitVec.ofNat 32 r.1, r.2)
  else
    let r := fAdd Fmt.f32 (RM.ofCode (BitVec.ofNat 3 e.rm)) e.sat x.toNat y.toNat
    (BitVec.ofNat 32 r.bits, r.flags)

/-- The accumulator words that an entry writes, and the flags. -/
def moveIn (g : Gang) (e : MEnt) : List (Nat × Word × Bool) × Flags :=
  let act := (List.range 256).filter (fun w => e.mask.getLsbD (w % 96))
  match e.fn with
  | 0 => ((List.range (256 * e.n)).map (fun w => (e.a / 4 + w, 0, false)), 0)
  | 2 => (act.map (fun w => (e.a / 4 + w, e.regs.getD w 0, false)), 0)
  | 3 =>
    let r := fun (w : Nat) => aaddWord e (accWord g e w).1 (e.regs.getD w 0)
    (act.map (fun w => if (accWord g e w).2 then (e.a / 4 + w, (accWord g e w).1, true) else (e.a / 4 + w, (r w).1, false)),
     act.foldl (fun a w => if (accWord g e w).2 then a else a ||| (r w).2) 0)
  | 5 => ((List.range (256 * e.n)).map (fun w => (e.d / 4 + w, accWord g e w)), 0)
  | _ => ([], 0)

/-! ## The sum of an mma (R246, R250, R374) -/

/-- Element k of a slab in a floating-point format (R368, R243). -/
def elemF (f : Nat) (bs : List Byte) (k : Nat) : FV :=
  match f with
  | 0 => unpack Fmt.bf16 (ofBytes ((bs.drop (2 * k)).take 2))
  | 1 => unpack Fmt.f16 (ofBytes ((bs.drop (2 * k)).take 2))
  | _ =>
    let p := bxP (f - 2)
    (bxElem p (ofBytes ((bs.drop (bxBytes p * (k / 16))).take (bxBytes p))) (k % 16)).getD (unpack Fmt.f32 Fmt.f32.nanBits)

/-- Element k of a slab of integers: S8 or U8. -/
def elemI (f : Nat) (bs : List Byte) (k : Nat) : Int :=
  let b := (bs.getD k 0).toNat
  if f = 5 then sext b 8 else b

/-- The logical index of kept element k of a sparse slab; none for a position from 48 (R246). -/
def keptAt (spm fig : Nat) (slab : List Byte) (k : Nat) : Option Nat :=
  let pos := fieldN (ofBytes (slab.drop fig)) (6 * k) 6
  if pos ≥ 48 then none else some (48 * (k / (if spm = 1 then 32 else 16)) + pos)

/-- The pairs of indices of a step: of A, and of B; none for a product that a position makes +0 (R246, R374). -/
def stepPairs (w : Nat) (sa sb : List Byte) : List (Option (Nat × Nat)) :=
  (List.range 64).map (fun k =>
    if fmtSpm w = 0 then some (k, k)
    else if fmtSpo w then (keptAt (fmtSpm w) (fmtFig (fmtB w)) sb k).map (fun l => (l, k))
    else (keptAt (fmtSpm w) (fmtFig (fmtA w)) sa k).map (fun l => (k, l)))

/-- One element of an mma: the word and its flags. -/
def mmaElem (w : Nat) (acc : Word) (z : Bool) (sa sb : List Byte) : Word × Flags :=
  let ps := stepPairs w sa sb
  let bad := flagIf (ps.any Option.isNone) flNv
  if fmtAcc w = 0 then
    let zero : FV := .fin false 0 0
    let r := matrixSum (if z then Fmt.f32.signBit else acc.toNat) (ps.map (fun p => match p with
      | some (i, j) => (elemF (fmtA w) sa i, elemF (fmtB w) sb j)
      | none => (zero, zero)))
    (BitVec.ofNat 32 r.bits, r.flags ||| bad)
  else
    let sum := ps.foldl (fun (a : Int) p => match p with
      | some (i, j) => a + elemI (fmtA w) sa i * elemI (fmtB w) sb j
      | none => a) (if z then 0 else acc.toInt)
    let r := satInt true true 32 sum
    (BitVec.ofNat 32 r.1, r.2 ||| bad)

/-- The words that an mma writes, and its flags (R374). -/
def mmaWords (g : Gang) (e : MEnt) (A B : List Byte) : List (Nat × Word × Bool) × Flags :=
  let la := slabA e.fmt
  let lb := slabB e.fmt
  let rs := (List.range (8 * e.n)).map (fun k =>
    let i := k / e.n
    let n := k % e.n
    let x := accIndex e.d i n
    (x, mmaElem e.fmt (accGet g x) (e.fn == 17) ((A.drop (la * i)).take la) ((B.drop (lb * n)).take lb)))
  (rs.map (fun r => (r.1, r.2.1, false)), rs.foldl (fun a r => a ||| r.2.2) 0)

/-- Whether an mma reads a poisoned accumulator element. -/
def mmaAccPoison (g : Gang) (e : MEnt) : Bool :=
  e.fn == 16 && (List.range (8 * e.n)).any (fun k => g.accPoison.contains (accIndex e.d (k / e.n) (k % e.n)))

/-! ## Reads of the operands (R162, R167, R369, R376) -/

/-- The bytes of slabs in scratchpad: the address and the place of each. -/
def slabPlaces (s : State) (gid : Nat) (d : List Word) (ls n : Nat) : List (Nat × Option (Nat × Nat)) :=
  (List.range (n * ls)).map (fun j =>
    let a := dAddr d + dStride d * (j / ls) + j % ls
    (a, scrPlace s gid a 1 (dRc d)))

/-- The scratchpad bytes that an mma reads, A before B. -/
def mxPlaces (s : State) (e : MEnt) : List (Nat × Option (Nat × Nat)) :=
  if e.fn < 16 then []
  else (match e.aDesc with | some d => slabPlaces s e.gang d (slabA e.fmt) 8 | none => []) ++ slabPlaces s e.gang e.bDesc (slabB e.fmt) e.n

/-- The value of an operand byte now; zero at a far gang that has exited (R217). -/
def placeByte (s : State) (gid : Nat) (p : Option (Nat × Nat)) : Byte :=
  match p with
  | some (g, o) => if g = gid ∨ gangLive s g then (scrRead s g o 1).getD 0 0 else 0
  | none => 0

/-- Whether an operand byte is poisoned. -/
def placeBad (s : State) (gid : Nat) (p : Option (Nat × Nat)) : Bool :=
  match p with
  | some (g, o) => (g == gid || gangLive s g) && scrPoisoned s g o 1
  | none => false

/-- Whether the operand reads of an entry may begin (R162, R154). -/
def mxReady (s : State) (e : MEnt) : Bool :=
  match s.thread e.tid with
  | some th => (earlier th e.ser).all (fun o => passesAll o && (o.kind != .store || o.performed 1))
  | none => true

/-- The operands of an mma: A, B, and the address of the first poisoned byte that it has still to read. -/
def mxOperands (s : State) (e : MEnt) : List Byte × List Byte × Option DWord :=
  let ps := (mxPlaces s e).zipIdx
  let bs := ps.map (fun p => (e.snap.find p.2).getD (placeByte s e.gang p.1.2))
  let na := match e.aDesc with | some _ => 8 * slabA e.fmt | none => 0
  (if e.aDesc.isSome then bs.take na else e.regs.flatMap (fun (w : Word) => toBytes 4 w.toNat), bs.drop na,
   (ps.find? (fun p => (e.snap.find p.2).isNone && placeBad s e.gang p.1.2)).map (fun p => BitVec.ofNat 64 p.1.1))

/-- An entry reads bytes of its scratchpad operands ahead of its commit, each on its own; a poisoned one is left to the commit
(R162, R167; log 24). -/
def mxRead (s : State) (q n first len : Nat) : State :=
  let x := s.quill q
  match x.mx[n]? with
  | none => s
  | some e =>
    if e.owed.isSome ∨ x.halted ∨ !mxReady s e then s
    else
      let ps := (((mxPlaces s e).zipIdx.drop first).take len).filter (fun p => (e.snap.find p.2).isNone && !placeBad s e.gang p.1.2)
      s.setQuill q { x with mx := setAt x.mx n { e with snap := ps.foldl (fun m p => m.put p.2 (placeByte s e.gang p.1.2)) e.snap } }

/-! ## Commit -/

/-- An arrival word that an engine cannot count into (R102). -/
def awBad (s : State) (g p : Nat) : Bool := gangLive s g && scrPoisoned s g p 16

/-- An engine counts bytes (R102, R217). -/
def countInto (s : State) (g p n : Nat) : State := if gangLive s g then awArrive s g p n else s

/-- The arrival word of a descriptor: its name and place. -/
def descAw (s : State) (e : MEnt) (d : List Word) : Option (Word × Nat × Nat) :=
  if dAw d then (match awPlace s e.gang (dAwAddr d) with | .ok (g, p) => some (dAwAddr d, g, p) | .error _ => none) else none

/-- The arrival words of an entry's descriptors, A and B. -/
def mxAws (s : State) (e : MEnt) : Option (Word × Nat × Nat) × Option (Word × Nat × Nat) :=
  if e.fn < 16 then (none, none)
  else ((match e.aDesc with | some d => descAw s e d | none => none), descAw s e e.bDesc)

/-- The operand bytes that an entry counts once its writes have taken place, of A and of B (R376). -/
def mxOwes (s : State) (e : MEnt) : Nat × Nat :=
  let w := mxAws s e
  (if w.1.isSome then 8 * slabA e.fmt else 0, if w.2.isSome then e.n * slabB e.fmt else 0)

/-- The address of the poison that an entry meets: an operand, an accumulator element, or an arrival word (R102, R374). -/
def mxPoison (s : State) (g : Gang) (e : MEnt) (opd : Option DWord) : Option DWord :=
  match opd with
  | some a => some a
  | none =>
    if mmaAccPoison g e then some (BitVec.ofNat 64 e.d)
    else ([(mxAws s e).1, (mxAws s e).2].find? (fun w => match w with | some a => awBad s a.2.1 a.2.2 | none => false)).map
      (fun w => match w with | some a => a.1.setWidth 64 | none => 0)

/-- The fault of poison at an entry. -/
def mxFault (s : State) (q : Nat) (e : MEnt) (a : DWord) : State :=
  engineHalt s q { stream := 2, cls := 0x0E, seq := e.seq % 65536, index := 0, addr := a, syn := none, pa := some 0, tick := s.tick }

/-- Flags and registers of an entry reach its warp, unless it has exited (R366, R378). -/
def mxToThread (s : State) (e : MEnt) (out : Nat × (Nat → Word × Bool) × Flags) (fl : Flags) : State :=
  s.modThread e.tid (fun th =>
    if th.exited then th
    else lateFlags (if out.1 = 0 then th else putWords th e.mask e.d out.1 out.2.1) true false 0 0 (out.2.2 ||| fl))

/-- Replace an entry of a quill's matrix queue, or take it out. -/
def putEnt (s : State) (q seq : Nat) (e : Option MEnt) : State :=
  s.modQuill q (fun x => { x with mx := x.mx.filterMap (fun m => if m.seq = seq then e else some m) })

/-- The first entry that has not committed commits (R364); a poisoned operand stops the quill (R131, R374). The accumulator writes of a
gang that has exited are discarded (R217). -/
def mxCommit (s : State) (q : Nat) : State :=
  let x := s.quill q
  match x.mx.find? (fun m => m.owed.isNone) with
  | none => s
  | some e => match s.gang e.gang with
    | none => putEnt s q e.seq none
    | some g =>
      let unread := decide (e.snap.length < (mxPlaces s e).length)
      if x.halted ∨ (unread ∧ !mxReady s e) then s
      else
        let ops := mxOperands s e
        match mxPoison s g e ops.2.2 with
        | some a => mxFault s q e a
        | none =>
          let ws := if e.fn < 16 then moveIn g e else mmaWords g e ops.1 ops.2.1
          let owes := mxOwes s e
          let s1 := putEnt s q e.seq (if owes = (0, 0) then none else some { e with owed := some owes })
          mxToThread (if gangLive s e.gang then s1.modGang e.gang (fun g => accPutAll g ws.1) else s1) e (moveOut g e) ws.2

/-- The first entry that owes counts, counts n bytes of its A or B operand (R167, R376). -/
def mxCount (s : State) (q n : Nat) (b : Bool) : State :=
  match (s.quill q).mx.find? (fun m => m.owed.isSome) with
  | none => s
  | some e =>
    let owes := e.owed.getD (0, 0)
    let left := if b then owes.2 else owes.1
    if (s.quill q).halted ∨ n = 0 ∨ left < n then s
    else
      let owes' := if b then (owes.1, owes.2 - n) else (owes.1 - n, owes.2)
      let done := putEnt s q e.seq (if owes' = (0, 0) then none else some { e with owed := some owes' })
      match (if b then (mxAws s e).2 else (mxAws s e).1) with
      | none => done
      | some (a, g, p) => if awBad s g p then mxFault s q e (a.setWidth 64) else countInto done g p n

/-- An entry commits (n2 = 0), or one that has committed counts n2 operand bytes, of B where `on` is set. -/
def execMatrixEntryCommit (s : State) : Out := .next (if s.inp.n2 = 0 then mxCommit s s.inp.n1 else mxCount s s.inp.n1 s.inp.n2 s.inp.on)

end Sys2Proof.Machine
end

