-- ==== Sys2Proof/Machine/Engine.lean ====
section
/-! DEFINITION. The copy and gather streams (14 R379-R388): commands as they issue, their reads and writes, their counts and
faults, edrain and ecnt. -/
namespace Sys2Proof.Machine
open Sys2Proof

/-! ## Checks before issue (R382-R384) -/

/-- A command block (R381). -/
structure Block where
  src : DWord
  dst : DWord
  rows : Nat
  len : Nat
  sstr : Int
  dstr : Int
  aw : Word
deriving DecidableEq, Repr

/-- The command block at s(a). -/
def blockOf (th : Thread) (a : Nat) : Block :=
  let w4 := (th.sv (a + 4)).toNat
  { src := th.sp a, dst := th.sp (a + 2), rows := fieldN w4 16 16 + 1, len := fieldN w4 0 16 + 1, sstr := (th.sv (a + 5)).toInt,
    dstr := (th.sv (a + 6)).toInt, aw := th.sv (a + 7) }

/-- A reserved field or code in the high word of an operand (R381, R383). -/
def highBad (space : Nat) (x : DWord) : Bool :=
  let h := fieldN x.toNat 32 32
  match space with
  | 1 => decide (h / 8 ≠ 0) || decide (h % 8 ≥ 6)
  | 2 => decide (h / 256 ≠ 0)
  | 3 => h != 0
  | _ => false

/-- The first scratchpad row that passes the allocation: `n` rows of `len` bytes from the low word of an operand. -/
def rowsBad (s : State) (gid : Nat) (x : DWord) (n len : Nat) (str : Int) : Option Nat :=
  ((List.range n).map (fun (i : Nat) => wrapN 32 ((lo32 x).toNat + (i : Int) * str))).find? (fun a => (scrPlace s gid a len 0).isNone)

/-- Whether the operands of rred break its element size (R384). -/
def rredBad (b : Block) (op : Nat) : Bool :=
  let z : Nat := if op = 1 then 8 else 4
  b.len % z != 0 || (lo32 b.src).toNat % z != 0 || b.dst.toNat % z != 0 || b.sstr % z != 0 || b.dstr % z != 0

/-- Scratchpad sides of a command: operand, rows, length, stride. -/
def scrSides (cmd dst src op : Nat) (b : Block) : List (DWord × Nat × Nat × Int) :=
  (if src = 1 then [(b.src, b.rows, b.len, b.sstr)] else []) ++
  (if dst = 1 then
    (if cmd = cmdCpyt then [(b.dst, b.len / 2 ^ op, b.rows * 2 ^ op, b.dstr)] else [(b.dst, b.rows, b.len, b.dstr)])
   else [])

/-- The checks of a command that depend only on registers (R383); the length of a cpyt is checked before (`valueCheck`). R383 gives them
no order: that the descriptor comes first, then the scratchpad rows, the index array and the arrival word, is the model's (log 98). -/
def engBad (s : State) (th : Thread) (m : Mask) (cmd dst src : Nat) (f : T64) : Option Res :=
  let b := blockOf th f.a.toNat
  let op := f.m 27 24
  let ix := if cmd = cmdGat ∨ cmd = cmdSct then some (th.sv f.b.toNat) else none
  if highBad src b.src ∨ highBad dst b.dst ∨ (!f.mb 28 ∧ b.aw ≠ 0) ∨ (cmd = cmdRred ∧ rredBad b op) then
    some (.trap 0x0A m (f.a.setWidth 64) 0)
  else match (scrSides cmd dst src op b).findSome? (fun r => rowsBad s th.gang r.1 r.2.1 r.2.2.1 r.2.2.2) with
  | some a => some (.trap 0x12 m (BitVec.ofNat 64 a) 0)
  | none => match (match ix with | some x => rowsBad s th.gang (x.setWidth 64) 1 (4 * b.rows) 0 | none => none) with
    | some a => some (.trap 0x12 m (BitVec.ofNat 64 a) 0)
    | none =>
      if f.mb 28 then
        (match awPlace s th.gang b.aw with
        | .error c => some (.trap c m (b.aw.setWidth 64) 0)
        | .ok _ => none)
      else none

/-- The command that a thread issues. -/
def engCmd (s : State) (th : Thread) (cmd dst src : Nat) (f : T64) (seq : Nat) : EngCmd :=
  let b := blockOf th f.a.toNat
  { seq := seq, tid := s.cur, gang := th.gang, cmd := cmd, dst := dst, src := src, scope := f.m 31 29, op := f.m 27 24,
    pol := match th.latch.px.c with | some (_, p) => p.toNat | none => 3
    mode := th.mode, asid := th.asid, vmid := th.vmid, srcA := b.src, dstA := b.dst, rows := b.rows, len := b.len, sstr := b.sstr,
    dstr := b.dstr, idx := if cmd = cmdGat ∨ cmd = cmdSct then (th.sv f.b.toNat).toNat else 0,
    aw := if f.mb 28 then some b.aw.toNat else none, ser := th.ser, started := false, e := 0, buf := [], wrote := [], taint := [] }

/-- An engine command: its checks, then it joins its stream, or does not issue where the queue is full (R379, R225). -/
def engIssue (i : Instr) (s : State) (st : Stream) (cmd : Nat) (dst src : BitVec 2) (f : T64) : Out :=
  instr i s (fun th =>
    match engBad s th (th.active i.guard) cmd dst.toNat src.toNat f with
    | some r => r
    | none =>
      let x := s.quill th.quill
      let y := x.stream st
      if roomFull s th.quill (.stream st) then .full s (.stream st)
      else
        let c := engCmd s th cmd dst.toNat src.toNat f y.seq
        .retire (s.setQuill th.quill (x.setStream st { seq := y.seq + 1, cmds := y.cmds ++ [c] })))

def execCpy (dst src : BitVec 2) (f : T64) (s : State) : Out := engIssue (.cpy dst src f) s .copy 0 dst src f
def execCpyt (dst src : BitVec 2) (f : T64) (s : State) : Out := engIssue (.cpyt dst src f) s .copy cmdCpyt dst src f
def execGat (dst src : BitVec 2) (f : T64) (s : State) : Out := engIssue (.gat dst src f) s .gather cmdGat dst src f
def execSct (dst src : BitVec 2) (f : T64) (s : State) : Out := engIssue (.sct dst src f) s .gather cmdSct dst src f
def execCfill (dst src : BitVec 2) (f : T64) (s : State) : Out := engIssue (.cfill dst src f) s .copy cmdCfill dst src f
def execRred (dst src : BitVec 2) (f : T64) (s : State) : Out := engIssue (.rred dst src f) s .copy cmdRred dst src f

/-! ## edrain and ecnt (R386) -/

/-- Commands of a thread that have not committed in full. -/
def engCount (s : State) (q t : Nat) : Nat :=
  (((s.quill q).copy.cmds ++ (s.quill q).gather.cmds).filter (fun c => c.tid == t)).length

def execEdrain (f : T64) (s : State) : Out :=
  instr (.edrain f) s (fun th =>
    let sc := f.m 31 29
    if engCount s th.quill s.cur = 0 then .retire (acquire s th.quill (some sc))
    else .closed (s.setThread s.cur (waitAt th (.edrain sc))))

def execEcnt (f : T64) (s : State) : Out :=
  instr (.ecnt f) s (fun th => .done s (th.setS f.d.toNat (BitVec.ofNat 32 (engCount s th.quill s.cur))))

/-- A waiting edrain whose commands have all committed retires. -/
def execEdrainComplete (s : State) : Out :=
  .next (match s.thread s.inp.n1 with
  | none => s
  | some th => match th.wait with
    | .edrain sc => if engCount s th.quill s.inp.n1 = 0 then acquire (endWait s s.inp.n1) th.quill (some sc) else s
    | _ => s)

/-! ## Start (R162) -/

/-- Whether the reads of a command may begin: the earlier stores of its thread have performed at its scope, and earlier acquires
and atomics have performed. -/
def cmdReady (s : State) (c : EngCmd) : Bool :=
  match s.thread c.tid with
  | some th => (earlier th c.ser).all (fun o => passesAll o && (o.kind != .store || o.performed c.scope))
  | none => true

/-- The first command of a stream that has not started, in issue order (R379). -/
def startCmd (s : State) (q : Nat) (st : Stream) : State :=
  match ((s.quill q).stream st).cmds.find? (fun c => !c.started) with
  | none => s
  | some c => if (s.quill q).halted ∨ !cmdReady s c then s else modCmd s q st c.seq (fun c => { c with started := true })

def execEngineCommandStart (s : State) : Out := .next (startCmd s s.inp.n1 s.inp.stream)

/-! ## Reads (R131, R147, R162) -/

/-- The bytes that a command reads for position e at once: an element of rred, else one byte. -/
def cmdGrain (c : EngCmd) : Nat := if c.cmd = cmdRred then c.rs else 1

/-- A poisoned source byte: the physical address for the error log. -/
def srcPoison (s : State) (q : Nat) (c : EngCmd) (d : ESide) : Option Nat :=
  match d with
  | .mem kind pol pa _ => if (if l1Held kind pol then heldPoison s q pa 1 else poisoned s pa 1) then some pa else none
  | .scr g p => if readsScr s c g ∧ scrPoisoned s g p 1 then some 0 else none
  | .stg k o => if s.st.stgPoison.contains (k, o / 8) then some 0 else none
  | _ => none

/-- The value of a source byte that is not a peer's (R146, R147, R217). -/
def srcByte (s : State) (q : Nat) (c : EngCmd) (d : ESide) : Byte :=
  match d with
  | .mem kind pol pa _ => if l1Held kind pol then heldByte s q pa else s.byte pa
  | .scr g p => if readsScr s c g then (scrRead s g p 1).getD 0 0 else 0
  | .stg k o => (((s.st.staging.find k).getD []).find o).getD 0
  | _ => 0

/-- The working command at a place in its stream. -/
def workCmd (s : State) (q : Nat) (st : Stream) (n e : Nat) : Option EngCmd :=
  match ((s.quill q).stream st).cmds[n]? with
  | none => none
  | some c => if (s.quill q).halted ∨ !c.started ∨ e < c.e ∨ c.total ≤ e then none else some c

/-- Room for one more request of an engine (R175). -/
def engRoom (s : State) (q : Nat) : Bool := decide (quillOut s q + pendingLines s q < 1024)

/-- Whether a request of a position is under way. -/
def reqOut (s : State) (q : Nat) (st : Stream) (seq e : Nat) : Bool :=
  s.fab.out.any (fun r => r.owner == .engine q st seq e)

/-- A request of an engine for the bytes of a position: refused where it cannot leave (R178). -/
def engSend (s : State) (q : Nat) (st : Stream) (c : EngCmd) (e peer off : Nat) (kind : ReqKind) (data : List Byte) :
    Option State :=
  (sendReq s q peer (off / 128) (.engine q st c.seq e) kind [{ off := off, size := cmdGrain c, data := data, bad := false }]).map Prod.fst

/-- The code of a stream in efstat (R408). -/
def streamCode (st : Stream) : Nat := match st with | .copy => 0 | .gather => 1

/-- The fault of a refusal (R186, R383, R408). -/
def engRefused (s : State) (q : Nat) (st : Stream) (seq e peer off cls : Nat) : State :=
  engineHalt s q { stream := streamCode st, cls := cls, seq := seq % 65536, index := e, addr := domAddr peer off, syn := none,
                   pa := none, tick := s.tick }

/-- An engine reads the source byte of a position ahead of its count; a missing translation joins the miss table. -/
def engRead (s : State) (q : Nat) (st : Stream) (n e : Nat) : State :=
  match workCmd s q st n e with
  | none => s
  | some c =>
    let d := srcAt s q c false e
    if c.cmd = cmdCfill ∨ (c.buf.find e).isSome ∨ (srcPoison s q c d).isSome ∨ (c.cmd = cmdGat ∧ idxPoisoned s c (c.row e)) ∨ idxCrooked c then s
    else
      let take := fun (s : State) => modCmd s q st c.seq (fun x => { x with buf := x.buf.put e (srcByte s q c d) })
      match d with
      | .bad _ _ _ _ => s
      | .miss va => engMiss s q c va
      | .dom peer off =>
        if laneHeld s peer (hashLane (off / 128 * 128)) ∨ !engRoom s q ∨ reqOut s q st c.seq e then s
        else match engSend s q st c e peer off .load [] with
          | some s1 => s1
          | none => engRefused s q st c.seq e peer off 0x13
      | .mem kind pol pa _ =>
        if bankBusy s q (.mem kind pol pa 0 0 0 0) then s
        else take (if l1Held kind pol ∨ kind = 3 then s else s.modQuill q (fun x => cqDrop x (pa / 128)))
      | .stg k _ => if dieStopped s (k / 24) then s else take s
      | _ => take s

/-! ## Writes (R146, R163, R384) -/

/-- Mark a position as written. -/
def markWrote (s : State) (q : Nat) (st : Stream) (seq e n : Nat) : State :=
  modCmd s q st seq (fun c => { c with wrote := c.wrote ++ (List.range n).map (fun i => e + i) })

/-- Write one staging byte; a protected unit of 64 bits that its command has stored whole loses its poison (R117). -/
def stgWrite (s : State) (k o : Nat) (b : Byte) (whole : Bool) : State :=
  let m := (s.st.staging.find k).getD []
  { s with st := { s.st with
    staging := s.st.staging.put k (if b = 0 then FMap.del m o else FMap.put m o b)
    stgPoison := if whole then s.st.stgPoison.filter (fun p => p != (k, o / 8)) else s.st.stgPoison } }

/-- Whether every position of the `n`-byte unit of a byte has been written. -/
def unitDone (c : EngCmd) (n e a : Nat) : Bool :=
  match unitPositions c n e a with
  | some es => es.all (fun i => i == e || decide (i < c.e) || c.wrote.contains i)
  | none => false

/-- Write one byte to its destination. -/
def engPut (s : State) (q : Nat) (st : Stream) (c : EngCmd) (e : Nat) (d : ESide) (b : Byte) : State :=
  match d with
  | .mem kind pol pa va =>
    let ent : PEnt := { tid := engTid q st, ser := c.seq, acc := e, kind := kind, pol := 0, pa := pa, data := [b], vis := l1Held kind pol,
                        vmid := c.vmid, asid := c.asid, va := va, red := none }
    s.modQuill q (fun x =>
      let x1 := if l1Held kind pol then cqUpdate x pa [b] else if kind = 3 then x else cqDrop x (pa / 128)
      { x1 with pq := x1.pq ++ [ent] })
  | .scr g p =>
    if gangLive s g then
      let s1 := scrWrite s g p [b]
      if unitDone c 4 e p then s1.modGang g (fun x => { x with scrPoison := x.scrPoison.filter (fun w => w != p / 4) }) else s1
    else s
  | .stg k o => stgWrite s k o b (unitDone c 8 e o)
  | _ => s

/-- A higher row of the same sct has already stored the byte (R382). -/
def overtaken (s : State) (q : Nat) (c : EngCmd) (e : Nat) (d : ESide) : Bool :=
  c.cmd == cmdSct && c.wrote.any (fun i => decide (e < i) && (match dstSide s q c i, d with
    | .mem _ _ a _, .mem _ _ b _ => a == b
    | .stg k a, .stg l b => k == l && a == b
    | .dom p a, .dom r b => p == r && a == b
    | _, _ => false))

/-- The byte of a position: read ahead, or of the pattern; undefined where the thread touched it (R163). -/
def cmdByte (s : State) (c : EngCmd) (e : Nat) : Option Byte :=
  let b := if c.cmd = cmdCfill then some (c.srcA.extractLsb' (8 * (e % c.len % 4)) 8) else c.buf.find e
  b.map (fun x => if c.taint.contains e then Config.freeByte s.free else x)

/-- An element of rred leaves for its home in this device, where it performs in any order among elements (R384). -/
def rredHere (s : State) (q : Nat) (c : EngCmd) (e kind pol pa va : Nat) (data : List Byte) : State :=
  let ent : PEnt := { tid := engTid q .copy, ser := c.seq, acc := e, kind := kind, pol := pol, pa := pa, data := data, vis := false,
                      vmid := c.vmid, asid := c.asid, va := va, red := some c.op }
  s.modQuill q (fun x => { x with pq := x.pq ++ [ent] })

/-- The first position that rred has not sent: its elements leave in order (log 25). -/
def rredNext (c : EngCmd) : Nat := c.wrote.foldl (fun a e => max a (e + 1)) c.e

/-- A command's elements may leave: every earlier command of its stream is an rred that has sent all of its own, so that no sent element
ever lies beyond a position that is saved (R387). -/
def rredOpen (s : State) (q n : Nat) : Bool :=
  ((s.quill q).copy.cmds.take n).all (fun c => c.cmd == cmdRred && rredNext c == c.total)

/-- No source byte that a command has still to read is poisoned, as far as this device knows, and those of a peer have all been read: no
byte of it goes to a peer before that (R193). -/
def sourceClean (s : State) (q : Nat) (c : EngCmd) : Bool :=
  c.cmd == cmdCfill || ((List.range (c.total - c.e)).map (fun i => c.e + i)).all (fun e =>
    (c.buf.find e).isSome || c.wrote.contains e ||
      (match srcSide s q c e with
        | .dom _ _ => false
        | d => (srcPoison s q c d).isNone))

/-- The bytes of an element of rred, once all are read. -/
def rredData (s : State) (c : EngCmd) (e : Nat) : Option (List Byte) := (List.range c.rs).mapM (fun i => cmdByte s c (e + i))

/-- The refusal of an element of rred enters its thread's record (R384, R160). -/
def rredRefused (s : State) (c : EngCmd) (peer off cls : Nat) : State := remoteFault s c.tid peer off cls

/-- An engine writes the byte, or sends the rred element, of a position; a missing translation joins the miss table. -/
def engWrite (s : State) (q : Nat) (st : Stream) (n e : Nat) : State :=
  match workCmd s q st n e with
  | none => s
  | some c =>
    let d := dstAt s q c false e
    let s0 := if c.taint.isEmpty then s else s.bump
    let held := fun (peer off : Nat) => laneHeld s peer (hashLane (off / 128 * 128)) || !engRoom s q || !sourceClean s q c
    if c.wrote.contains e ∨ (c.cmd = cmdSct ∧ idxPoisoned s c (c.row e)) ∨ idxCrooked c then s
    else if c.cmd = cmdRred then
      (if e ≠ rredNext c ∨ !rredOpen s q n then s
      else match rredData s c e, d with
        | _, .miss va => engMiss s q c va
        | some data, .mem kind pol pa va => markWrote (rredHere s0 q c e kind pol pa va data) q st c.seq e c.rs
        | some data, .dom peer off =>
          if held peer off then s
          else match engSend s0 q st c e peer off (.rred (BitVec.ofNat 4 c.op)) data with
            | some s1 => markWrote s1 q st c.seq e c.rs
            | none => markWrote (rredRefused s0 c peer off 0x13) q st c.seq e c.rs
        | _, _ => s)
    else match cmdByte s c e, d with
      | none, _ => s
      | some _, .bad _ _ _ _ => s
      | some _, .miss va => engMiss s q c va
      | some b, .dom peer off =>
        if overtaken s q c e d then markWrote s0 q st c.seq e 1
        else if held peer off then s
        else (match engSend s0 q st c e peer off .store [b] with
          | some s1 => markWrote s1 q st c.seq e 1
          | none => engRefused s q st c.seq e peer off 0x13)
      | some b, _ =>
        if overtaken s q c e d then markWrote s0 q st c.seq e 1
        else markWrote (engPut s0 q st c e d b) q st c.seq e 1

/-! ## Counts (R104, R164, R385) -/

/-- Whether the byte of a position has performed at the command's scope. -/
def posDone (s : State) (q : Nat) (st : Stream) (c : EngCmd) (e : Nat) : Bool :=
  c.wrote.contains e && !reqOut s q st c.seq (e / cmdGrain c * cmdGrain c) &&
  ((decide (c.scope < 2) && c.cmd != cmdRred) || !(s.quill q).pq.any (fun x => x.tid == engTid q st && x.ser == c.seq && x.acc == e / cmdGrain c * cmdGrain c))

/-- A byte of this device's own export window takes a value (R33). -/
def loopFree (s : State) (off : Nat) (b : Byte) : State :=
  let d := s.fab.domexpEff.toNat
  match (walk s [] (fieldN d 32 6) (fieldN d 38 10) off).1 with
  | .ok l => if l.kind = 4 ∨ l.kind = 1 then s else s.setBytes (l.pa + off % 2 ^ l.sz) [b]
  | .bad _ _ _ => s

/-- A stored byte takes a free value: in the pending list where it has still to reach its home, else at its home (R163). -/
def freeStored (s : State) (q : Nat) (c : EngCmd) (e kind pa : Nat) : State :=
  let mine := fun (x : PEnt) => x.tid == engTid q c.st && x.ser == c.seq && x.acc == e
  let v := Config.freeByte s.free
  let s1 := s.bump.modQuill q (fun x => cqDrop { x with pq := x.pq.map (fun p => if mine p then { p with data := [v] } else p) } (pa / 128))
  if (s.quill q).pq.any mine ∨ kind = 4 then s1 else s1.setBytes pa [v]

/-- Bytes that a thread touched take a free value with their count (R163). -/
def settleTaint (s : State) (q : Nat) (c : EngCmd) (n : Nat) : State :=
  (c.taint.eraseDups.filter (fun e => decide (c.e ≤ e) && decide (e < c.e + n))).foldl (fun s e => match dstSide s q c e with
    | .mem kind _ pa _ => freeStored s q c e kind pa
    | .scr g p => if gangLive s g then scrWrite s.bump g p [Config.freeByte s.free] else s
    | .stg k o => stgWrite s.bump k o (Config.freeByte s.free) false
    | .dom p o => if p = s.fab.peer.toNat then loopFree s.bump o (Config.freeByte s.free) else s
    | _ => s) s

/-- Bytes of the first command commit and are counted (R387); one that has committed in full leaves its stream (log 37). -/
def commitBytes (s : State) (q : Nat) (st : Stream) (n : Nat) : State :=
  match ((s.quill q).stream st).cmds with
  | [] => s
  | c :: _ =>
    if ((s.quill q).halted ∧ !(c.cmd = cmdRred ∧ !c.wrote.isEmpty)) ∨ n = 0 ∨ c.total < c.e + n ∨ !(List.range n).all (fun i => posDone s q st c (c.e + i)) then s
    else
      let place := match c.aw with
        | none => none
        | some a => (match awPlace s c.gang (BitVec.ofNat 32 a) with | .ok x => some x | .error _ => none)
      if (match place with | some (g, p) => awBad s g p | none => false) then
        engineHalt s q { stream := streamCode st, cls := 0x0E, seq := c.seq % 65536, index := c.e, addr := BitVec.ofNat 64 (c.aw.getD 0),
                         syn := none, pa := some 0, tick := s.tick }
      else
        let s1 := match place with | some (g, p) => countInto (settleTaint s q c n) g p n | none => settleTaint s q c n
        let e' := c.e + n
        s1.modQuill q (fun x =>
          let y := x.stream st
          x.setStream st { y with cmds := (y.cmds.map (fun d => if d.seq = c.seq then
            { d with e := e', buf := d.buf.filter (fun b => decide (e' ≤ b.1)), wrote := d.wrote.filter (fun i => decide (e' ≤ i)),
                     taint := d.taint.filter (fun i => decide (e' ≤ i)) } else d)).filter (fun d => decide (d.e < d.total)) })

def execEngineBytesCommit (s : State) : Out := .next (commitBytes s s.inp.n1 s.inp.stream s.inp.n2)

/-! ## Faults (R131, R383, R407) -/

/-- The fault of a position: class, index, address, syndrome, and the physical address of poison. An index word that is misaligned or
poisoned is judged before the sides. -/
def posFault (s : State) (q : Nat) (c : EngCmd) (e : Nat) : Option (Nat × Nat × DWord × Option Word × Option Nat) :=
  let a := fun (d : DWord) (off : Int) => if c.src = 1 then BitVec.ofNat 64 (wrapN 32 ((lo32 d).toNat + off)) else d + BitVec.ofInt 64 off
  let sidePoison := fun (cl : Nat) => if cl = 0x19 then descPoison s (dieOf q) c.vmid c.asid else none
  let idxBad := (c.cmd = cmdGat ∨ c.cmd = cmdSct) ∧ idxPoisoned s c (c.row e)
  if idxCrooked c then some (0x0A, e, BitVec.ofNat 64 ((c.idx + 4 * c.row e) % 2 ^ 32), none, none)
  else if idxBad then some (0x0E, e, BitVec.ofNat 64 (c.idx + 4 * c.row e), none, some 0)
  else
    let src := srcAt s q c false e
    match (if c.cmd = cmdCfill then ESide.none else src) with
    | .bad cl i x y => some (cl, i, x, y, sidePoison cl)
    | d => match srcPoison s q c d with
      | some pa => some (0x0E, e, a c.srcA (c.srcOff (engIndex s c cmdGat e).1 e), none, some pa)
      | none => match dstAt s q c false e with
        | .bad cl i x y => some (cl, i, x, y, sidePoison cl)
        | _ => none

/-- Whether a position's fault may arise now. The elements of rred leave in order, so that it is the next one's; but where that one goes
to a peer, poison in any source element comes before the first byte is sent (R193). -/
def faultTurn (s : State) (q : Nat) (c : EngCmd) (e cls : Nat) : Bool :=
  c.cmd != cmdRred || rredNext c == e / c.rs * c.rs ||
    (cls == 0x0E && (match dstSide s q c (rredNext c) with | .dom _ _ => true | _ => false))

/-- A position of a command faults: the quill's streams and issue stop (R407). -/
def engFault (s : State) (q : Nat) (st : Stream) (n e : Nat) : State :=
  match workCmd s q st n e with
  | none => s
  | some c =>
    if c.wrote.contains e then s
    else match posFault s q c e with
    | none => s
    | some (0, _, _, _, _) => s
    | some (cl, i, addr, syn, pa) =>
      if !faultTurn s q c e cl then s
      else engineHalt s q { stream := streamCode st, cls := cl, seq := c.seq % 65536, index := i, addr := addr,
                            syn := syn.map (fun y => (y, c.vmid, c.asid)), pa := pa, tick := s.tick }

/-- An engine fault arises; or, where one has stopped the quill and what was issued has performed, its frame and records are written
(R407). -/
def execEngineFault (s : State) : Out :=
  .next (if (s.quill s.inp.n1).fault.isSome then engineStop s s.inp.n1 else engFault s s.inp.n1 s.inp.stream s.inp.n2 s.inp.n3)

/-! ## The frame's two answers (R408, R409) -/

def execEfstatResume (s : State) : Out := .next (resumeQuill s s.inp.n1)
def execEfstatAbort (s : State) : Out := .next (abortQuill s s.inp.n1)

end Sys2Proof.Machine
end

