-- ==== Sys2Proof/Machine/Domain.lean ====
section
/-! DEFINITION. The domain fabric (07): requests that arrive, their answers and refusals at the source, routes, links, and the
tick exchange. -/
namespace Sys2Proof.Machine
open Sys2Proof

/-! ## The destination (R46, R47, R180-R185) -/

/-- The access kind of a request for permissions and tfsyn. -/
def reqAk : ReqKind → AK
  | .load => .load
  | .store => .store
  | _ => .atomic

/-- Last byte of a request's accesses, plus one. -/
def reqBound (r : Request) : Nat := r.accs.foldl (fun n a => max n (a.off + a.size)) 0

/-- First offset of a request. -/
def reqFirst (r : Request) : Nat := (r.accs.head?.map (fun a => a.off)).getD 0

/-- The export window in effect (R46). -/
def expSize (s : State) : Nat := fieldN s.fab.domexpEff.toNat 0 31 * 65536
def expVmid (s : State) : Nat := fieldN s.fab.domexpEff.toNat 32 6
def expAsid (s : State) : Nat := fieldN s.fab.domexpEff.toNat 38 10

/-- A refusal of the export walk enters the fault buffer (R80, R185). -/
def logExport (s : State) (r : Request) (e : WalkEnd) : State :=
  logXlate s (reqFirst r) (xlateInfo (synOf (reqAk r.kind) e.1 e.2.1 e.2.2).toNat true (expAsid s) (expVmid s) 0 7 r.src) s.tick

/-- Whether an access of a request consumes poison at an address: loads and atomics by their bytes, reductions by their line (R131,
R193). -/
def accPoison (s : State) (kind : ReqKind) (pa n : Nat) : Bool :=
  match kind with
  | .store => false
  | .rred _ => poisoned s (pa / 128 * 128) 128
  | _ => poisoned s pa n

/-- The parts of a request's accesses, `pa` the address of its first byte: an access of 16 bytes to the host kind has two (R142). -/
def serveParts (kind pa : Nat) (r : Request) : List ServePart :=
  r.accs.zipIdx.flatMap (fun a =>
    let p := pa + a.1.off - reqFirst r
    let part := fun (o n : Nat) (d : List Byte) =>
      ({ acc := a.2, first := o, pa := p + o, size := n, data := d, got := none } : ServePart)
    if kind = 3 ∧ a.1.size = 16 then [part 0 8 (a.1.data.take 8), part 8 8 (a.1.data.drop 8)] else [part 0 a.1.size a.1.data])

/-- The checks of an arriving request in the order of R185: a refusal's class, or what is to perform. Bytes that a flit marks poisoned
are consumed poison (R188). -/
def reqCheck (s : State) (r : Request) : State × Except Nat Serve :=
  if !((s.fab.allow.getD (r.src / 64) 0).getLsbD (r.src % 64)) then (s, .error 0x12)
  else if !s.fab.domexpEff.getLsbD 63 then (s, .error 0x10)
  else if expSize s < reqBound r then (s, .error 0x11)
  else match hubTranslate s (expVmid s) (expAsid s) (reqFirst r) false with
  | (s1, .error e) => (logExport s1 r e, .error e.1)
  | (s1, .ok (l, pa)) => match permBad (reqAk r.kind) .user l with
    | some e => (logExport s1 r e, .error e.1)
    | none =>
      match r.accs.findSome? (fun a => kindBad (reqAk r.kind) l.kind a.size) with
      | some c => (s1, .error (if c = 0x16 then 0x18 else 0x17))
      | none =>
        let ps := serveParts l.kind pa r
        match ps.find? (fun p => accPoison s1 r.kind p.pa p.size || (match r.accs[p.acc]? with | some a => a.bad | none => false)) with
        | some p => (logPoison s1 6 p.pa, .error 0x14)
        | none => (s1, .ok { req := r, kind := l.kind, vmid := expVmid s, asid := expAsid s, parts := ps })

/-- The poison that a store of several accesses clears, or is logged for (R130, R131). -/
def reqStorePoison (s : State) (as : List (Nat × Nat)) : State :=
  ((as.map (fun a => a.1 / 64)).eraseDups).foldl (fun s u =>
    if !poisoned s (u * 64) 64 then s
    else if (List.range 64).all (fun i => as.any (fun a => decide (a.1 ≤ u * 64 + i) && decide (u * 64 + i < a.1 + a.2))) then
      clearPoison s (u * 64) 64
    else logPoison s 2 (u * 64)) s

/-- A part performs at its home: the bytes returned. -/
def servePart (s : State) (kind : ReqKind) (mk : Nat) (p : ServePart) : State × List Byte :=
  match kind with
  | .load => (s, homeRead s mk p.pa p.size)
  | .store => (homeWrite s mk 0 p.pa p.data, [])
  | .atomic op wide =>
    let n := if wide then 8 else 4
    let old := s.bytes p.pa n
    (s.setBytes p.pa (atomStep op old (p.data.take n) (p.data.drop n)), old)
  | .rred op =>
    let old := s.bytes p.pa p.size
    (s.setBytes p.pa (toBytes p.size (rredNew op.toNat (ofBytes old) (ofBytes p.data))), [])

/-- A loopback request is the first of its lane that has not passed its checks yet (R33, R180). -/
def loopTurn (s : State) (o : OutReq) : Bool :=
  !(s.fab.out.takeWhile (fun x => x.id != o.id)).any (fun x => x.peer == o.peer && x.lane == o.lane &&
    reqVl x.req.kind == reqVl o.req.kind && !s.fab.loopback.any (fun l => l.1 == x.id) &&
    !s.fab.serving.any (fun v => v.req.src == o.peer && v.req.id == x.id))

/-- The answer of a request: a class, or the data of its accesses; of a loopback request, by its id (R33). -/
def answerReq (s : State) (r : Request) (c : Option Nat) (d : List (List Byte)) : State :=
  if r.src = s.fab.peer.toNat then { s with fab := { s.fab with loopback := s.fab.loopback ++ [(r.id, c, d)] } }
  else { s with fab := { s.fab with answers := s.fab.answers ++ [(r.src, r.id, c, d)] } }

/-- The data that a request's accesses returned. -/
def Serve.data (v : Serve) : List (List Byte) :=
  v.req.accs.zipIdx.map (fun a => (v.parts.filter (fun p => p.acc == a.2)).flatMap (fun p => p.got.getD []))

/-- The positions of the 64-byte unit that a loopback store of an engine belongs to, where its command stores the unit whole: its requests
carry a byte each (R33, R193). -/
def loopUnit (s : State) (r : Request) : Option (OutReq × EngCmd × List Nat) :=
  if r.src ≠ s.fab.peer.toNat then none
  else match s.fab.out.find? (fun o => o.id == r.id && o.peer == s.fab.peer.toNat) with
  | none => none
  | some o => match o.owner with
    | .engine q st seq e => (((s.quill q).stream st).cmds.find? (fun c => c.seq == seq)).bind (fun c =>
        (unitPositions c 64 e (reqFirst r)).map (fun es => (o, c, es)))
    | _ => none

/-- The store of a position of a command has performed: it was sent and, but for request `o`, loopback has answered it. -/
def loopStored (s : State) (o : OutReq) (c : EngCmd) (i : Nat) : Bool :=
  (decide (i < c.e) || c.wrote.contains i) && !s.fab.out.any (fun x => x.id != o.id &&
    (match x.owner, o.owner with | .engine q st seq e, .engine q' st' seq' _ => q == q' && st == st' && seq == seq' && e == i | _, _ => false) &&
    !s.fab.loopback.any (fun l => l.1 == x.id && l.2.1.isNone))

/-- The poison that a store which has performed clears, or is logged for (R130, R131, R193). -/
def servePoison (s : State) (v : Serve) : State :=
  match loopUnit s v.req with
  | some (o, c, es) => (match v.parts with
    | p :: _ => if poisoned s (p.pa / 64 * 64) 64 ∧ es.all (loopStored s o c) then clearPoison s (p.pa / 64 * 64) 64 else s
    | [] => s)
  | none => reqStorePoison s (v.parts.map (fun p => (p.pa, p.size)))

/-- A request that performs leaves this device's books and is answered. -/
def finishServe (s : State) (v : Serve) (c : Option Nat) : State :=
  let s1 := { s with fab := { s.fab with serving := s.fab.serving.filter (fun x => !(x.req.src == v.req.src && x.req.id == v.req.id)) } }
  let s2 := match v.req.kind, c with
    | .store, none => if v.kind = 3 ∨ v.kind = 4 then s1 else servePoison s1 v
    | _, _ => s1
  answerReq s2 v.req c (match c with | none => v.data | some _ => [])

/-- Requests of one source on one hash lane and virtual lane perform in arrival order (R180). -/
def sameLane (a b : Serve) : Bool :=
  a.req.src == b.req.src && hashLane (reqFirst a.req) == hashLane (reqFirst b.req) && reqVl a.req.kind == reqVl b.req.kind

/-- An earlier lane of a request has still to perform: the lanes of an atomic that share a line perform in ascending order (R141, R174). -/
def laneWaits (v : Serve) (k : Nat) (p : ServePart) : Bool :=
  match v.req.kind with
  | .atomic _ _ => (v.parts.take k).any (fun x => x.got.isNone)
  | .rred _ => (v.parts.take k).any (fun x => x.got.isNone && x.pa == p.pa)
  | _ => false

/-- The k-th part of the i-th request that performs takes its step: loads of the same bytes together, the lanes of an atomic in ascending
order (R141, R142, R146, R174, R180). Poison refuses the request before it has changed a byte (R185); a lane of an atomic that meets
poison later keeps its bytes and returns poison instead (log 85). -/
def performPart (s : State) (i k : Nat) : State :=
  match s.fab.serving[i]? with
  | none => s
  | some v => match v.parts[k]? with
    | none => s
    | some p =>
      let fresh := v.parts.all (fun x => x.got.isNone)
      let bad := fun (x : ServePart) => x.got.isNone && accPoison s v.req.kind x.pa x.size
      if p.got.isSome ∨ (s.fab.serving.take i).any (sameLane v) ∨ laneWaits v k p ∨ homeStopped s p.pa ∨ (v.req.kind != .store ∧ bankShut s p.pa) then s
      else match (if fresh ∨ v.req.kind = .load then v.parts.find? bad else none) with
      | some b => finishServe (logPoison s 6 b.pa) v (some 0x14)
      | none =>
        let x := if bad p then (logPoison s 6 p.pa, []) else servePart s v.req.kind v.kind p
        let took := fun (y : ServePart) => y.got.isNone && (y.acc == p.acc && y.first == p.first ||
          (v.req.kind == .load && y.pa == p.pa && y.size == p.size))
        let v' := { v with parts := v.parts.map (fun y => if took y then { y with got := some x.2 } else y) }
        if v'.parts.all (fun y => y.got.isSome) then finishServe x.1 v' none
        else { x.1 with fab := { x.1.fab with serving := setAt x.1.fab.serving i v' } }

/-- A request arrives at the hub die, from a peer or by loopback, named by its source and id: it is checked; once it has passed, its
parts perform one at a time, n4 naming the next (R33, R180-R185). -/
def arriveReq (s : State) (r : Request) (k : Nat) : State :=
  match s.fab.serving.findIdx? (fun v => v.req.src == r.src && v.req.id == r.id) with
  | some i => performPart s i k
  | none =>
    let start := fun (r : Request) =>
      match reqCheck s r with
      | (s1, .error c) => answerReq s1 r (some c) []
      | (s1, .ok v) => if v.parts.isEmpty then answerReq s1 r none [] else { s1 with fab := { s1.fab with serving := s1.fab.serving ++ [v] } }
    if r.src = s.fab.peer.toNat then
      match s.fab.out.find? (fun o => o.id == r.id && o.peer == s.fab.peer.toNat) with
      | none => s
      | some o => if s.fab.loopback.any (fun l => l.1 == o.id) ∨ !loopTurn s o then s else start o.req
    else if s.fab.answers.any (fun a => a.1 == r.src && a.2.1 == r.id) then s
    else start r

def execDomainRequestArrive (s : State) : Out := .next (arriveReq s s.inp.req s.inp.n4)

/-! ## Answers at the source (R160, R183, R186, R187) -/

/-- A request with no answer yet. -/
def outReq (s : State) (id : Nat) : Option OutReq := s.fab.out.find? (fun o => o.id == id)

/-- The answer that loopback gave (R33). -/
def loopAnswer (s : State) (id : Nat) : Option (Option Nat × List (List Byte)) :=
  (s.fab.loopback.find? (fun l => l.1 == id)).map Prod.snd

/-- A request leaves the source's books. -/
def dropReq (s : State) (id : Nat) : State :=
  { s with fab := { s.fab with out := s.fab.out.filter (fun o => o.id != id), loopback := s.fab.loopback.filter (fun l => l.1 != id) } }

/-- Change the accesses of an entry that a request carries: each with its number among them. -/
def modReqAccs (s : State) (t ser id : Nat) (f : Nat → Acc → Acc) : State :=
  s.modThread t (fun th => modOp th ser (fun o =>
    let mine := (o.accs.zipIdx.filter (fun x => x.1.req == some id)).map Prod.snd
    { o with accs := o.accs.zipIdx.map (fun x => match mine.idxOf? x.2 with | some k => f k x.1 | none => x.1) }))

/-- The first offset of a request at its peer. -/
def OutReq.off (o : OutReq) : Nat := reqFirst o.req

/-- Bytes with those at some places free, the n-th use of a free value (R163, log 4). -/
def freeAt (n : Nat) (und : List Nat) (bs : List Byte) : List Byte :=
  bs.zipIdx.map (fun b => if und.contains b.2 then Config.freeByte (n * 16 + b.2) else b.1)

/-- Returned data that flits mark poisoned are consumed poison: the error log names the domain address (R131, R188). -/
def logDomPoison (s : State) (o : OutReq) (bad : List Nat) : State :=
  let row := match o.req.kind, o.owner with | .load, .engine .. => 4 | .load, _ => 0 | _, _ => 1
  if bad.isEmpty then s else logPoison s row (domAddr o.peer o.off).toNat

/-- The accesses of a loopback answer that returned poison (log 85). -/
def poisonBack (o : OutReq) (d : List (List Byte)) : List Nat :=
  match o.req.kind with
  | .atomic _ _ => (List.range o.req.accs.length).filter (fun k => (d.getD k []).isEmpty)
  | _ => []

/-- A positive answer with its data; `bad`: the accesses whose data is poisoned. Bytes that R163 leaves undefined are free. -/
def answerOk (s : State) (o : OutReq) (data : List (List Byte)) (bad : List Nat) : State :=
  let s1 := dropReq s o.id
  match o.owner with
  | .thread t ser _ =>
    let ph : APhase := match o.req.kind with | .store => .acked | _ => .taken
    let s2 := modReqAccs s1 t ser o.id (fun k a =>
      { a with ph := ph, got := freeAt (s.free + k) a.und ((data.getD k []).take a.size), poison := bad.contains k })
    finishOp (logDomPoison { s2 with free := s2.free + o.req.accs.length } o bad) t ser
  | .engine q st seq e => match o.req.kind with
    | .load =>
      if bad.isEmpty then
        modCmd s1 q st seq (fun c => if (s1.quill q).halted then c else { c with buf := c.buf.put e ((data.getD 0 []).getD 0 0) })
      else engineHalt s1 q { stream := streamCode st, cls := 0x0E, seq := seq % 65536, index := e, addr := domAddr o.peer o.off, syn := none,
                             pa := some (domAddr o.peer o.off).toNat, tick := s.tick }
    | _ => s1

/-- A refusal (R160, R186, R383, R384): one negative acknowledgement is one refusal (log 27). The frame of an engine whose read a peer
refuses carries the class of the refusal, as for a write (log 86). -/
def answerBad (s : State) (o : OutReq) (cls : Nat) : State :=
  let s1 := dropReq s o.id
  match o.owner with
  | .thread t ser _ =>
    let s2 := remoteFault s1 t o.peer o.off cls
    finishOp (modReqAccs s2 t ser o.id (fun _ a => { a with ph := .refused cls, poison := o.req.kind != .store })) t ser
  | .engine q st seq e => match o.req.kind with
    | .rred _ => (match ((s1.quill q).stream st).cmds.find? (fun c => c.seq == seq) with
      | some c => rredRefused s1 c o.peer o.off cls
      | none => s1)
    | _ => engRefused s1 q st seq e o.peer o.off cls

/-- Stores that one response packet acknowledges together (R183); one whose request has timed out is not among them. -/
def ackReqs (s : State) (ids : List Nat) : Option (List OutReq) :=
  let os := ids.filterMap (outReq s)
  let ok := fun (o : OutReq) => o.gone && (match o.req.kind with | .store => true | .rred _ => true | _ => false) &&
    (os.head?.map (fun x => x.peer)) == some o.peer &&
    (o.peer != s.fab.peer.toNat || (match loopAnswer s o.id with | some (none, _) => true | _ => false))
  if ids.length ≤ 16 ∧ os.all ok then some os else none

/-- A response for a request that timed out is discarded and logged (R187). -/
def lateResponse (s : State) (id : Nat) : State :=
  match s.fab.expired.find? (fun o => o.id == id) with
  | none => s
  | some o =>
    let n := o.port.getD 0
    let st := match s.fab.ports[n]? with | some p => p.state.toNat | none => 0
    let s1 := { s with fab := { s.fab with expired := s.fab.expired.filter (fun x => x.id != id),
                                           loopback := s.fab.loopback.filter (fun l => l.1 != id) } }
    logError s1 4 8 n st (domAddr o.peer o.off).toNat

def execDomainStoreAcknowledge (s : State) : Out :=
  .next (match ackReqs s s.inp.nums with
  | some os => (s.inp.nums.filter (fun id => (outReq s id).isNone)).foldl lateResponse (os.foldl (fun s o => answerOk s o [] []) s)
  | none => s)

/-- The response of a load or an atomic arrives (R183); nums: the accesses whose data the flits mark poisoned (R188). -/
def execDomainResponseReceive (s : State) : Out :=
  .next (match outReq s s.inp.n1 with
  | none => lateResponse s s.inp.n1
  | some o => match o.req.kind with
    | .store => s
    | .rred _ => s
    | _ =>
      if o.peer = s.fab.peer.toNat then
        (match loopAnswer s o.id with
        | some (none, d) => answerOk s o d (poisonBack o d)
        | _ => s)
      else if o.gone then answerOk s o s.inp.parts s.inp.nums else s)

/-- A negative acknowledgement arrives (R184, R186). -/
def execNegativeAcknowledge (s : State) : Out :=
  .next (match outReq s s.inp.n1 with
  | none => lateResponse s s.inp.n1
  | some o =>
    if o.peer = s.fab.peer.toNat then
      (match loopAnswer s o.id with
      | some (some c, _) => answerBad s o c
      | _ => s)
    else if o.gone then answerBad s o (s.inp.n2 % 32) else s)

/-- A request without a response in its time completes as response-timeout (R187). -/
def execResponseTimeout (s : State) : Out :=
  .next (match outReq s s.inp.n1 with
  | none => s
  | some o =>
    if s.tick < o.sentAt + s.fab.domto.toNat * 4096 then s
    else
      let loop := s.fab.loopback.filter (fun l => l.1 == o.id)
      let s1 := answerBad s o 0x16
      { s1 with fab := { s1.fab with expired := s1.fab.expired ++ [o], loopback := s1.fab.loopback ++ loop } })

/-! ## Links (R188-R192) -/

/-- A port. -/
def portOf (s : State) (n : Nat) : Port := s.fab.ports.getD n Port.init

/-! ### The port that carries time (R195, R196) -/

/-- The hops to the time source over a port: none where its link is not up or its partner has no path (R195). -/
def pathOver (f : Fabric) (n : Nat) : Option Nat :=
  match f.ports[n]? with
  | none => none
  | some p =>
    if p.state ≠ 2 then none
    else if p.ppeer = f.tsource then some 0
    else match f.hops.getD n 0 with
    | 0 => none
    | h => some h

/-- The up link whose partner has the fewest hops to the time source; of equals the lowest port (R195). -/
def timePort (f : Fabric) : Option (Nat × Nat) :=
  (List.range 18).foldl (fun b n => match pathOver f n, b with
    | none, _ => b
    | some h, some (k, m) => if h < m then some (n, h) else some (k, m)
    | some h, none => some (n, h)) none

/-- Setting and clearing lost enter the error log (R196). -/
def setLost (s : State) (b : Bool) : State :=
  if s.fab.lost = b then s else logError { s with fab := { s.fab with lost := b } } 7 8 0 (if b then 1 else 0) 0

/-- A port carries time; an exchange that another port opened is dropped. -/
def setTport (s : State) (n : Nat) : State :=
  if s.fab.tport.toNat = n then s else { s with fab := { s.fab with tport := BitVec.ofNat 5 n, exch := none } }

/-- The port that carries time after a change of the links: 0x1F at the time source itself; without a path the counter runs free, no
exchange closes, and domtick keeps its port (R195, R196, log 77). -/
def takeTime (s : State) : State :=
  if s.fab.tsource = s.fab.peer then setLost (setTport s 0x1F) false
  else match timePort s.fab with
  | some (n, _) => setLost (setTport s n) false
  | none => setLost { s with fab := { s.fab with exch := none } } true

/-- Change a port. -/
def modPort (s : State) (n : Nat) (f : Port → Port) : State :=
  { s with fab := { s.fab with ports := setAt s.fab.ports n (f (portOf s n)) } }

/-- A corrected error of a unit: counted, and logged at most once in 4,200,000 ticks (R503 class 1). -/
def corrected (s : State) (kind die unit : Nat) : State :=
  let k := (kind * 16 + die) * 65536 + unit
  let x := (s.log.corr.find k).getD (0, none)
  let set := fun (s : State) (v : Nat × Option Nat) => { s with log := { s.log with corr := s.log.corr.put k v } }
  if (match x.2 with | some t => decide (s.tick < t + 4200000) | none => false) then set s (x.1 + 1, x.2)
  else set (logError s 1 die unit (x.1 + 1) 0) (0, some s.tick)

/-- A link replays flits; nothing else changes (R190, R191). -/
def execLinkReplay (s : State) : Out :=
  .next (if s.inp.n1 < 18 ∧ (portOf s s.inp.n1).state = 2 then
    corrected (modPort s s.inp.n1 (fun p => { p with replays := min 0xFFFF (p.replays + 1) })) 3 8 s.inp.n1
  else s)

/-- Clear a port's bit in every route entry (R192). -/
def unroute (s : State) (n : Nat) : State :=
  s.fab.route.foldl (fun s e => if bitN e.2.toNat n then writeRoute s e.1 (e.2 &&& ~~~(1#64 <<< n)) else s) s

/-- A link is lost (R192); another may then carry time (R195). domlink keeps the speed, the lane map and the partner of the lost link
(log 87). -/
def loseLink (s : State) (n : Nat) : State :=
  let s1 := modPort s n (fun p => { p with state := 3, stopped := [] })
  let mine := s1.fab.out.filter (fun o => o.port == some n)
  let s2 := mine.foldl (fun s o => answerBad s o 0x15) s1
  takeTime (logError (unroute s2 n) 4 8 n 3 0)

def execLinkLost (s : State) : Out :=
  .next (if s.inp.n1 < 18 ∧ (portOf s s.inp.n1).state = 2 then loseLink s s.inp.n1 else s)

/-- The receiver stops a virtual lane of a link (R189). -/
def execVirtualLaneStop (s : State) : Out :=
  .next (if s.inp.n1 < 18 ∧ s.inp.n2 < 4 ∧ !(portOf s s.inp.n1).stopped.contains s.inp.n2 then
    modPort s s.inp.n1 (fun p => { p with stopped := p.stopped ++ [s.inp.n2] })
  else s)

/-- The receiver lets a virtual lane go on: what queued for it leaves (R189). -/
def execVirtualLaneResume (s : State) : Out :=
  .next (if s.inp.n1 < 18 then
    let s1 := modPort s s.inp.n1 (fun p => { p with stopped := p.stopped.filter (· != s.inp.n2) })
    { s1 with fab := { s1.fab with out := s1.fab.out.map (fun o =>
        if o.port = some s.inp.n1 ∧ reqVl o.req.kind = s.inp.n2 then { o with gone := true } else o) } }
  else s)

/-! ## Routes and the window (R46, R177, R179) -/

def execDomrouteWrite (s : State) : Out := .next (if s.inp.n1 < 512 then writeRoute s s.inp.n1 s.inp.v1 else s)

/-- A lane without outstanding requests takes the route in force (R179). -/
def execRouteLaneSwitch (s : State) : Out :=
  .next (if s.fab.out.any (fun o => o.peer == s.inp.n1 && o.lane == s.inp.n2) then s
  else { s with fab := { s.fab with oldRoute := s.fab.oldRoute.filter (fun r => !(r.1 == s.inp.n1 && r.2.1 == s.inp.n2)) } })

def execDomexpWrite (s : State) : Out := .next (writeDomexp s (BitVec.allOnes 64) s.inp.v1)

/-! ## One time (R17, R195, R196) -/

/-- The partner opens an exchange: the packet of its tick t1 arrives, and the reply leaves (R195). -/
def execTickExchange (s : State) : Out :=
  .next (if s.fab.tport = 0x1F ∨ s.fab.lost then s
  else { s with fab := { s.fab with exch := some (s.inp.v1, s.ticks, s.ticks) } })

/-- The correction in ticks (R195); the halved difference is cut toward zero (log 76). -/
def tickLead (t1 t2 t3 t4 : DWord) : Int := Int.tdiv ((t2 - t1).toInt - (t4 - t3).toInt) 2

/-- A correction as a saturating 16-bit value (R196). -/
def lastAdj (d : Int) : BitVec 16 := BitVec.ofInt 16 (max (-32768) (min 32767 d))

/-- A correction: a counter that leads holds still for d ticks, one that lags skips forward at its next tick; it replaces what an earlier
exchange left (R18, R195). -/
def align (s : State) (d : Int) : State :=
  { s with hold := d.toNat, skip := (-d).toNat, fab := { s.fab with lastadj := lastAdj d } }

/-- The partner closes the exchange (R195). -/
def execTickExchangeClose (s : State) : Out :=
  .next (match s.fab.exch with
  | none => s
  | some (t1, t2, t3) =>
    if s.inp.v1 ≠ t1 then s
    else align { s with fab := { s.fab with exch := none } } (tickLead t1 t2 t3 s.inp.v2))

/-- The time source: the lowest-numbered peer among this one, its partners and what the links beyond reach (R195). -/
def sourceOf (f : Fabric) (reach : Nat) : Nat :=
  (f.ports.filter (fun p => p.state == 2)).foldl (fun a p => min a p.ppeer.toNat) (min f.peer.toNat reach)

/-- What the links beyond the partners reach is known: the time source and each partner's hops to it (R195). -/
def linkGraph (s : State) (reach : Nat) (hops : List Nat) : State :=
  takeTime { s with fab := { s.fab with tsource := BitVec.ofNat 9 (sourceOf s.fab reach), hops := hops } }

/-- A path to the time source is lost or regained, or another link comes to carry time (R195, R196). Where the links no longer reach a
source named before, that one stays the source, and the path is lost. -/
def execTimeSourceLost (s : State) : Out :=
  .next (linkGraph s (if s.inp.nums.all (· == 0) then min s.inp.n1 s.fab.tsource.toNat else s.inp.n1) s.inp.nums)

end Sys2Proof.Machine
end

