-- ==== Sys2Proof/Machine/DuctusCore.lean ====
section
/-! DEFINITION. The Ductus instruction set (18): slot words and legality (R460-R463), lines, memory and frame fetches (R465-R468,
R470), vectors (R469, R471, R472), control, scalars and the matrix engine (R473-R475). -/
namespace Sys2Proof.Machine
open Sys2Proof

/-! ## Slot words (R461) -/

def slOp (w : Nat) : Nat := fieldN w 0 6
def slD (w : Nat) : Nat := fieldN w 6 6
def slA (w : Nat) : Nat := fieldN w 12 6
def slB (w : Nat) : Nat := fieldN w 18 6
def slE (w : Nat) : Nat := fieldN w 24 6
def slFl (w : Nat) : Nat := fieldN w 30 2
def slImm20 (w : Nat) : Nat := fieldN w 12 20
def slImm12 (w : Nat) : Nat := fieldN w 18 12
def slTarget (w : Nat) : Nat := fieldN w 18 14

/-- The word of a slot of a bundle (R460). -/
def slotWord (bundle slot : Nat) : Nat := fieldN bundle (32 * slot) 32

/-- A scalar register, a line buffer, an even number. -/
def okC (n : Nat) : Bool := decide (n < 32)
def okL (n : Nat) : Bool := decide (n < 16)
def okEven (n : Nat) : Bool := n % 2 == 0

/-- Legal words of slot 0 (R465-R468). -/
def legalL (w : Nat) : Bool :=
  let d := slD w
  let a := slA w
  let b := slB w
  let e := slE w
  let fl := slFl w
  match slOp w with
  | 0x00 => w == 0
  | 0x01 => fl == 0 && e == 0 && okC b && okL a && okEven d
  | 0x02 => (fl == 0 && e == 0 || fl == 1) && okC b && okEven a && okL d
  | 0x03 => fl == 0 && e == 0 && b == 0 && okC a && okEven a && okL d
  | 0x04 => decide (fl < 3) && e == 0 && okC b && okC a && okEven a && okL d
  | 0x05 => decide (fl < 3) && e == 0 && okC b && okC a && okEven a && okL d
  | 0x06 => e == 0 && b == 0 && okEven a && (decide (2 ≤ fl) || okEven d)
  | 0x07 => fl == 0 && e == 0 && okC b && okL a && d == 0
  | 0x08 => fl == 0 && okC a && okEven a && okC d
  | _ => false

/-- Legal words of slots 1 and 2 (R469, R471, R472). -/
def legalV (w : Nat) : Bool :=
  let d := slD w
  let a := slA w
  let b := slB w
  let e := slE w
  let fl := slFl w
  let rm := decide (e < 5)
  let fmt := decide (fl < 2)
  match slOp w with
  | 0x00 => w == 0
  | 0x01 => fmt && rm
  | 0x02 => fmt && rm
  | 0x03 => fmt && rm
  | 0x04 => fmt && rm
  | 0x05 => fmt && e == 0
  | 0x06 => fmt && e == 0
  | 0x07 => fmt && rm && b == 0
  | 0x08 => fmt && rm && b == 0
  | 0x09 => fl == 0 && decide (e ≤ 10)
  | 0x0A => fmt && decide (e ≤ 4)
  | 0x0B => fl == 0 && decide (e ≤ 5)
  | 0x0C => fl == 0
  | 0x0D => fl == 0 && e == 0 && b == 0 && okC a
  | 0x0E => true
  | 0x0F => fl == 0 && e == 0 && b == 0 && okC a
  | 0x10 => fl == 0 && b == 0 && decide (e / 8 < 6) && decide (e % 8 < 5)
  | 0x11 => fl == 0 && e == 0 && b == 0 && okEven a
  | 0x12 => fl == 0 && e == 0 && okEven d && decide (a ≤ 23) && decide (b ≤ 30)
  | 0x13 => fl == 0 && e == 0 && okEven d && okC b
  | 0x14 => e == 0 && b != d
  | 0x15 => decide (fl < 3) && e == 0 && okEven d && okEven a
  | _ => false

/-- Legal words of slot 3 at a bundle index (R473-R475). -/
def legalS (o w : Nat) : Bool :=
  let d := slD w
  let a := slA w
  let b := slB w
  let e := slE w
  let fl := slFl w
  let bc := okC a && okC d
  match slOp w with
  | 0x00 => w == 0
  | 0x01 => decide (fl < 2) && decide (e ≤ 12) && (fl == 1 || okC b) && okC a && okC d
  | 0x02 => okC d
  | 0x03 => okC d
  | 0x04 => a == 0 && d == 0
  | 0x05 => okC a && d == 0 && decide (o < slTarget w)
  | 0x06 => w == 6
  | 0x08 => bc
  | 0x09 => bc
  | 0x0A => bc
  | 0x0B => bc
  | 0x0C => bc
  | 0x0D => bc
  | 0x10 => decide (fl < 2) && e == 0 && b == 0 && a == 0 && d % 4 == 0 && decide (d ≤ 28)
  | 0x11 => fl == 0 && e == 0 && b == 0 && decide (a < 32) && okC d
  | 0x12 => fl == 0 && e == 0 && b == 0 && a == 0 && okC d
  | 0x13 => fl == 0 && e == 0 && b == 0 && a == 0 && okC d && okEven d
  | 0x14 => fl == 0 && e == 0 && okC b && okC d
  | 0x18 => fl == 0 && e == 0 && okC b && okL a && d == 0
  | 0x19 => decide (fl < 2) && okC e && okC b && okL a && d == 0
  | 0x1A => decide (fl < 3) && e == 0 && okC b && okC a && okL d
  | _ => false

/-! ## Registers that slots write and name (R463) -/

/-- Vector registers that slot 0 writes. -/
def vWritesL (w : Nat) : List Nat :=
  match slOp w with
  | 0x01 => [slD w, slD w + 1]
  | 0x06 => if slFl w < 2 then [slD w, slD w + 1] else [slD w]
  | _ => []

/-- Vector registers that a V instruction writes. -/
def vWritesV (w : Nat) : List Nat :=
  match slOp w with
  | 0x00 => []
  | 0x12 => [slD w, slD w + 1]
  | 0x13 => [slD w, slD w + 1]
  | 0x14 => [slD w, slB w]
  | 0x15 => [slD w, slD w + 1]
  | _ => [slD w]

/-- Scalar registers that slot 3 writes. -/
def cWritesS (w : Nat) : List Nat :=
  match slOp w with
  | 0x01 => [slD w]
  | 0x02 => [slD w]
  | 0x03 => [slD w]
  | 0x10 => [slD w, slD w + 1, slD w + 2, slD w + 3]
  | 0x11 => [slD w]
  | 0x12 => [slD w]
  | 0x13 => [slD w, slD w + 1]
  | 0x14 => [slD w]
  | _ => []

/-- Line buffers that slot 0 writes, and names. -/
def lWritesL (w : Nat) : List Nat := if slOp w = 0x02 ∨ slOp w = 0x03 ∨ slOp w = 0x04 then [slD w] else []
def lNamesL (w : Nat) : List Nat :=
  if slOp w = 0x01 ∨ slOp w = 0x07 then [slA w] else if 2 ≤ slOp w ∧ slOp w ≤ 5 then [slD w] else []

/-- Line buffers that slot 3 writes, and names. -/
def lWritesS (w : Nat) : List Nat := if slOp w = 0x1A then [slD w] else []
def lNamesS (w : Nat) : List Nat := if slOp w = 0x18 ∨ slOp w = 0x19 then [slA w] else lWritesS w

/-- Two lists have no common element. -/
def apart (a b : List Nat) : Bool := a.all (fun x => !b.contains x)

/-- A legal bundle at a bundle index (R463). -/
def legalBundle (o bundle : Nat) : Bool :=
  let w0 := slotWord bundle 0
  let w1 := slotWord bundle 1
  let w2 := slotWord bundle 2
  let w3 := slotWord bundle 3
  legalL w0 && legalV w1 && legalV w2 && legalS o w3 &&
  apart (vWritesL w0) (vWritesV w1) && apart (vWritesL w0) (vWritesV w2) && apart (vWritesV w1) (vWritesV w2) &&
  (slOp w0 != 0x08 || apart [slD w0] (cWritesS w3)) &&
  apart (lWritesL w0) (lNamesS w3) && apart (lWritesS w3) (lNamesL w0)

/-! ## Registers -/

namespace Core

/-- Lane L of a vector register. -/
def dv (x : Core) (r L : Nat) : Nat := (((x.d.find r).getD []).getD L 0).toNat
/-- A scalar register. -/
def cv (x : Core) (r : Nat) : Word := x.c.getD r 0
def cn (x : Core) (r : Nat) : Nat := (x.cv r).toNat
/-- The 64-bit value of a pair. -/
def cpair (x : Core) (r : Nat) : Nat := x.cn r + x.cn (r + 1) * 2 ^ 32
/-- A pixel of a line buffer. -/
def px (x : Core) (l p : Nat) : Nat := ((((x.lb.find l).getD []).find p).getD 0).toNat
/-- Write a vector register. -/
def putD (x : Core) (r : Nat) (f : Nat → Nat) : Core :=
  { x with d := x.d.put r ((List.range 32).map (fun L => BitVec.ofNat 32 (f L))) }
/-- Write a vector pair from 64-bit values. -/
def putPair (x : Core) (r : Nat) (f : Nat → Nat) : Core := (x.putD r f).putD (r + 1) (fun L => f L / 2 ^ 32)
/-- Write a scalar register. -/
def putC (x : Core) (r : Nat) (v : Word) : Core := { x with c := setAt x.c r v }
/-- Write pixels of a line buffer. -/
def putPx (x : Core) (l : Nat) (ps : List (Nat × Nat)) : Core :=
  { x with lb := x.lb.put l (ps.foldl (fun m p => if p.1 < 8192 then FMap.put m p.1 (BitVec.ofNat 64 p.2) else m)
      ((x.lb.find l).getD [])) }
/-- Write the first pixels of a line buffer. -/
def fillPx (x : Core) (l : Nat) (ps : List Nat) : Core :=
  { x with lb := x.lb.put l (((ps.zipIdx).map (fun p => (p.2, BitVec.ofNat 64 p.1))) ++
      ((x.lb.find l).getD []).filter (fun e => decide (ps.length ≤ e.1))) }

end Core

/-! ## Arithmetic -/

/-- A sum of exact terms rounded once under RNE; a NaN among the operands, in their order, is the result (R235, R237). -/
def sumTerms (dst : Fmt) (ops : List (Fmt × Nat)) (ts : List (Option FV)) : Nat :=
  match ops.find? (fun o => (unpack o.1 o.2).isNan) with
  | some o => nanFrom o.1 dst o.2
  | none =>
    if ts.any Option.isNone then dst.nanBits
    else match sumFV .rne (ts.filterMap id) with
    | some v => (roundFV dst .rne v).bits
    | none => dst.nanBits

/-- Division rounded to nearest, ties to even. -/
def rneDiv (n d : Nat) : Nat := if 2 * (n % d) > d ∨ (2 * (n % d) = d ∧ n / d % 2 = 1) then n / d + 1 else n / d

/-- Q(c) of an F16 pattern (R468). -/
def toTen (c : Nat) : Nat :=
  match unpack Fmt.f16 c with
  | .nan _ _ => 0
  | .inf n => if n then 0 else 1023
  | .fin n m e =>
    let v := m * 2 ^ (e + 24).toNat
    if n then 0 else if 2 ^ 24 ≤ v then 1023 else rneDiv (v * 1023) (2 ^ 24)

/-- A pixel of four F16 as three 10-bit channels (R455, R468). -/
def packTen (p : Nat) : Nat := toTen (fieldN p 0 16) + toTen (fieldN p 16 16) * 2 ^ 10 + toTen (fieldN p 32 16) * 2 ^ 20

/-- The integer operations of iop and cop, and the two float ones of cop (R469, R473). -/
def iopOf (f : Nat) (a b : Word) : Word :=
  let n := fieldN b.toNat 0 8
  match f with
  | 0 => a + b
  | 1 => a - b
  | 2 => a * b
  | 3 => a &&& b
  | 4 => a ||| b
  | 5 => a ^^^ b
  | 6 => a <<< n
  | 7 => a >>> n
  | 8 => a.sshiftRight n
  | 9 => if a.slt b then a else b
  | 10 => if a.slt b then b else a
  | 11 => BitVec.ofNat 32 (fAdd Fmt.f32 .rne false a.toNat b.toNat).bits
  | _ => BitVec.ofNat 32 (fMul Fmt.f32 .rne false a.toNat b.toNat).bits

/-- icmp (R469). -/
def icmpOf (f : Nat) (a b : Word) : Bool :=
  match f with
  | 0 => a == b
  | 1 => a != b
  | 2 => a.slt b
  | 3 => !b.slt a
  | 4 => a.ult b
  | _ => !b.ult a

/-- Apply an operation to an F32 lane, or to its two F16 elements (R469). -/
def elems (fl : Nat) (g : Fmt → Nat → Nat → Nat → Nat) (a b c : Nat) : Nat :=
  if fl = 0 then g Fmt.f32 a b c
  else g Fmt.f16 (a % 65536) (b % 65536) (c % 65536) + 65536 * g Fmt.f16 (a / 65536) (b / 65536) (c / 65536)

/-- The float operations 0x01-0x08 (R469). -/
def flopOf (op : Nat) (rm : RM) (f : Fmt) (a b d : Nat) : Nat :=
  match op with
  | 0x01 => (fAdd f rm false a b).bits
  | 0x02 => (fSub f rm false a b).bits
  | 0x03 => (fMul f rm false a b).bits
  | 0x04 => (fFma f rm false false false a b d).bits
  | 0x05 => (fMinMax f false a b).bits
  | 0x06 => (fMinMax f true a b).bits
  | 0x07 => (fRcp f rm false a).bits
  | _ => (fRsq f rm a).bits

/-- fcmp (R469): all ones of an element, or zero. -/
def fcmpOf (e : Nat) (f : Fmt) (a b _d : Nat) : Nat :=
  if (fCmp f (if e = 4 then 6 else e) a b).1 then 2 ^ f.bitsN - 1 else 0

/-- cvt (R469): kind, rounding, operand, old destination. -/
def cvtOf (kind : Nat) (rm : RM) (a old : Nat) : Nat :=
  match kind with
  | 0 => old / 65536 * 65536 + (fToF Fmt.f32 Fmt.f16 rm false a).bits
  | 1 => old % 65536 + 65536 * (fToF Fmt.f32 Fmt.f16 rm false a).bits
  | 2 => (fToF Fmt.f16 Fmt.f32 .rne false (a % 65536)).bits
  | 3 => (fToF Fmt.f16 Fmt.f32 .rne false (a / 65536)).bits
  | 4 => (intToF Fmt.f32 rm false (BitVec.ofNat 32 a).toInt).bits
  | _ => wrapN 32 (fToInt Fmt.f32 rm true 32 a).1

/-- A point under a homography (R457, R471): the quotients u/w and v/w; none where w ≤ 0 or u, v or w is NaN. -/
def homPoint (H : List Nat) (X Y : FV) : Option (Nat × Nat) :=
  let row := fun r =>
    let a := fun i => unpack Fmt.f32 (H.getD (3 * r + i) 0)
    sumTerms Fmt.f32 [(Fmt.f32, H.getD (3 * r) 0), (Fmt.f32, H.getD (3 * r + 1) 0), (Fmt.f32, H.getD (3 * r + 2) 0)]
      [mulFV (a 0) X, mulFV (a 1) Y, some (a 2)]
  let u := row 0
  let v := row 1
  let w := row 2
  let f := unpack Fmt.f32 w
  if (unpack Fmt.f32 u).isNan || (unpack Fmt.f32 v).isNan || f.isNan || f.neg || f.isZero then none
  else some ((fDiv Fmt.f32 .rne false u w).bits, (fDiv Fmt.f32 .rne false v w).bits)

/-- n + 0.5 (R457, R471). -/
def halfPast (n : Int) : FV := .fin (decide (2 * n + 1 < 0)) (2 * n + 1).natAbs (-1)

/-- blend (R472): mode, source and destination pixels of four F16. -/
def blendOf (mode s p : Nat) : Nat :=
  let h := fun (x k : Nat) => fieldN x (16 * k) 16
  let al := h s 3
  let f := unpack Fmt.f16
  let om := sumFV .rne [FV.ofInt 1, (f al).negate]
  let ch := fun (k : Nat) =>
    let c := h s k
    let q := h p k
    let keep := om.bind (fun o => mulFV o (f q))
    match mode with
    | 0 => sumTerms Fmt.f16 [(Fmt.f16, al), (Fmt.f16, c), (Fmt.f16, q)] [mulFV (f al) (f c), keep]
    | 1 => sumTerms Fmt.f16 [(Fmt.f16, c), (Fmt.f16, q)] [some (f c), some (f q)]
    | _ => sumTerms Fmt.f16 [(Fmt.f16, c), (Fmt.f16, al), (Fmt.f16, q)] [some (f c), keep]
  ch 0 + ch 1 * 2 ^ 16 + ch 2 * 2 ^ 32 + ch 3 * 2 ^ 48

/-! ## Slots 1 and 2 (R469, R471, R472) -/

/-- Execute a V instruction: operands from the bundle's start, results into another state of the core. -/
def slotV (x : Core) (w : Nat) (y : Core) : Core :=
  let d := slD w
  let a := slA w
  let b := slB w
  let e := slE w
  let fl := slFl w
  let A := fun L => x.dv a L
  let B := fun L => x.dv b L
  let rm := RM.ofCode (BitVec.ofNat 3 e)
  let wd := fun n => BitVec.ofNat 32 n
  let op := slOp w
  if op = 0 then y
  else if op ≤ 0x08 then y.putD d (fun L => elems fl (flopOf op rm) (A L) (B L) (x.dv d L))
  else match op with
  | 0x09 => y.putD d (fun L => (iopOf e (wd (A L)) (wd (B L))).toNat)
  | 0x0A => y.putD d (fun L => elems fl (fcmpOf e) (A L) (B L) 0)
  | 0x0B => y.putD d (fun L => if icmpOf e (wd (A L)) (wd (B L)) then 2 ^ 32 - 1 else 0)
  | 0x0C => y.putD d (fun L => if x.dv e L ≠ 0 then A L else B L)
  | 0x0D => y.putD d (fun _ => x.cn a)
  | 0x0E => y.putD d (fun _ => wrapN 32 (sext (slImm20 w) 20))
  | 0x0F => y.putD d (fun L => x.cn a + L)
  | 0x10 => y.putD d (fun L => cvtOf (e / 8) (RM.ofCode (BitVec.ofNat 3 (e % 8))) (A L) (x.dv d L))
  | 0x11 => y.putD d (fun L => packTen (A L + x.dv (a + 1) L * 2 ^ 32))
  | 0x12 =>
    let H := (List.range 9).map (fun i => x.cn (a + i))
    let p := fun (L : Nat) => (homPoint H (halfPast ((x.cv b).toInt + L)) (halfPast (x.cv (b + 1)).toInt)).getD (0x7FC0_0000, 0x7FC0_0000)
    (y.putD d (fun L => (p L).1)).putD (d + 1) (fun L => (p L).2)
  | 0x13 =>
    let t := x.cn b
    let step := fun (o m : Nat) => sumTerms Fmt.f32 [(Fmt.f32, o), (Fmt.f32, t), (Fmt.f16, m)]
      [some (unpack Fmt.f32 o), mulFV (unpack Fmt.f32 t) (unpack Fmt.f16 m)]
    (y.putD d (fun L => step (x.dv d L) (A L % 65536))).putD (d + 1) (fun L => step (x.dv (d + 1) L) (A L / 65536))
  | 0x14 =>
    let hit := fun L => (fCmp Fmt.f32 (fl + 2) (A L) (x.dv d L)).1
    (y.putD d (fun L => if hit L then A L else x.dv d L)).putD b (fun L => if hit L then 2 ^ 32 - 1 else 0)
  | _ =>
    let pair := fun (r L : Nat) => x.dv r L + x.dv (r + 1) L * 2 ^ 32
    y.putPair d (fun L => if B L = 0 then pair d L else blendOf fl (pair a L) (pair d L))

/-! ## Memory (R459, R466, R470) -/

/-- The context of a head's accesses: its register state and the band's frame. -/
structure DuctCtx where
  vmid : Nat
  asid : Nat
  frame : Option (Word × Nat)

/-- Where a byte of a line core's access leads; cause 3 for what R459 refuses. A home on a stopped die answers no access (R483), and
a bank in its post-package-repair window no load (R123). -/
def ductPlace (s : State) (c : DuctCtx) (k : AK) (va : Nat) : State × Except Nat Nat :=
  if fieldN va 55 9 ≠ 0 then (s, .error 3)
  else match hubTranslate s c.vmid c.asid va false with
  | (s1, .error _) => (s1, .error 3)
  | (s1, .ok (l, pa)) =>
    if (permBad k .user l).isSome ∨ l.kind = 4 ∨ (k = .store ∧ l.kind = 1) then (s1, .error 3)
    else (hangIf s1 (homeStopped s1 pa || (k == .load && bankShut s1 pa)), .ok pa)

/-- Two reads of a bundle: the first cause of the list of R454 that either meets. Poison that is met first enters the log; the second
read is then made for its faults only. -/
def bothRead {α β γ : Type} (x : State × Except Nat α) (y : State → State × Except Nat β) (f : α → β → γ) : State × Except Nat γ :=
  match x with
  | (s1, .ok a) => (match y s1 with
    | (s2, .ok b) => (s2, .ok (f a b))
    | (s2, .error e) => (s2, .error e))
  | (s1, .error e) => if e = 4 then
      (let r := y s1
       ({ s1 with hung := r.1.hung, xl := r.1.xl }, .error (match r.2 with | .error e2 => min e e2 | .ok _ => e)))
    else (s1, .error e)

/-- The homes of consecutive bytes. -/
def ductPlaces (s : State) (c : DuctCtx) (va : Nat) : Nat → State × Except Nat (List Nat)
  | 0 => (s, .ok [])
  | n + 1 => bothRead (ductPlace s c .load va) (fun s => ductPlaces s c (va + 1) n) (fun a r => a :: r)

/-- Read bytes at their homes; cause 4 where a byte is poisoned (R131). -/
def ductRead (s : State) (c : DuctCtx) (va n : Nat) : State × Except Nat (List Byte) :=
  match ductPlaces s c va n with
  | (s1, .error e) => (s1, .error e)
  | (s1, .ok ps) => match ps.find? (fun pa => poisoned s1 pa 1) with
    | some pa => (logPoison s1 7 pa, .error 4)
    | none => (s1, .ok (ps.map s1.byte))

/-- Read pixels of a size. -/
def ductPixels (s : State) (c : DuctCtx) (va size : Nat) : Nat → State × Except Nat (List Nat)
  | 0 => (s, .ok [])
  | n + 1 => bothRead (ductRead s c va size) (fun s => ductPixels s c (va + size) size n) (fun bs r => ofBytes bs :: r)

/-- The poison of a 64-byte unit ends with the last pixel of an mst that stores the unit whole (R130, R470): the mst's address, the
pixel's size, its place and its home. -/
def ductClear (s : State) (va size i pa : Nat) : State :=
  if (va + size * (i + 1)) % 64 = 0 ∧ 64 ≤ size * (i + 1) then clearPoison s (pa / 64 * 64) 64 else s

/-- Pixel i of an mst performs at its home (R470). -/
def ductStore (s : State) (c : DuctCtx) (va size i pixel : Nat) : State × Option Nat :=
  match ductPlace s c .store (va + size * i) with
  | (s1, .error e) => (s1, some e)
  | (s1, .ok pa) => (ductClear (storeHome s1 pa (toBytes size pixel)) va size i pa, none)

/-- A plane of the band's frame (R450): address, width, height, bytes of a texel. -/
structure Plane where
  va : Nat
  w : Nat
  h : Nat
  size : Nat

/-- The plane that a kind of ftch reads (R467): descriptor bytes, kind. -/
def planeOf (desc : List Byte) (kind : Nat) : Plane :=
  let q := fun o n => ofBytes ((desc.drop o).take n)
  { va := q (if kind < 2 then 0 else 8 * (kind - 1)) 8, w := fieldN (q 24 4) 0 13 + 1, h := fieldN (q 24 4) 16 13 + 1,
    size := if kind < 2 then 8 else 4 }

/-- The virtual address of a texel, clamped to the plane. -/
def Plane.texel (p : Plane) (i j : Int) : Nat :=
  let cl := fun (v : Int) (n : Nat) => (min (max v 0) ((n : Int) - 1)).toNat
  p.va + cl j p.h * ((p.size * p.w + 127) / 128 * 128) + cl i p.w * p.size

/-- Texels read in order. -/
def ductTexels (s : State) (c : DuctCtx) (p : Plane) : List (Int × Int) → State × Except Nat (List Nat)
  | [] => (s, .ok [])
  | t :: r => bothRead (ductRead s c (p.texel t.1 t.2) p.size) (fun s => ductTexels s c p r) (fun bs l => ofBytes bs :: l)

/-- Bilinear filtering of one F16 channel of four texels, weights in 1/256 (R394, R467). -/
def bilinearHalf (al be : Nat) (ts : List Nat) (k : Nat) : Nat :=
  let t := fun i => fieldN (ts.getD i 0) (16 * k) 16
  let term := fun (n i : Nat) => mulFV (.fin false n (-16)) (unpack Fmt.f16 (t i))
  sumTerms Fmt.f16 [(Fmt.f16, t 0), (Fmt.f16, t 1), (Fmt.f16, t 2), (Fmt.f16, t 3)]
    [term ((256 - al) * (256 - be)) 0, term (al * (256 - be)) 1, term ((256 - al) * be) 2, term (al * be) 3]

/-- One lane of ftch (R467). -/
def ftchLane (s : State) (c : DuctCtx) (p : Plane) (kind sx sy : Nat) : State × Except Nat Nat :=
  let u := unpack Fmt.f32 sx
  let v := unpack Fmt.f32 sy
  if u.isNan || v.isNan then (s, .ok 0)
  else if kind = 0 then
    let i := bilinearAxis (fixCoord u)
    let j := bilinearAxis (fixCoord v)
    match ductTexels s c p [(i.1, j.1), (i.1 + 1, j.1), (i.1, j.1 + 1), (i.1 + 1, j.1 + 1)] with
    | (s1, .ok ts) =>
      let ch := bilinearHalf i.2 j.2 ts
      (s1, .ok (ch 0 + ch 1 * 2 ^ 16 + ch 2 * 2 ^ 32 + ch 3 * 2 ^ 48))
    | (s1, .error e) => (s1, .error e)
  else match ductTexels s c p [(floorFV (fixCoord u), floorFV (fixCoord v))] with
    | (s1, .ok ts) => (s1, .ok (ts.getD 0 0))
    | (s1, .error e) => (s1, .error e)

/-- The lanes of ftch, from a lane on. -/
def ftchLanes (s : State) (x : Core) (c : DuctCtx) (p : Plane) (kind a : Nat) : Nat → Nat → State × Except Nat (List Nat)
  | 0, _ => (s, .ok [])
  | n + 1, L =>
    bothRead (ftchLane s c p kind (x.dv a L) (x.dv (a + 1) L)) (fun s => ftchLanes s x c p kind a n (L + 1)) (fun v r => v :: r)

/-- The descriptor of a frame (R450). -/
def frameDesc (s : State) (f : Word × Nat) : List Byte := s.bytes (frameBase + f.2) 128

/-! ## Slot 0 (R465-R468) -/

/-- What slot 0 does besides writing registers: a delivered line with its pixels. -/
abbrev Emit := Option (Nat × Nat)

/-- The store that slot 0 has still to perform: the address of its mst, the pixel's size, the next pixel's place and value (R466,
R470). -/
def mstNext (x : Core) (w : Nat) : Option (Nat × Nat × Nat × Nat) :=
  let size := 8 / 2 ^ slFl w
  let va := x.cpair (slA w)
  let n := x.cn (slB w)
  if slOp w = 5 ∧ n ≤ 8192 ∧ va % size = 0 ∧ x.stored < n then some (va, size, x.stored, x.px (slD w) x.stored) else none

/-- Execute slot 0, the pixels of an mst already stored: operands from the bundle's start; a cause, or what it writes into the core
and the line it delivers (its number and its line buffer). -/
def slotL (s : State) (x : Core) (c : DuctCtx) (w : Nat) : State × Except Nat ((Core → Core) × Emit) :=
  let d := slD w
  let a := slA w
  let b := slB w
  let fl := slFl w
  let size := 8 / 2 ^ fl
  match slOp w with
  | 0x00 => (s, .ok (id, none))
  | 0x01 => (s, .ok (fun y => y.putPair d (fun L => x.px a (x.cn b + L)), none))
  | 0x02 =>
    let ps := ((List.range 32).filter (fun L => fl == 0 || x.dv (slE w) L != 0)).map
      (fun L => (x.cn b + L, x.dv a L + x.dv (a + 1) L * 2 ^ 32))
    (s, .ok (fun y => y.putPx d ps, none))
  | 0x03 => (s, .ok (fun y => y.fillPx d (List.replicate 8192 (x.cpair a)), none))
  | 0x04 =>
    if x.cn b = 0 ∨ x.cn b > 8192 ∨ x.cpair a % size ≠ 0 then (s, .error 3)
    else match ductPixels s c (x.cpair a) size (x.cn b) with
    | (s1, .ok ps) => (s1, .ok (fun y => y.fillPx d ps, none))
    | (s1, .error e) => (s1, .error e)
  | 0x05 =>
    if x.cn b = 0 ∨ x.cn b > 8192 ∨ x.cpair a % size ≠ 0 then (s, .error 3) else (s, .ok (id, none))
  | 0x06 =>
    let put := fun (vs : List Nat) (y : Core) =>
      if fl < 2 then y.putPair d (fun L => vs.getD L 0) else y.putD d (fun L => vs.getD L 0)
    match c.frame with
    | none => (s, .ok (put [], none))
    | some f => match ftchLanes s x c (planeOf (frameDesc s f) fl) fl a 32 0 with
      | (s1, .ok vs) => (s1, .ok (put vs, none))
      | (s1, .error e) => (s1, .error e)
  | 0x07 => if x.cn b ≥ 8 then (s, .error 3) else (s, .ok (id, some (x.cn b, a)))
  | _ =>
    let va := wrapN 64 ((x.cpair a : Int) + sext (slImm12 w) 12)
    if va % 4 ≠ 0 then (s, .error 3)
    else match ductRead s c va 4 with
    | (s1, .ok bs) => (s1, .ok (fun y => y.putC d (BitVec.ofNat 32 (ofBytes bs)), none))
    | (s1, .error e) => (s1, .error e)

/-! ## Slot 3 (R473-R475) -/

/-- Where a bundle goes next. -/
inductive Nxt where
  | seq
  | goto (t : Nat)
  | loop (n t : Nat)
  | halt
deriving DecidableEq, Repr

/-- What slot 3 reads besides the core: tick, the tick at the bundle's start, deadline, latched pose, source pose, frame words. -/
structure CtlIn where
  tick : Nat
  since : Nat
  deadline : Nat
  pose : List Byte
  spose : List Byte
  desc : List Byte

/-- The condition of a bc (R473). -/
def bcCond (op : Nat) (a g : Word) : Bool :=
  match op with
  | 0x08 => a == g
  | 0x09 => a != g
  | 0x0A => a.slt g
  | 0x0B => !a.slt g
  | 0x0C => a.ult g
  | _ => !a.ult g

/-- The operand b of cop (R473). -/
def copB (x : Core) (w : Nat) : Word :=
  if slFl w = 0 then x.cv (slB w)
  else if 6 ≤ slE w ∧ slE w ≤ 8 then BitVec.ofNat 32 (slB w)
  else BitVec.ofInt 32 (sext (slB w) 6)

/-- A saturated S32 (R473). -/
def satS32 (v : Int) : Word := BitVec.ofInt 32 (max (-(2 ^ 31)) (min v (2 ^ 31 - 1)))

/-- Element j of a pixel. -/
def elem16 (p j : Nat) : Nat := fieldN p (16 * j) 16

/-- The weight tile that mtld loads (R475). -/
def mtldTile (x : Core) (l p : Nat) : FMap (List (BitVec 16)) :=
  (List.range 64).map (fun k => (k, (List.range 64).map (fun n =>
    BitVec.ofNat 16 (elem16 (x.px l (p + (64 * k + n) / 4)) ((64 * k + n) % 4)))))

/-- A row of mmul (R475). -/
def mmulRow (x : Core) (l p : Nat) (z : Bool) (r : Nat) : List Word :=
  let xs := (List.range 64).map (fun k => unpack Fmt.bf16 (elem16 (x.px l (p + 16 * r + k / 4)) (k % 4)))
  (List.range 64).map (fun n =>
    let ws := (List.range 64).map (fun k => unpack Fmt.bf16 (((x.W.find k).getD []).getD n 0).toNat)
    let a := if z then 0x8000_0000 else (((x.acc.find r).getD []).getD n 0).toNat
    BitVec.ofNat 32 (matrixSum a (xs.zip ws)).bits)

/-- The pixels that mtst stores (R475). -/
def mtstPixels (x : Core) (fl p rows : Nat) : List (Nat × Nat) :=
  let v := fun r n => (((x.acc.find r).getD []).getD n 0).toNat
  let cv := fun (r n : Nat) => (fToF Fmt.f32 (if fl = 1 then Fmt.bf16 else Fmt.f16) .rne false (v r n)).bits
  (List.range rows).flatMap (fun r =>
    if fl = 0 then (List.range 32).map (fun i => (p + 32 * r + i, v r (2 * i) + v r (2 * i + 1) * 2 ^ 32))
    else (List.range 16).map (fun i => (p + 16 * r + i,
      cv r (4 * i) + cv r (4 * i + 1) * 2 ^ 16 + cv r (4 * i + 2) * 2 ^ 32 + cv r (4 * i + 3) * 2 ^ 48)))

/-- A row count and a pixel range that R475 admits. -/
def rangeOk (rows p per : Nat) : Bool := decide (1 ≤ rows) && decide (rows ≤ 128) && decide (p + per * rows ≤ 8192)

/-- Execute slot 3: operands from the bundle's start, results into another state of the core; a cause, or the core and where
it goes. -/
def slotS (x : Core) (i : CtlIn) (w : Nat) (y : Core) : Except Nat (Core × Nxt) :=
  let d := slD w
  let a := slA w
  let b := slB w
  let e := slE w
  let fl := slFl w
  let op := slOp w
  if 0x08 ≤ op ∧ op ≤ 0x0D then .ok (y, if bcCond op (x.cv a) (x.cv d) then .goto (slTarget w) else .seq)
  else match op with
  | 0x00 => .ok (y, .seq)
  | 0x01 => .ok (y.putC d (iopOf e (x.cv a) (copB x w)), .seq)
  | 0x02 => .ok (y.putC d (BitVec.ofInt 32 (sext (slImm20 w) 20)), .seq)
  | 0x03 => .ok (y.putC d (BitVec.ofNat 32 (slImm20 w * 2 ^ 12)), .seq)
  | 0x04 => .ok (y, .goto (slTarget w))
  | 0x05 => if x.cn a ≠ 0 ∧ x.loops.length ≥ 4 then .error 3 else .ok (y, .loop (x.cn a) (slTarget w))
  | 0x06 => .ok (y, .halt)
  | 0x10 =>
    let p := if fl = 0 then i.pose else i.spose
    .ok ((List.range 4).foldl (fun z k => z.putC (d + k) (BitVec.ofNat 32 (ofBytes ((p.drop (4 * k)).take 4)))) y, .seq)
  | 0x11 => .ok (y.putC d (BitVec.ofNat 32 (ofBytes ((i.desc.drop (4 * a)).take 4))), .seq)
  | 0x12 => .ok (y.putC d (satS32 ((i.deadline : Int) - i.since)), .seq)
  | 0x13 => .ok ((y.putC d (BitVec.ofNat 32 i.tick)).putC (d + 1) (BitVec.ofNat 32 (i.tick / 2 ^ 32)), .seq)
  | 0x14 => .ok (y.putC d (BitVec.ofNat 32 (x.dv a (x.cn b % 32))), .seq)
  | 0x18 =>
    if x.cn b + 1024 > 8192 then .error 3
    else .ok ({ y with W := mtldTile x a (x.cn b) }, .seq)
  | 0x19 =>
    if !rangeOk (x.cn e) (x.cn b) 16 then .error 3
    else .ok ({ y with acc := (List.range (x.cn e)).foldl (fun m r => FMap.put m r (mmulRow x a (x.cn b) (fl == 1) r)) y.acc }, .seq)
  | _ =>
    if !rangeOk (x.cn b) (x.cn a) (if fl = 0 then 32 else 16) then .error 3
    else .ok (y.putPx d (mtstPixels x fl (x.cn a) (x.cn b)), .seq)

/-- The close check on bundle indices (R474). -/
def ductClose (loops : List (Nat × Nat × Nat)) (e : Nat) : List (Nat × Nat × Nat) × Nat :=
  match loops with
  | [] => ([], e + 1)
  | l :: r =>
    if l.2.1 = e then (if 1 < l.2.2 then ((l.1, l.2.1, l.2.2 - 1) :: r, l.1) else ductClose r e)
    else (l :: r, e + 1)

/-- The core after a bundle at index o (R464, R473, R474). -/
def ductNext (y : Core) (o : Nat) (n : Nxt) : Core :=
  let close := fun e => let c := ductClose y.loops e; { y with loops := c.1, pc := c.2 }
  match n with
  | .seq => close o
  | .goto t => { y with loops := y.loops.filter (fun l => decide (l.1 ≤ t) && decide (t ≤ l.2.1)), pc := t }
  | .loop 0 t => close t
  | .loop k t => { y with loops := (o + 1, t, k) :: y.loops, pc := o + 1 }
  | .halt => { y with pc := o + 1 }

end Sys2Proof.Machine
end

