-- ==== Sys2Proof/Machine/Ductus.lean ====
section
/-! DEFINITION. The Ductus presentation machine (17): head registers, code memory, links, band starts, dispatch, bundles,
emission, deadlines, reprojection, and scan-out. -/
namespace Sys2Proof.Machine
open Sys2Proof

/-! ## Registers, code memory, links (R443, R446, R447, R534) -/

def execHdctlEnable (s : State) : Out :=
  .next (if s.inp.n1 < 4 then writeHead s s.inp.n1 0 (BitVec.allOnes 64) (s.inp.v1 ||| 0x8000_0000_0000_0000#64) else s)
def execHdctlDisable (s : State) : Out := .next (if s.inp.n1 < 4 then writeHead s s.inp.n1 0 0x8000_0000_0000_0000#64 0 else s)
def execDuctusCodeWrite (s : State) : Out := .next (writeCode s true s.inp.n1 s.inp.data)

/-- The bits of hdlink (R446). -/
def linkFields : DWord := 0x8000_FFFF_0000_017F#64

/-- A training result of a head's link (R534). -/
def headLink (s : State) (h : Nat) (link : DWord) : State :=
  let v := link &&& linkFields
  logError (setHead s h { headOf s h with link := v }) 13 8 h (v.toNat % 2 ^ 32) 0

def execHotplug (s : State) : Out := .next (if s.inp.n1 < 4 then headLink s s.inp.n1 s.inp.v1 else s)
def execDisplayportLinkLost (s : State) : Out :=
  .next (if s.inp.n1 < 4 ∧ (headOf s s.inp.n1).en then headLink s s.inp.n1 s.inp.v1 else s)

/-! ## Buffers (R455) -/

/-- The address of a history buffer of a head. -/
def histAddr (x : Head) (buf : Nat) : Nat := x.histBase + buf * x.histSize

/-- The address of the ring slot of a line: lines follow each other round the ring's lat + 16 slots (R446, R447, log 9). -/
def ringAddr (x : Head) (n y : Nat) : Nat :=
  let line := n * (if Config.ringBlank then x.vt else x.va) + y
  frameBase + x.ringOff + (Config.ringStart x.lat x.vt x.va + line) % (x.lat + 16) * x.pitch

/-- Write a line into the output ring. -/
def ringLine (s : State) (x : Head) (n y : Nat) (px : List Nat) : State := storeHome s (ringAddr x n y) (px.flatMap (toBytes 4))

/-- Band lines that are shown. -/
def shownLines (x : Head) (b : Nat) : List Nat := ((List.range 8).map (fun k => 8 * b + k)).filter (fun y => decide (y < x.va))

/-- The pose that the source stores for a band (R455); its bytes are free where they are poisoned (log 36). -/
def sourcePose (s : State) (x : Head) (b : Nat) : Option (List Byte) :=
  match x.histSrc with
  | none => none
  | some r => some (s.bytes (histAddr x r.1 + x.pitch * x.va + 16 * b) 16)

/-- Whether that pose is poisoned. -/
def sourcePosePoisoned (s : State) (x : Head) (b : Nat) : Option Nat :=
  match x.histSrc with
  | none => none
  | some r => let a := histAddr x r.1 + x.pitch * x.va + 16 * b; if poisoned s a 16 then some a else none

/-- Change a band of a head. -/
def modBand (s : State) (h n b : Nat) (f : Band → Band) : State :=
  let x := headOf s h
  setHead s h { x with bands := x.bands.map (fun e => if e.n = n ∧ e.b = b then f e else e) }

/-- A band of a head. -/
def bandOf (s : State) (h n b : Nat) : Option Band := (headOf s h).bands.find? (fun e => e.n == n && e.b == b)

/-- Remove a band. -/
def dropBand (s : State) (h n b : Nat) : State :=
  let x := headOf s h
  setHead s h { x with bands := x.bands.filter (fun e => !(e.n == n && e.b == b)) }

/-- Change a refresh. -/
def modRef (s : State) (h n : Nat) (f : Refresh → Refresh) : State :=
  let x := headOf s h
  setHead s h { x with refs := x.refs.map (fun r => if r.n = n then f r else r) }

/-! ## Band start (R449) -/

/-- The pose latch: among the slots with u32(T - ts) below 2^31 the smallest, ties to the lower slot (R449). -/
def poseLatch (s : State) (h T : Nat) (old : List Byte) : List Byte :=
  let slots := (List.range 8).map (fun i => s.bytes (frameMailbox + 0x800 + 0x80 * h + 16 * i) 16)
  let age := fun (p : List Byte) => wrapN 32 ((T : Int) - ofBytes (p.take 4))
  match slots.foldl (fun (best : Option (List Byte)) p =>
      if age p < 2 ^ 31 then (match best with
        | some q => if age p < age q then some p else best
        | none => some p) else best) none with
  | some p => p
  | none => old

/-- The destination buffer of a refresh (R455). -/
def destBuffer (x : Head) : Nat :=
  ((List.range 3).find? (fun i => (match x.histSrc with | some r => r.1 != i | none => true) && x.lastDst != some i)).getD 0

/-- The reserved bits of a mailbox word (R444). -/
def mailReserved (w : Nat) : Bool := fieldN w 26 6 != 0 || fieldN w 1 6 != 0

/-- The next band of a head starts (R449). -/
def startBand (s : State) (h : Nat) : State :=
  let x := headOf s h
  let n := x.nextBand / x.bandCount
  let b := x.nextBand % x.bandCount
  let T := (x.lineTick n ((8 * b : Nat) - x.lat)).toNat
  let dst := destBuffer x
  let x1 : Head := if b = 0 then { x with refs := x.refs.filter (fun r => x.bands.any (fun e => e.n == r.n && e.st != .emitted)) ++ [{ n := n, dst := dst, emitted := 0, fell := false }], lastDst := some dst }
    else x
  let pose := poseLatch s h (T % 2 ^ 32) x.pose
  let w := (s.dword (frameMailbox + 0x100 * h)).toNat
  let seq := BitVec.ofNat 32 (w / 2 ^ 32)
  let fresh := bitN w 0 && !mailReserved w && (match x.frame with | some f => f.1 != seq | none => true)
  let frame := if fresh then some (seq, fieldN w 7 19 * 128) else x.frame
  let band : Band := { n := n, b := b, deadline := (x.lineTick n ((8 * b : Nat) - 2)).toNat, frame := frame, pose := pose,
                       delivered := [], st := .waiting }
  let s1 := setHead s h { x1 with pose := pose, frame := frame, bands := x1.bands ++ [band], nextBand := x.nextBand + 1 }
  let s2 := if mailReserved w then logError s1 8 8 h 0 (frameMailbox + 0x100 * h) else s1
  updateInuse s2 h

/-- The next band of a head may start. -/
def mayStart (s : State) (h : Nat) : Bool :=
  let x := headOf s h
  decide (h < 4) && x.en &&
  decide (x.lineTick (x.nextBand / x.bandCount) ((8 * (x.nextBand % x.bandCount) : Nat) - x.lat) ≤ s.tick)

def execBandStart (s : State) : Out := .next (if mayStart s s.inp.n1 then startBand s s.inp.n1 else s)

/-! ## Dispatch (R452, R453) -/

def coreOf (s : State) (k : Nat) : Core := (s.duct.cores.find k).getD Core.init
def setCore (s : State) (k : Nat) (x : Core) : State := { s with duct := { s.duct with cores := s.duct.cores.put k x } }

/-- Ready bands: deadline, head, n, b. -/
def readyBands (s : State) : List (Nat × Nat × Nat × Nat) :=
  (List.range 4).flatMap (fun h => ((headOf s h).bands.filter (fun e => e.st == .waiting && decide (s.tick < e.deadline))).map
    (fun e => (e.deadline, h, e.n, e.b)))

/-- The order of R452. -/
def bandBefore (a b : Nat × Nat × Nat × Nat) : Bool :=
  decide (a.1 < b.1) || (a.1 == b.1 && (decide (a.2.1 < b.2.1) || (a.2.1 == b.2.1 && (decide (a.2.2.1 < b.2.2.1) ||
    (a.2.2.1 == b.2.2.1 && decide (a.2.2.2 < b.2.2.2))))))

/-- The band that a free core takes. -/
def nextReady (s : State) : Option (Nat × Nat × Nat) :=
  ((readyBands s).foldl (fun m e => match m with | some x => if bandBefore e x then some e else m | none => some e) none).map
    (fun e => (e.2.1, e.2.2.1, e.2.2.2))

/-- A core takes a band: c0-c4 set, loop levels cleared, at the entry (R453, R474). -/
def takeBand (s : State) (k h n b : Nat) : State :=
  match bandOf s h n b with
  | none => s
  | some e =>
    let x := coreOf s k
    let seq := match e.frame with | some f => f.1 | none => 0
    let set := [BitVec.ofNat 32 h, BitVec.ofNat 32 b, BitVec.ofNat 32 n, seq, BitVec.ofNat 32 e.deadline]
    let y : Core := { x with c := set ++ x.c.drop 5, loops := [], pc := (headOf s h).entry / 16, busy := some (h, n, b), stored := 0 }
    modBand (setCore s k y) h n b (fun e => { e with st := .running })

def execBandDispatch (s : State) : Out :=
  .next (if s.inp.n1 < 16 ∧ (coreOf s s.inp.n1).busy = none then
    (match nextReady s with
     | some e => takeBand s s.inp.n1 e.1 e.2.1 e.2.2
     | none => s)
  else s)

/-! ## Emission (R453, R455, R468) -/

/-- A band is emitted: its pose goes to history, and its refresh may become the source (R455, R468). -/
def bandEmitted (s : State) (h : Nat) (e : Band) : State :=
  let x := headOf s h
  match x.refs.find? (fun r => r.n == e.n) with
  | none => s
  | some r =>
    let s1 := storeHome s (histAddr x r.dst + x.pitch * x.va + 16 * e.b) e.pose
    let s2 := modBand s1 h e.n e.b (fun e => { e with st := .emitted })
    let s3 := modRef s2 h e.n (fun r => { r with emitted := r.emitted + 1 })
    let y := headOf s3 h
    let s4 := if r.emitted + 1 = x.bandCount ∧ !r.fell then
        setHead s3 h { y with histSrc := some (r.dst, e.n), refs := y.refs.filter (fun q => q.n != e.n) } else s3
    updateInuse s4 h

/-- A delivered line goes to the ring and to the destination; the eighth emits the band (R468). -/
def deliverLine (s : State) (h : Nat) (e : Band) (k : Nat) (px : List Nat) : State :=
  if e.st = .emitted then s
  else
    let x := headOf s h
    let y := 8 * e.b + k
    let s1 := if y < x.va then
        (match x.refs.find? (fun r => r.n == e.n) with
         | some r => storeHome (ringLine s x e.n y px) (histAddr x r.dst + y * x.pitch) (px.flatMap (toBytes 4))
         | none => s)
      else s
    let dl := if e.delivered.contains k then e.delivered else e.delivered ++ [k]
    let s2 := modBand s1 h e.n e.b (fun e => { e with delivered := dl })
    if dl.length = 8 then bandEmitted s2 h { e with delivered := dl } else s2

/-! ## Bundles (R460-R464, R470) -/

/-- The core of a band becomes free; a band not emitted waits for the lane with a cause (R454). -/
def endProgram (s : State) (k : Nat) (h n b : Nat) (cause : Nat) : State :=
  let s1 := setCore s k { coreOf s k with busy := none }
  match bandOf s1 h n b with
  | some e =>
    if e.st = .emitted then dropBand s1 h n b
    else updateInuse (modRef (modBand s1 h n b (fun e => { e with st := .faulted cause })) h n (fun r => { r with fell := true })) h
  | none => s1

/-- What slot 3 reads from outside the core (R473). -/
def ctlIn (s : State) (x : Head) (e : Band) (since : Nat) : CtlIn :=
  { tick := s.tick, since := since, deadline := e.deadline, pose := e.pose
    spose := (sourcePose s x e.b).getD (List.replicate 16 0)
    desc := match e.frame with | some f => frameDesc s f | none => List.replicate 128 0 }

/-- The bundle at an index (R460). -/
def bundleAt (s : State) (o : Nat) : Nat := ofBytes (codeBytes s (16 * o) 16)

/-- The tick at which the bundle under way of a core started (R473). -/
def bundleSince (s : State) (c : Core) : Nat := if c.stored = 0 then s.tick else c.since

/-- The slots of a bundle execute: slot 0, slots 1 to 3, results, next (R462-R464); a fault of slot 3 comes before poison that slot 0
consumes (R454). -/
def runSlots (s : State) (k h : Nat) (e : Band) (w : Nat) : State :=
  let x := headOf s h
  let c := coreOf s k
  let fault := fun (s : State) (cause : Nat) => endProgram s k h e.n e.b cause
  let w3 := slotWord w 3
  let since := bundleSince s c
  match slotL s c { vmid := x.vmid, asid := x.asid, frame := e.frame } (slotWord w 0) with
  | (s1, .error cause) => fault s1 (match slotS c (ctlIn s1 x e since) w3 c with | .error k => min k cause | .ok _ => cause)
  | (s1, .ok (put, em)) =>
    match (if slOp w3 = 0x10 ∧ slFl w3 = 1 then sourcePosePoisoned s1 x e.b else none) with
    | some a => fault (logPoison s1 7 a) 4
    | none =>
      match slotS c (ctlIn s1 x e since) w3 (slotV c (slotWord w 2) (slotV c (slotWord w 1) (put c))) with
      | .error cause => fault s1 cause
      | .ok (y, nx) =>
        let s2 := setCore s1 k { ductNext y c.pc nx with stored := 0 }
        let s3 := match em with
          | some (line, l) => deliverLine s2 h e line ((List.range x.ha).map (fun p => packTen (c.px l p)))
          | none => s2
        if nx = .halt then fault s3 3 else s3

/-- A core's next action for a band: the fetch and legality of its bundle (R463, R464), then one pixel of the bundle's mst (R470), or
with all of them stored the bundle's slots. -/
def runBundle (s : State) (k h : Nat) (e : Band) : State :=
  let x := headOf s h
  let c := coreOf s k
  let fault := fun (s : State) (cause : Nat) => endProgram s k h e.n e.b cause
  if 16 * c.pc < x.entry ∨ x.codeEnd ≤ 16 * c.pc then fault s 3
  else
    let w := bundleAt s c.pc
    if !legalBundle c.pc w then fault s 3
    else match mstNext c (slotWord w 0) with
    | none => runSlots s k h e w
    | some (va, size, i, pixel) =>
      match ductStore s { vmid := x.vmid, asid := x.asid, frame := e.frame } va size i pixel with
      | (s1, some cause) => fault s1 cause
      | (s1, none) => setCore s1 k { c with stored := i + 1, since := bundleSince s c }

def execDuctusBundle (s : State) : Out :=
  .next (match (coreOf s s.inp.n1).busy with
  | some (h, n, b) => (match bandOf s h n b with
    | some e => if e.st = .emitted ∨ s.tick < e.deadline then runBundle s s.inp.n1 h e else s
    | none => s)
  | none => s)

/-! ## Reprojection (R455-R457) -/

/-- F64 arithmetic under RNE (R456). -/
def dAdd (a b : Nat) : Nat := (fAdd Fmt.f64 .rne false a b).bits
def dSub (a b : Nat) : Nat := (fSub Fmt.f64 .rne false a b).bits
def dMul (a b : Nat) : Nat := (fMul Fmt.f64 .rne false a b).bits
def dDiv (a b : Nat) : Nat := (fDiv Fmt.f64 .rne false a b).bits
def dRoot (a : Nat) : Nat := (fSqrt Fmt.f64 .rne false a).bits
def dGt (a b : Nat) : Bool := (fCmp Fmt.f64 4 a b).1
/-- A whole number. -/
def dInt (n : Int) : Nat := (intToF Fmt.f64 .rne false n).bits
/-- An F32 pattern, widened. -/
def dWide (x : Nat) : Nat := (fToF Fmt.f32 Fmt.f64 .rne false x).bits

/-- A 3 by 3 matrix by rows. -/
abbrev Mat := List Nat
def Mat.el (m : Mat) (i j : Nat) : Nat := List.getD m (3 * i + j) 0
def Mat.make (f : Nat → Nat → Nat) : Mat := (List.range 9).map (fun k => f (k / 3) (k % 3))
/-- A left-to-right sum of three products. -/
def dot3 (f g : Nat → Nat) : Nat := dAdd (dAdd (dMul (f 0) (g 0)) (dMul (f 1) (g 1))) (dMul (f 2) (g 2))
def Mat.mul (a b : Mat) : Mat := Mat.make (fun i j => dot3 (fun k => a.el i k) (fun k => b.el k j))
def Mat.tr (a : Mat) : Mat := Mat.make (fun i j => a.el j i)

/-- Rot(x, y, z) (R456). -/
def rotOf (x0 y0 z0 : Nat) : Mat :=
  let sq := fun a => dMul a a
  let s := dAdd (dAdd (sq x0) (sq y0)) (sq z0)
  let one := dInt 1
  let big := dGt s one
  let r := dRoot s
  let x := if big then dDiv x0 r else x0
  let y := if big then dDiv y0 r else y0
  let z := if big then dDiv z0 r else z0
  let w := if big then dInt 0 else dRoot (dSub one s)
  let tw := fun a => dMul (dInt 2) a
  let diag := fun a b => dSub one (tw (dAdd (sq a) (sq b)))
  let plus := fun a b c d => tw (dAdd (dMul a b) (dMul c d))
  let minus := fun a b c d => tw (dSub (dMul a b) (dMul c d))
  [diag y z, minus x y z w, plus x z y w,
   plus x y z w, diag x z, minus y z x w,
   minus x z y w, plus y z x w, diag x y]

/-- A signed 16-bit field of a pose in units of 2^-k, in F64 (R445). -/
def poseField (p : List Byte) (lo k : Nat) : Nat :=
  let v := sext (fieldN (ofBytes p) lo 16) 16
  (roundFV Fmt.f64 .rne (.fin (decide (v < 0)) v.natAbs (-(k : Int)))).bits

/-- Rotation of a pose, and its position (R445, R456). -/
def poseRot (p : List Byte) : Mat := rotOf (poseField p 32 15) (poseField p 48 15) (poseField p 64 15)
def posePos (p : List Byte) (i : Nat) : Nat := poseField p (80 + 16 * i) 11

/-- The homography from a source pose and a latched pose: nine F32 (R456). -/
def homography (x : Head) (src new : List Byte) : List Nat :=
  let back := (poseRot src).tr
  let rd := back.mul (poseRot new)
  let t := fun i => dot3 (fun k => back.el i k) (fun k => dSub (posePos new k) (posePos src k))
  let dp := dWide (fieldN x.plane.toNat 0 32)
  let one := dInt 1
  let nil := dInt 0
  let m := if dGt dp nil && dGt dp (t 2) then
      (Mat.make (fun i j => dAdd (if i = j then one else nil) (if j = 2 then dDiv (t i) (dSub dp (t 2)) else nil))).mul rd
    else rd
  let fx := dWide (fieldN x.k0.toNat 0 32)
  let fy := dWide (fieldN x.k0.toNat 32 32)
  let cx := dWide (fieldN x.k1.toNat 0 32)
  let cy := dWide (fieldN x.k1.toNat 32 32)
  let neg := fun a => dSub nil a
  let kk : Mat := [fx, nil, cx, nil, fy, cy, nil, nil, one]
  let ki : Mat := [dDiv one fx, nil, dDiv (neg cx) fx, nil, dDiv one fy, dDiv (neg cy) fy, nil, nil, one]
  ((kk.mul m).mul ki).map (fun v => (fToF Fmt.f64 Fmt.f32 .rne false v).bits)

/-- The border colour of a head (R446). -/
def Head.border (x : Head) : Nat := fieldN x.plane.toNat 32 30

/-- A tap of the source: its value, and its address where it is poisoned (R457). -/
def histTap (s : State) (x : Head) (buf : Nat) (i j : Int) : Nat × Option Nat :=
  if i < 0 ∨ j < 0 ∨ (x.ha : Int) ≤ i ∨ (x.va : Int) ≤ j then (x.border, none)
  else
    let a := histAddr x buf + j.toNat * x.pitch + 4 * i.toNat
    if poisoned s a 4 then (x.border, some (a / 64 * 64)) else (ofBytes (s.bytes a 4), none)

/-- A pixel of a fallback band (R457), with the poisoned addresses it reads. -/
def lanePixel (s : State) (x : Head) (buf : Nat) (H : List Nat) (px y : Nat) : Nat × List Nat :=
  match homPoint H (halfPast px) (halfPast y) with
  | none => (x.border, [])
  | some q =>
    let u := unpack Fmt.f32 q.1
    let v := unpack Fmt.f32 q.2
    if u.isNan || v.isNan then (x.border, [])
    else
      let i := bilinearAxis (fixCoord u)
      let j := bilinearAxis (fixCoord v)
      let ts := [histTap s x buf i.1 j.1, histTap s x buf (i.1 + 1) j.1, histTap s x buf i.1 (j.1 + 1),
                 histTap s x buf (i.1 + 1) (j.1 + 1)]
      let ws := [(256 - i.2) * (256 - j.2), i.2 * (256 - j.2), (256 - i.2) * j.2, i.2 * j.2]
      let ch := fun k => rneDiv (((ts.zip ws).map (fun p => fieldN p.1.1 (10 * k) 10 * p.2)).foldl (· + ·) 0) 65536
      (ch 0 + ch 1 * 2 ^ 10 + ch 2 * 2 ^ 20, ts.filterMap (fun t => t.2))

/-- Write border lines into the ring. -/
def borderLines (s : State) (x : Head) (n : Nat) (ys : List Nat) : State :=
  ys.foldl (fun s y => ringLine s x n y (List.replicate x.ha x.border)) s

/-- The pose of the source that the lane uses: free bytes where it is poisoned (log 36). -/
def lanePose (s : State) (x : Head) (b : Nat) (p : List Byte) : State × List Byte :=
  match sourcePosePoisoned s x b with
  | some a => (logPoison { s with free := s.free + 16 } 7 a, (List.range 16).map (fun i => Config.freeByte (s.free + i)))
  | none => (s, p)

/-- The lane builds the band's lines from the source as it stands (R455-R457). -/
def laneLines (s : State) (x : Head) (e : Band) (buf : Nat) (src : List Byte) : State :=
  let p := lanePose s x e.b src
  let H := homography x p.2 e.pose
  let lines := (shownLines x e.b).map (fun y => (y, (List.range x.ha).map (fun i => lanePixel s x buf H i y)))
  let s1 := lines.foldl (fun t l => ringLine t x e.n l.1 (l.2.map (fun p => p.1))) p.1
  (lines.flatMap (fun l => l.2.flatMap (fun p => p.2))).eraseDups.foldl (fun t a => logPoison t 7 a) s1

/-- A band falls back at its deadline (R454, R457): with no source its record is written at once, with cause 5. -/
def fallBack (s : State) (h : Nat) (e : Band) (cause : Nat) : State :=
  let x := headOf s h
  let s1 := modRef s h e.n (fun r => { r with fell := true })
  match x.histSrc, sourcePose s x e.b with
  | some r, some p =>
    let s2 := laneLines s1 x e r.1 p
    updateInuse (modBand s2 h e.n e.b (fun e => { e with st := .falling cause x.srcName })) h
  | _, _ =>
    let s2 := borderLines s1 x e.n (shownLines x e.b)
    updateInuse (dropBand (presentRecord s2 h e 5 x.srcName) h e.n e.b) h

/-- The deadline of a band (R454). -/
def bandDeadline (s : State) (h : Nat) (e : Band) : State :=
  match e.st with
  | .waiting => fallBack s h e 1
  | .running =>
    let s1 := { s with duct := { s.duct with cores := s.duct.cores.map (fun c =>
      (c.1, if c.2.busy = some (h, e.n, e.b) then { c.2 with busy := none } else c.2)) } }
    fallBack s1 h e 2
  | .faulted c => fallBack s h e c
  | _ => s

def execBandDeadline (s : State) : Out :=
  .next (match bandOf s s.inp.n1 s.inp.n2 s.inp.n3 with
  | some e => if e.deadline ≤ s.tick then bandDeadline s s.inp.n1 e else s
  | none => s)

/-- Lines whose reads are late take the border colour, and the band's cause becomes 6 (R457): the line must not have been scanned
out. -/
def execReprojectionLineTimeout (s : State) : Out :=
  .next (match bandOf s s.inp.n1 s.inp.n2 s.inp.n3 with
  | some e =>
    let x := headOf s s.inp.n1
    let y := 8 * e.b + s.inp.n4
    (match e.st with
     | .falling _ src =>
       if s.inp.n4 < 8 ∧ y < x.va ∧ x.lineTick e.n y ≤ s.tick ∧ x.scan ≤ e.n * x.vt + y then
         modBand (borderLines s x e.n ((shownLines x e.b).filter (fun l => decide (y ≤ l)))) s.inp.n1 e.n e.b
           (fun e => { e with st := .falling 6 src })
       else s
     | _ => s)
  | none => s)

/-! ## Scan-out (R446, R448, R457) -/

/-- A channel as the head drives it: with ofmt = 0 in 8 bits (R457). -/
def driven (ofmt p : Nat) : Nat :=
  if ofmt = 0 then
    let c := fun k => rneDiv (fieldN p (10 * k) 10 * 255) 1023
    c 0 + c 1 * 2 ^ 10 + c 2 * 2 ^ 20
  else p

/-- Records of fallback bands whose last line is scanned out (R458, log 35). -/
def closeBands (s : State) (h n y : Nat) : State :=
  let x := headOf s h
  let done := x.bands.filter (fun e => e.n == n && y == min (8 * e.b + 7) (x.va - 1))
  done.foldl (fun s e => match e.st with
    | .falling c src => dropBand (presentRecord s h e c src) h e.n e.b
    | _ => s) s

/-- The head scans out its next line (R448, R457); a disabled head sends blank lines (R447). -/
def scanLine (s : State) (h : Nat) : State :=
  let x := headOf s h
  let n := x.scan / x.vt
  let y := x.scan % x.vt
  let px := if y ≥ x.va then []
    else if x.en then (List.range x.ha).map (fun i => BitVec.ofNat 32 (driven x.ofmt (ofBytes (s.bytes (ringAddr x n y + 4 * i) 4))))
    else List.replicate x.ha 0
  closeBands (setHead s h { x with scan := x.scan + 1, sent := some (n, y, px) }) h n y

/-- The next line may be scanned out: its tick has come, and the bands it shows are emitted or have fallen back. -/
def mayScan (s : State) (h : Nat) : Bool :=
  let x := headOf s h
  decide (h < 4) && x.live && x.vt != 0 && decide (x.lineTick 0 x.scan ≤ s.tick) &&
  (!x.en || (decide (x.scan / x.vt * x.bandCount + x.scan % x.vt / 8 < x.nextBand) || decide (x.va ≤ x.scan % x.vt)) &&
    x.bands.all (fun e => !(e.n == x.scan / x.vt && e.b == x.scan % x.vt / 8) || match e.st with
      | .emitted => true
      | .falling _ _ => true
      | _ => false))

def execScanOutLine (s : State) : Out := .next (if mayScan s s.inp.n1 then scanLine s s.inp.n1 else s)

end Sys2Proof.Machine
end

