-- ==== Sys2Proof/Machine/HostPort.lean ====
section
/-! DEFINITION. The host port (21 R499-R503) and bring-up (21 R504-R506), with register writes (00 R3) and the retraining of
domain links (07 R192). -/
namespace Sys2Proof.Machine
open Sys2Proof

/-! ## Regions (R499, R500) -/

/-- A record of a host access that faults, is malformed or meets poison (R499, R500, R502, R503 class 10). -/
def hostFault (s : State) (addr : Nat) : State := logError s 10 (dieOfPa addr) 0 0 addr

/-- The same of an access that reaches no unit (R503). -/
def hostLost (s : State) (addr : Nat) : State := logError s 10 8 0 0 addr

/-- An access of 4 or 8 bytes, aligned. -/
def regShape (off size : Nat) : Bool := (size == 4 || size == 8) && off % size == 0

/-- What an access of the host reaches. -/
inductive HostTgt where
  /-- device registers at an offset -/
  | reg (off : Nat)
  /-- memory: runs of bytes at physical addresses, with their lengths -/
  | mem (runs : List (Nat × Nat))
  /-- nothing: reads zero, ignores writes; the address of a notify slot of another function, or 0 -/
  | hole (addr : Nat)
  /-- a malformed access of device registers, with its physical address -/
  | bad (addr : Nat)
  /-- a stage-2 fault, with the guest-physical address -/
  | fault (gpa : Nat)
  /-- an access that never returns (R483) -/
  | never
deriving DecidableEq, Repr

/-- Byte addresses as runs. -/
def runsOf : List Nat → List (Nat × Nat)
  | [] => []
  | a :: r => match runsOf r with
    | (b, n) :: t => if a + 1 = b then (a, n + 1) :: t else (a, 1) :: (b, n) :: t
    | [] => [(a, 1)]

/-- The kind and the physical byte of a guest-physical address of a guest, for a read or a write (R500). The inkwell has no aperture
(R42), and of the device registers only notify pages are mapped for a guest (R44, log 39). -/
def guestByte (s : State) (vmid gpa : Nat) (write : Bool) : Option (Nat × Nat) :=
  if 2 ^ 38 ≤ gpa then none
  else match walk2 s [] vmid gpa with
  | .error _ => none
  | .ok (e, l, _) =>
    let kind := fieldN e 8 3
    let pa := leafPage e l gpa + gpa % 65536
    let o := pa - devBase
    if (if write then bitN e 3 else bitN e 2) && kind != 1 && (kind != 4 || decide (0x0010_0000 ≤ o) && decide (o < 0x0030_0000)) then some (kind, pa)
    else none

/-- Where an access of a guest's space leads: memory, a notify page, or a stage-2 fault (R500). -/
def guestTarget (s : State) (fn off size : Nat) (write : Bool) : HostTgt :=
  if (List.range size).any (fun i => match walk2 s [] fn (off + i) with | .error (0, _, _) => true | _ => false) then .never
  else match (List.range size).mapM (fun i => guestByte s fn (off + i) write) with
  | none => .fault off
  | some bs =>
    if bs.all (fun b => b.1 != 4) then .mem (runsOf (bs.map Prod.snd))
    else match bs with
    | (4, pa) :: _ => if regShape (pa - devBase) size then .reg (pa - devBase) else .bad pa
    | _ => .fault off

/-- Where an access of a function to a region leads; region 8 of the physical function stands for the host's own memory, which its stores
reach without the device (R525, log 39). -/
def hostTarget (s : State) (fn bar off size : Nat) (write : Bool) : HostTgt :=
  if fn = 0 then
    match bar with
    | 0 => if off + size ≤ 2 ^ 32 then (if regShape off size then .reg off else .bad (devBase + off)) else .hole 0
    | 2 => if off + size ≤ 2 ^ 38 then .mem [(off, size)] else .hole 0
    | 4 => if off + size ≤ 2 ^ 26 then .mem [(frameBase + off, size)] else .hole 0
    | 8 => if hostBase + off + size ≤ 2 ^ 52 then .mem [(hostBase + off, size)] else .hole 0
    | _ => .hole 0
  else if fn < 64 then
    match bar with
    | 0 =>
      if off / 0x1_0000 < 32 then
        (if !regShape off size then .bad (devBase + 0x0010_0000 + off)
         else if (s.queue (off / 0x1_0000)).vmid = fn then .reg (0x0010_0000 + off) else .hole (devBase + 0x0010_0000 + off))
      else .hole 0
    | 2 => guestTarget s fn off size write
    | _ => .hole 0
  else .hole 0

/-! ## Reads and writes of the host (R170, R499, R500, R502) -/

/-- Write the runs of an access. -/
def storeRuns : List (Nat × Nat) → List Byte → State → State
  | [], _, s => s
  | (pa, n) :: r, data, s => storeRuns r (data.drop n) (storeHome s pa (data.take n))

/-- The first address of a run, or 0. -/
def runHead (runs : List (Nat × Nat)) : Nat := (runs.head?.map Prod.fst).getD 0

/-- An access to a guest's space walks stage 2 for each page it touches; the poison that the walk meets enters the error log (R131,
R500, log 61). -/
def guestLog (s : State) (fn bar off size : Nat) : State :=
  if fn = 0 ∨ 64 ≤ fn ∨ bar ≠ 2 then s
  else ((List.range size).filter (fun i => i == 0 || (off + i) % 65536 == 0)).foldl (fun s i => logWalk s (reads2 s [] fn (off + i))) s

/-- A posted write: it home-performs; a poisoned one is dropped and logged (R502). -/
def hostWriteOf (s : State) (fn bar off : Nat) (data : List Byte) (bad : Bool) : State :=
  let s := guestLog s fn bar off data.length
  match hostTarget s fn bar off data.length true with
  | .hole a => if bad then hostLost s a else s
  | .never => hangIf s true
  | .bad a => hostFault s a
  | .fault a => hostLost s a
  | .reg o => if homeStopped s (devBase + o) then hangIf s true else if bad then hostFault s (devBase + o) else regWrite s .host o data.length (ofBytes data)
  | .mem runs => if bad then hostFault s (runHead runs) else hangIf (storeRuns runs data s) (runs.any (fun r => homeStopped s r.1))

/-- A host write: over the link once it is up, or to the host's own memory. -/
def execHostWrite (s : State) : Out :=
  .next (if s.host.up ∨ s.inp.n1 = 0 ∧ s.inp.n2 = 8 then
    hostWriteOf s s.inp.n1 s.inp.n2 s.inp.n3 s.inp.data (s.inp.on && s.inp.n2 != 8) else s)

/-- A completion. -/
def complete (s : State) (status : Nat) (data : List Byte) : State :=
  { s with host := { s.host with reads := s.host.reads ++ [(status, data)] } }

/-- A read: the home value, zero and the poison bit, or Unsupported Request. -/
def hostReadOf (s : State) (fn bar off size : Nat) : State :=
  let s := guestLog s fn bar off size
  match hostTarget s fn bar off size false with
  | .never => hangIf s true
  | .hole _ => complete s 0 (List.replicate size 0)
  | .bad a => complete (hostFault s a) 1 []
  | .fault a => complete (hostLost s a) 1 []
  | .reg o => if homeStopped s (devBase + o) then hangIf s true else complete s 0 (toBytes size (regRead s o size))
  | .mem runs =>
    if runs.any (fun r => homeStopped s r.1) then hangIf s true
    else match runs.find? (fun r => poisoned s r.1 r.2) with
    | some r => complete (hostFault s r.1) 2 (List.replicate size 0)
    | none => complete s 0 (runs.flatMap (fun r => s.bytes r.1 r.2))

def execHostRead (s : State) : Out :=
  .next (if s.host.up then hostReadOf s s.inp.n1 s.inp.n2 s.inp.n3 s.inp.n4 else s)

/-- The end of a span after a message of the error log (R503). -/
def execErrorLogMsiSpanEnd (s : State) : Out :=
  .next (match s.log.pendMsg, s.log.lastMsg with
  | true, some t =>
    if t + 4200 ≤ s.tick then
      let s1 := sendMsi s 0 32
      { s1 with log := { s1.log with lastMsg := some s.tick, pendMsg := false } }
    else s
  | _, _ => s)

/-- A write of an agent to a device register; the host's arrives over the link once that is up (00 R3, 02 R44, R504). -/
def execRegisterWrite (s : State) : Out :=
  .next (if regShape s.inp.n1 s.inp.n2 ∧ !homeStopped s (devBase + s.inp.n1) ∧ (s.inp.who = .host → s.host.up = true) then
    regWrite s s.inp.who s.inp.n1 s.inp.n2 (s.inp.v1.toNat % 2 ^ (8 * s.inp.n2)) else s)

/-! ## Bring-up (R504-R506) -/

/-- Bring-up goes on at a stage: the stage before it has completed. -/
def bootAt (s : State) (n : Nat) : Bool := bootStage s + 1 == n && !s.host.halted

/-- A stage completes. -/
def stageDone (s : State) (n : Nat) : State := { s with boot := BitVec.ofNat 64 n }

/-- A stage stops bring-up with a failure code. -/
def stageFails (s : State) (n code : Nat) : State :=
  { s with boot := BitVec.ofNat 64 (n + code % 65536 * 65536), host := { s.host with halted := true } }

/-- Power-good and reset (R504 stage 1): the machine at reset; host memory and the model's own fields stay. -/
def execModuleReset (s : State) : Out :=
  .next { State.reset with mem := s.mem.filter (fun c => decide (hostBase ≤ c.1)), agenda := s.agenda, cur := s.cur, inp := s.inp,
                           free := s.free }

/-- The boot ROM accepts an image: the digest of its key is the fused one, and its signature verifies (R504, R505). -/
def imageOk (image : List Byte) : Bool :=
  let key := Config.imageKey image
  Config.sha3 key == Config.fusedDigest && Config.verify key (Config.sha3 image) (Config.imageSignature image)

/-- Stage 2: the boot ROM measures and verifies the image, and fixes its key (R504, R505). -/
def execFirmwareAuthentication (s : State) : Out :=
  .next (if bootAt s 2 then
    (if imageOk s.inp.data then
      let s1 := stageDone s 2
      { s1 with host := { s1.host with fwMeasure := Config.sha3 s.inp.data, fwKey := Config.imageKey s.inp.data } }
     else stageFails s 2 (Config.firmwareFailure s.inp.data).toNat)
  else s)

/-- Stage 3: GDDR 7 training, and a scrub that writes every device with zero and clears all poison (R504). -/
def execGddr7Training (s : State) : Out :=
  .next (if bootAt s 3 then
    (if s.inp.n1 ≠ 0 then stageFails s 3 s.inp.n1
     else
      let s1 := stageDone s 3
      { s1 with mem := s1.mem.filter (fun c => decide (2 ^ 38 ≤ c.1))
                st := { s1.st with poison := s1.st.poison.filter (fun e => decide (e.2 = 128)) } })
  else s)

/-- Four contiguous lanes pass. -/
def quadPasses (lanes : BitVec 8) : Bool := (List.range 5).any (fun k => fieldN lanes.toNat k 4 == 15)

/-- The first speed at which all 8 lanes pass, or else 4 contiguous ones: its code, and half (R191, R506). -/
def trainedAt (r : PortResult) : Option (BitVec 2 × Bool) :=
  [(3, r.pass224), (2, r.pass112), (1, r.pass56)].findSome? (fun x =>
    if x.2 = BitVec.allOnes 8 then some (x.1, false) else if quadPasses x.2 then some (x.1, true) else none)

/-- A port after training (R191, R506): down where fewer than 4 lanes train. -/
def trained (r : PortResult) : Port :=
  match trainedAt r with
  | none => Port.init
  | some (speed, half) => { Port.init with ppeer := r.ppeer, pport := r.pport, half := half, rev := r.rev, speed := speed, state := 2 }

/-- A port comes up or stays down; the route of its partner gains it (R177, R504, R506). -/
def trainPort (s : State) (r : PortResult) : State :=
  if 18 ≤ r.port then s
  else
    let p := trained r
    let s1 := modPort s r.port (fun _ => p)
    if p.state = 2 then
      writeRoute s1 r.ppeer.toNat ((s1.fab.route.find r.ppeer.toNat).getD 0 ||| 0x8000_0000_0000_0000#64 ||| (1#64 <<< r.port))
    else s1

/-- The heads with an attached sink train their links (R504, R534). -/
def trainHeads (s : State) (links : List (List Byte)) : State :=
  (List.range 4).foldl (fun s h => match links.getD h [] with
    | [] => s
    | l => headLink s h (BitVec.ofNat 64 (ofBytes l))) s

/-- The first tick exchange, where a port carries time: the partner's ticks t1 and t4 (R195, R504). -/
def firstExchange (s : State) (t1 t4 : DWord) : State :=
  if s.fab.tport = 0x1F ∨ s.fab.lost then s else align s (tickLead t1 s.ticks s.ticks t4)

/-- Some port is training (R191). -/
def anyTraining (s : State) : Bool := s.fab.ports.any (fun p => p.state == 1)

/-- Stage 4: ports start to train, then their training ends; peer number and size are written, domallow gains the own bit, routes are
set, the time source is found and the first tick exchange completes, the heads' links train (R45, R191, R195, R504, R506, R534). A peer
number outside the domain is no result of bring-up. domallow then holds the own bit alone (log 88). -/
def execDomainPortTraining (s : State) : Out :=
  .next (if bootAt s 4 ∧ !anyTraining s then
    ({ s with fab := { s.fab with ports := s.fab.ports.map (fun p => { p with state := 1 }) } } : State)
  else if bootAt s 4 ∧ s.inp.n1 < s.inp.n2 ∧ s.inp.n2 ≤ 512 then
    let s0 := s.inp.ports.foldl trainPort s
    let s1 : State := { s0 with fab := { s0.fab with ports := s0.fab.ports.map (fun p => if p.state = 1 then Port.init else p) } }
    let f : Fabric := { s1.fab with peer := BitVec.ofNat 9 s.inp.n1, size := BitVec.ofNat 10 s.inp.n2, allow := List.replicate 8 0 }
    let s2 := linkGraph (writeAllow { s1 with fab := f } (s.inp.n1 / 64) 0 0) s.inp.n3 s.inp.nums
    stageDone (trainHeads (firstExchange s2 s.inp.v1 s.inp.v2) s.inp.parts) 4
  else s)

/-- Stage 5 (R504). -/
def execPcieLinkUp (s : State) : Out :=
  .next (if bootAt s 5 then let s1 := stageDone s 5; { s1 with host := { s1.host with up := true } } else s)

/-- The Scriptorium retrains a lost port: it leaves the lost state and trains, and then rejoins routes or is down (R191, R192). -/
def execLinkRetrain (s : State) : Out :=
  .next (match s.inp.ports with
  | r :: _ =>
    if 18 ≤ r.port then s
    else if (portOf s r.port).state = 3 then modPort s r.port (fun p => { p with state := 1 })
    else if (portOf s r.port).state = 1 ∧ bootStage s ≥ 4 then takeTime (trainPort s r)
    else s
  | [] => s)

/-- An attestation report (R505): the signed bytes, and the signature. -/
def execAttestationReport (s : State) : Out :=
  .next (if 2 ≤ bootStage s ∧ !(s.host.halted && bootStage s == 2) ∧ s.inp.data.length = 64 then
    let m := s.host.fwMeasure ++ s.scrip.measures.flatten ++ s.inp.data
    { s with host := { s.host with reports := s.host.reports ++ [m ++ Config.sign s.host.fwMeasure m] } }
  else s)

end Sys2Proof.Machine
end

