-- ==== Sys2Proof/Machine/Place.lean ====
section
/-! DEFINITION. The launch walker, resources and placement (08 R203-R214, R223; 16 R415, R433, R434; 19 R480), release of
allocations (R218), phases and clock requests (R305). -/
namespace Sys2Proof.Machine
open Sys2Proof

/-! ## phase and clkdiv (R305) -/

def execPhase (f : T64) (s : State) : Out :=
  instr (.phase f) s (fun th =>
    let s1 := s.setThread s.cur { th with phase := some f.c }
    match s1.gang th.gang with
    | none => .retire s1
    | some g => .retire (match commonPhase (lastPhases s1 g) with
      | some p => crossPhase s1 th.gang p
      | none => s1))

def execClkdiv (f : T64) (s : State) : Out :=
  instr (.clkdiv f) s (fun th =>
    .retire (s.modGang th.gang (fun g => { g with clkreq := setAt g.clkreq (f.m 25 24) (some f.c.toNat), divSet := true })))

/-! ## The walker (R433) -/

/-- Gangs of a square of side `h` at (ox, oy) that lie in the grid. -/
def inSquare (gx gy ox oy h : Nat) : Nat := min h (gx - ox) * min h (gy - oy)

/-- The k-th gang in Morton order of a square of side 2^n. -/
def mortonAt (gx gy : Nat) : Nat → Nat → Nat → Nat → Nat × Nat
  | 0, ox, oy, _ => (ox, oy)
  | n + 1, ox, oy, k =>
    let h := 2 ^ n
    let c0 := inSquare gx gy ox oy h
    let c1 := inSquare gx gy (ox + h) oy h
    let c2 := inSquare gx gy ox (oy + h) h
    if k < c0 then mortonAt gx gy n ox oy k
    else if k < c0 + c1 then mortonAt gx gy n (ox + h) oy (k - c0)
    else if k < c0 + c1 + c2 then mortonAt gx gy n ox (oy + h) (k - c0 - c1)
    else mortonAt gx gy n (ox + h) (oy + h) (k - c0 - c1 - c2)

/-- The exponent of the least power of two that is at least x. -/
def ceilLog2 (x : Nat) : Nat := (firstBelow 33 (fun n => decide (x ≤ 2 ^ n))).getD 33

/-- The k-th gang in blocked order. -/
def blockedAt (gx gy bx by' k : Nat) : Nat × Nat :=
  let r := k / (gx * by')
  let k1 := k - r * (gx * by')
  let h := min by' (gy - r * by')
  let c := k1 / (bx * h)
  let k2 := k1 - c * (bx * h)
  let w := min bx (gx - c * bx)
  (c * bx + k2 % w, r * by' + k2 / w)

/-- The coordinates of the n-th gang of a grid. -/
def walkAt (o : Oper) (n : Nat) : Nat × Nat × Nat :=
  let k := n % (o.gx * o.gy)
  let p := match o.order with
    | 0 => (k % o.gx, k / o.gx)
    | 1 => (k / o.gy, k % o.gy)
    | 2 => mortonAt o.gx o.gy (ceilLog2 (max o.gx o.gy)) 0 0 k
    | _ => blockedAt o.gx o.gy o.bx o.by' k
  (p.1, p.2, n / (o.gx * o.gy))

/-- Gangs, or folio gangs, of a grid. -/
def Oper.count (o : Oper) : Nat := o.gx * o.gy * o.gz

/-! ## Resources (R210, R212, R214) -/

/-- Units that a gang asks for: vector, scalar, scratchpad, accumulator (R87, R88, R210). -/
def Kernel.units (k : Kernel) : List Nat :=
  [(k.warps * k.vregs + 63) / 64, (k.warps * k.sregs + k.nibSregs) / 16, k.scr, k.acc]

/-- Units of a quill. -/
def quillUnits : List Nat := [32, 512, 32, 32]

/-- The kernel's gangs have the nib. -/
def Kernel.hasNib (k : Kernel) : Bool := k.nibSregs != 0

/-- Gangs whose allocations lie on a quill. -/
def gangsOn (s : State) (q : Nat) : List (Nat × Gang) := s.gangs.filter (fun e => e.2.quill == q)

/-- A gang's run of a resource. -/
def Gang.run (g : Gang) (r : Nat) : Run :=
  match r with
  | 0 => g.vrun
  | 1 => g.srun
  | 2 => g.scrRun
  | _ => g.accRun

/-- Runs taken of a resource on a quill. -/
def takenRuns (s : State) (q r : Nat) : List Run := (gangsOn s q).map (fun e => e.2.run r)

def unitFree (rs : List Run) (n : Nat) : Bool := rs.all (fun r => decide (n < r.first) || decide (r.first + r.len ≤ n))

/-- Free units. -/
def freeUnits (rs : List Run) (cap : Nat) : Nat := ((List.range cap).filter (unitFree rs)).length

/-- The lowest-numbered free run of a length (R212). -/
def freeRun (rs : List Run) (cap len : Nat) : Option Nat :=
  (List.range (cap + 1 - len)).find? (fun f => (List.range len).all (fun i => unitFree rs (f + i)))

/-- Free warp slots. -/
def freeSlots (s : State) (q : Nat) : List Nat :=
  (List.range 32).filter (fun n => (gangsOn s q).all (fun e => !e.2.slots.contains n))

/-- What an allocation takes. -/
structure Alloc where
  runs : List Run
  slots : List Nat
deriving DecidableEq, Repr

/-- What an attempt on a quill finds. -/
inductive Try where
  | fit (a : Alloc)
  /-- enough free units, but no run, for some resources (R214) -/
  | refused (rs : List Nat)
  | no
deriving DecidableEq, Repr

/-- A quill in hold-back places no shorter request (R214). -/
def heldBack (x : Quill) (units : List Nat) : Bool :=
  (List.range 4).any (fun r => match x.refusals[r]? with
    | some (n, len) => decide (8 ≤ n) && decide (units.getD r 0 < len)
    | none => false)

/-- A gang is tried on a quill (R212, R214). -/
def tryQuill (s : State) (q : Nat) (k : Kernel) : Try :=
  let us := k.units
  let sl := freeSlots s q
  if s.scrip.drain.contains (partOf s q) ∨ heldBack (s.quill q) us ∨ sl.length < k.warps ∨
      (k.hasNib ∧ (gangsOn s q).any (fun e => e.2.nib.isSome)) then .no
  else
    let got := (List.range 4).map (fun r => freeRun (takenRuns s q r) (quillUnits.getD r 0) (us.getD r 0))
    match got.mapM id with
    | some fs => .fit { runs := (fs.zip us).map (fun p => { first := p.1, len := p.2 }), slots := sl.take k.warps }
    | none =>
      if (List.range 4).all (fun r => decide (us.getD r 0 ≤ freeUnits (takenRuns s q r) (quillUnits.getD r 0))) then
        .refused ((List.range 4).filter (fun r => (got.getD r none).isNone))
      else .no

/-- Count a refusal (R214). One made while the resource is already in hold-back lengthens the held length where it asks for more
(log 100). -/
def noteRefusal (s : State) (q : Nat) (rs us : List Nat) : State :=
  s.modQuill q (fun x => { x with refusals := x.refusals.zipIdx.map (fun p =>
    if rs.contains p.2 then (p.1.1 + 1, max p.1.2 (us.getD p.2 0)) else p.1) })

/-- Hold-back ends where a run of the held length is free (R214). -/
def endHold (s : State) (q : Nat) : State :=
  s.modQuill q (fun x => { x with refusals := x.refusals.zipIdx.map (fun p =>
    if 8 ≤ p.1.1 ∧ (freeRun (takenRuns s q p.2) (quillUnits.getD p.2 0) p.1.2).isSome then (0, 0) else p.1) })

/-! ## Where a gang goes (R213) -/

/-- The first quill of a list that takes the gang. -/
def scanQuills (k : Kernel) : List Nat → State → State × Option (Nat × Alloc)
  | [], s => (s, none)
  | q :: r, s => match tryQuill s q k with
    | .fit a => (s, some (q, a))
    | .refused rs => scanQuills k r (noteRefusal s q rs k.units)
    | .no => scanQuills k r s

/-- The first `m` quills of a list that each take a member gang: of a folio in which more have room, the lowest-numbered ones (log 89). -/
def pickQuills (k : Kernel) : List Nat → Nat → State → State × List (Nat × Alloc)
  | [], _, s => (s, [])
  | q :: r, m, s =>
    if m = 0 then (s, [])
    else match tryQuill s q k with
    | .fit a => let x := pickQuills k r (m - 1) s; (x.1, (q, a) :: x.2)
    | .refused rs => pickQuills k r m (noteRefusal s q rs k.units)
    | .no => pickQuills k r m s

/-- Folio-barrier slots of a folio that are free (R204). -/
def freeFolioSlot (s : State) (f : Nat) : Option Nat :=
  firstBelow 8 (fun n => s.fgangs.all (fun e => !(e.2.folio == f && e.2.slot == n)))

/-- The first folio of a list that takes the folio gang: folio, slot, quills. -/
def scanFolios (k : Kernel) : List Nat → State → State × Option (Nat × Nat × List (Nat × Alloc))
  | [], s => (s, none)
  | f :: r, s => match freeFolioSlot s f with
    | none => scanFolios k r s
    | some n =>
      let x := pickQuills k ((List.range 8).map (fun i => 8 * f + i)) k.members s
      if x.2.length = k.members then (x.1, some (f, n, x.2)) else scanFolios k r x.1

/-- Numbers below `n` in ascending order from after the last one, wrapping. -/
def scanFrom (n : Nat) (last : Option Nat) : List Nat :=
  let a := match last with | some x => x + 1 | none => 0
  (List.range n).map (fun i => (a + i) % n)

/-- The last quill or folio of a grid, or of any grid before its first gang. -/
def lastOf (g all : Option Nat) : Option Nat := match g with | some x => some x | none => all

/-- The priority of a grid. -/
def gridPrio (s : State) (g : Grid) : Nat := fieldN (s.queue g.queue).ctl.toNat 59 3

/-- The highest priority that a saved partition holds (R437). -/
def Saved.prio (x : Saved) : Nat := x.quills.foldl (fun a q => q.threads.foldl (fun b t => max b t.2.prio) a) 0

/-- Partitions without a gang. -/
def emptyParts (s : State) : List Nat :=
  (List.range (96 / partFolios s)).filter (fun p => !s.scrip.drain.contains p && s.gangs.all (fun e => partOf s e.2.quill != p))

/-- A saved partition waits in the shadow banks of an empty partition, where it resumes; it competes for no other (R411, R437). -/
def Saved.settled (s : State) (x : Saved) : Bool := x.shadow && (emptyParts s).contains x.part

/-- A saved partition competes for an empty partition and goes ahead of a new gang of its priority or a lower one (R437): for the one
whose shadow banks it has entered, else, in memory or in those of a busy partition, for any. -/
def claimed (s : State) (prio q : Nat) : Bool :=
  let p := partOf s q
  s.scrip.saved.any (fun x => decide (prio ≤ x.prio) && (!x.settled s || x.part == p)) && (emptyParts s).contains p

/-- A quill may take a new gang of a priority: its die runs (R483), and no saved partition goes first there (R437). -/
def openQuill (s : State) (prio q : Nat) : Bool := !dieStopped s (dieOf q) && !claimed s prio q

/-- A place for the next gang or folio gang of a grid: folio and slot for a folio gang, quills and allocations. A folio gang of one
member is placed like a plain gang, on a quill whose folio has a barrier slot free (R204; log 32). -/
def findPlace (s : State) (g : Grid) : State × Option (Option (Nat × Nat) × List (Nat × Alloc)) :=
  let may := openQuill s (gridPrio s g)
  if g.ker.members ≤ 1 then
    let slot := fun (q : Nat) => if g.ker.members = 0 then none else (freeFolioSlot s (folioOf q)).map (fun n => (folioOf q, n))
    let qs := (scanFrom 768 (lastOf g.lastQuill s.scrip.lastQuill)).filter (fun q => may q && (g.ker.members == 0 || (slot q).isSome))
    let x := scanQuills g.ker qs s
    (x.1, x.2.map (fun p => (slot p.1, [p])))
  else
    let x := scanFolios g.ker ((scanFrom 96 (lastOf g.lastFolio s.scrip.lastFolio)).filter (fun f => may (8 * f))) s
    (x.1, x.2.map (fun p => (some (p.1, p.2.1), p.2.2)))

/-! ## Launch state (R89, R90, R95, R93, R205, R208, R415) -/

/-- A vector register at launch (R90). -/
def launchV (n : Nat) : VReg := { lanes := Lanes.fill (BitVec.ofNat 32 (0x7FA0_0000 + n)), poison := 0, tag := true }

/-- The scalar registers at launch (R208): `low`: s0-s2, `s6`, the argument. -/
def launchS (n : Nat) (low : Word) (c : Nat × Nat × Nat) (s6 : Nat) (arg : DWord) : List SReg :=
  let w := [low, low, low, BitVec.ofNat 32 c.1, BitVec.ofNat 32 c.2.1, BitVec.ofNat 32 c.2.2, BitVec.ofNat 32 s6, lo32 arg, hi32 arg]
  (List.range n).map (fun i => { val := w.getD i 0, poison := false })

/-- A thread at launch; `w`: its warp index, none for the nib. -/
def launchThread (s : State) (gid : Nat) (x : Grid) (c : Nat × Nat × Nat) (q slot member fmem : Nat) (w : Option Nat) : Thread :=
  let k := x.ker
  let y := s.queue x.queue
  let ctl := y.ctl.toNat
  let s6 := fmem * 2 ^ 24 + member * 2 ^ 16 + k.warps * 256 + w.getD 255
  let ofield := fun (lo : Nat) => BitVec.ofNat 7 (fieldN ctl lo 7)
  { gang := gid, quill := q, slot := slot, nib := w.isNone, warp := w.getD 0, asid := x.asid, vmid := x.vmid,
    prio := fieldN ctl 59 3, pcH := BitVec.ofNat 16 k.handle, pcO := if w.isSome then k.entry else k.nibEntry,
    seg := readSeg s k.handle x.vmid x.asid, segFresh := false, atVec := 0, mode := .user,
    v := if w.isSome then (List.range k.vregs).map launchV else [],
    s := launchS (if w.isSome then k.sregs else k.nibSregs) (if w.isSome then BitVec.allOnes 32 else 0) c s6 x.op.arg,
    k := List.replicate 8 { bits := 0, poison := 0 }, fstat := 0, loops := [], sup := [], hyp := [],
    bankS := List.replicate 8 { val := 0, poison := false }, bankH := List.replicate 8 { val := 0, poison := false },
    uck := x.op.uck, take := (x.op.take &&& ofield 8) ||| ofield 16, svec := y.svec, hvec := y.hvec,
    xpat := List.replicate 4 Pat.zero, rfault := none, mq := [], ser := 0, late := [], phase := none, clkLow := 0, dqpos := 0,
    wait := .none, wend := 0, latch := Latch.empty, dlvd := [], exited := false }

/-- Place one gang with its warps and nib on a quill (R198, R205, R208, R227, R480). -/
def seatGang (s : State) (gr : Nat) (x : Grid) (c : Nat × Nat × Nat) (member : Nat) (fg : Option Nat) (q : Nat) (a : Alloc) : State :=
  let k := x.ker
  let gid := s.scrip.nextGang
  let t0 := s.scrip.nextThread
  let fmem := if fg.isSome then k.members else 0
  let o := opLookup s k.kid 0
  let alone := (residents s q).isEmpty
  let reqs := match o with | some p => p.reqs | none => List.replicate 4 none
  let warp := fun (w : Nat) => launchThread s gid x c q (a.slots.getD w 0) member fmem (some w)
  let ths := (List.range k.warps).map (fun w => (t0 + w, warp w)) ++
    (if k.hasNib then [(t0 + k.warps, launchThread s gid x c q 32 member fmem none)] else [])
  let run := fun (r : Nat) => a.runs.getD r { first := 0, len := 0 }
  let g : Gang :=
    { grid := gr, quill := q, index := x.next, member := member, fgang := fg, warps := (List.range k.warps).map (fun w => t0 + w),
      nib := if k.hasNib then some (t0 + k.warps) else none, sregs := k.sregs, vregs := k.vregs,
      vrun := run 0, srun := run 1, scrRun := run 2, accRun := run 3, slots := a.slots, scr := [], scrPoison := [], acc := [],
      accPoison := [], bars := [], dq := [], dqBase := 0, frontier := 0, held := none,
      clkreq := if alone then List.replicate 4 none else reqs, phaseMark := none, divSet := false,
      level := some (match o with | some p => p.level | none => 4), pins := [], ended := false }
  let s1 := (s.setGang gid g)
  let s2 := { s1 with threads := ths.foldl (fun m e => m.put e.1 e.2) s1.threads
                      scrip := { s1.scrip with nextGang := gid + 1, nextThread := t0 + k.warps + (if k.hasNib then 1 else 0),
                                               lastQuill := some q } }
  if alone then setDivs s2 q (targets s2 q [reqs]) else s2

/-! ## Placing (R212, R213, R223, R480) -/

/-- The level that a kernel's gangs ask for. -/
def kernelLevel (s : State) (k : Kernel) : Nat := match opLookup s k.kid 0 with | some p => p.level | none => 4

/-- The die has to raise its level first (R480). -/
def mustRaise (s : State) (k : Kernel) (d : Nat) : Bool := decide (dieLevel s d < kernelLevel s k)

/-- Seat the members of a gang or folio gang. -/
def seatAll (s : State) (gr : Nat) (x : Grid) (c : Nat × Nat × Nat) (fo : Option (Nat × Nat)) (ps : List (Nat × Alloc)) : State :=
  match fo with
  | none => ps.foldl (fun s p => seatGang s gr x c 0 none p.1 p.2) s
  | some (f, n) =>
    let fg := s.scrip.nextFg
    let ids := (List.range ps.length).map (fun i => s.scrip.nextGang + i)
    let z : FGang := { grid := gr, folio := f, slot := n, members := ids, arrived := [] }
    let s1 := { s with fgangs := s.fgangs.put fg z, scrip := { s.scrip with nextFg := fg + 1, lastFolio := some f } }
    (ps.zipIdx).foldl (fun s p => seatGang s gr x c p.2 (some fg) p.1.1 p.1.2) s1

/-- Place the next gang of a grid; whether it was placed. -/
def placeNext (s : State) (gr : Nat) : State × Bool :=
  match s.grids.find gr with
  | none => (s, false)
  | some x =>
    match findPlace s x with
    | (s1, none) => (s1, false)
    | (s1, some (fo, ps)) =>
      let d := dieOf ((ps.head?.map Prod.fst).getD 0)
      if mustRaise s1 x.ker d then (startRaise s1 d (kernelLevel s1 x.ker), false)
      else
        let s2 := seatAll s1 gr x (walkAt x.op x.next) fo ps
        let done := x.next + 1 = x.op.count
        let s3 := { s2 with pow := { s2.pow with target := s2.pow.target.filter (fun t => !t.2.2) } }
        (s3.modGrid gr (fun g => { g with
          next := g.next + 1
          since := if done then none else some s.tick
          lastQuill := if x.ker.members ≤ 1 then (ps.head?.map Prod.fst) else g.lastQuill
          lastFolio := match fo with | some (f, _) => some f | none => g.lastFolio }), true)

/-- Place `n` gangs of a grid, all or none: none where one does not fit, with the state in which it did not. -/
def placeMany (gr : Nat) : Nat → State → State × Bool
  | 0, s => (s, true)
  | n + 1, s => match placeNext s gr with
    | (s1, true) => placeMany gr n s1
    | (s1, false) => (s1, false)

/-- Gangs of a grid that have not been handed over. -/
def Grid.left (g : Grid) : Nat := if g.done then 0 else g.op.count - g.next

/-- The gangs that one placement of a grid takes: the head, or the whole of a resident grid. -/
def Grid.batch (g : Grid) : Nat := if g.op.resident then g.left else min 1 g.left

/-- Whether the head of a grid, or the whole resident grid, fits now and needs no rail to rise. -/
def fitsNow (s : State) (gr : Nat) : Bool :=
  match s.grids.find gr with
  | some g => g.left != 0 && (placeMany gr g.batch s).2
  | none => false

/-- The placer may serve a grid: none launched earlier waits resident, and no other head gang that fits comes first (R223, R434). -/
def mayServe (s : State) (gr : Nat) (g : Grid) : Bool :=
  let waits := fun (h : Nat) => s.grids.any (fun e => decide (e.1 < h) && e.2.op.resident && e.2.left != 0)
  !waits gr &&
  s.grids.all (fun e => e.1 == gr || e.2.left == 0 || waits e.1 ||
    decide (gridPrio s e.2 < gridPrio s g) || (gridPrio s e.2 == gridPrio s g && decide (gr < e.1)) || !fitsNow s e.1)

/-- The placer takes the head gang of a grid (R213, R214). -/
def execGangPlace (s : State) : Out :=
  .next (match s.grids.find s.inp.n1 with
  | none => s
  | some g => if g.left = 0 ∨ g.op.resident ∨ !mayServe s s.inp.n1 g then s else (placeNext s s.inp.n1).1)

/-- A resident grid is placed whole (R223); where it does not fit only a rail may begin to rise. -/
def execResidentGridPlace (s : State) : Out :=
  .next (match s.grids.find s.inp.n1 with
  | none => s
  | some g =>
    if g.left = 0 ∨ !g.op.resident ∨ !mayServe s s.inp.n1 g then s
    else match placeMany s.inp.n1 g.left s with
    | (s1, true) => s1
    | (s1, false) =>
      let ts := s1.pow.target.foldl (fun m t => if t.2.2 then m else FMap.put m t.1 t.2) s.pow.target
      { s with pow := { s.pow with target := ts } })

/-! ## What fits on the empty device (R211, R223) -/

/-- Gangs of a kernel that fit on an empty quill. -/
def perQuill (k : Kernel) : Nat :=
  let r := (k.units.zip quillUnits).foldl (fun a p => if p.1 = 0 then a else min a (p.2 / p.1)) (32 / k.warps)
  if k.hasNib then min 1 r else r

/-- Folio gangs that fit on an empty folio, each on the lowest quills with room as the placer takes them (log 89); at most 8 (R204). -/
def perFolio (m : Nat) : Nat → List Nat → Nat
  | 0, _ => 0
  | n + 1, room =>
    let free := ((List.range 8).filter (fun j => room.getD j 0 != 0)).take m
    if free.length < m then 0 else 1 + perFolio m n (room.zipIdx.map (fun p => if free.contains p.2 then p.1 - 1 else p.1))

/-- Every gang of a grid fits on the empty device at once (R223). -/
def fitsEmpty (o : Oper) (k : Kernel) : Bool :=
  if k.members = 0 then decide (o.count ≤ 768 * perQuill k)
  else decide (o.count ≤ 96 * perFolio k.members 8 (List.replicate 8 (perQuill k)))

/-! ## Release (R217, R218) -/

/-- A scratchpad address that names a quill of its folio (R34). -/
def farTo (q a : Nat) : Bool := bitN a 23 && fieldN a 20 3 == q % 8

/-- An engine command has a far side, index array or arrival word on a quill of its folio (R34, R381). -/
def farOn (q : Nat) (c : EngCmd) : Bool :=
  (c.src == 1 && farTo q c.srcA.toNat) || (c.dst == 1 && farTo q c.dstA.toNat) ||
  ((c.cmd == 2 || c.cmd == 3) && farTo q c.idx) || (match c.aw with | some a => farTo q a | none => false)

/-- A matrix entry has a far operand or arrival word on a quill of its folio (R34, R370). -/
def mxFarOn (q : Nat) (e : MEnt) : Bool :=
  let word := fun (d : List Word) (i : Nat) => (d.getD i 0).toNat
  (e.aDesc.toList ++ [e.bDesc]).any (fun d => decide (16 ≤ e.fn) && (farTo q (word d 0) || (bitN (word d 1) 15 && farTo q (word d 2))))

/-- Commands of a quill's streams. -/
def Quill.cmds (x : Quill) : List EngCmd := x.copy.cmds ++ x.gather.cmds

/-- Something is still aimed at a gang's registers, scratchpad or accumulator store, or one of its stores has still to perform (log 22). -/
def landing (s : State) (gid : Nat) (g : Gang) : Bool :=
  let ts := g.warps ++ g.nib.toList
  let x := s.quill g.quill
  ts.any (fun t => match s.thread t with | some th => !th.mq.isEmpty | none => false) ||
  x.mx.any (fun m => m.gang == gid) || x.cmds.any (fun c => c.gang == gid) ||
  x.pq.any (fun e => decide (2 ^ 40 ≤ e.tid) && !(x.stream (engStream e.tid)).cmds.any (fun c => c.seq == e.ser)) ||
  (match g.fgang with
  | none => false
  | some f => s.gangs.any (fun e => e.2.fgang == some f && ((s.quill e.2.quill).cmds.any (fun c => c.gang == e.1 && farOn g.quill c) ||
      (s.quill e.2.quill).mx.any (fun m => m.gang == e.1 && mxFarOn g.quill m)))) ||
  s.threads.any (fun e => e.2.mq.any (fun o => o.accs.any (fun a => !a.ph.final && (match a.tgt with | .scr h _ => h == gid | _ => false))))

/-- A gang with the other members of its folio gang. -/
def membersWith (s : State) (gid : Nat) (g : Gang) : List (Nat × Gang) :=
  match g.fgang with
  | none => [(gid, g)]
  | some f => s.gangs.filter (fun e => e.2.fgang == some f)

/-- A gang's allocations return to free; those of a folio gang's members, and its folio-barrier slot, together (R218). -/
def releaseGang (s : State) (gid : Nat) : State :=
  match s.gang gid with
  | none => s
  | some g =>
    let ms := membersWith s gid g
    if !ms.all (fun e => e.2.ended && !landing s e.1 e.2) then s
    else
      let ts := ms.flatMap (fun e => e.2.warps ++ e.2.nib.toList)
      let s1 := { s with threads := s.threads.filter (fun e => !ts.contains e.1)
                         gangs := s.gangs.filter (fun e => !ms.any (fun m => m.1 == e.1))
                         fgangs := match g.fgang with | some f => FMap.del s.fgangs f | none => s.fgangs }
      dropWanted (ms.foldl (fun s m => endHold s m.2.quill) s1)

def execAllocationRelease (s : State) : Out := .next (releaseGang s s.inp.n1)

end Sys2Proof.Machine
end

