-- ==== Sys2Proof/Machine/Queues.lean ====
section
/-! DEFINITION. Queues (16 R412-R429): fetching, the packet kinds, waits and signals, copies and inkwell fills (R120, R121),
and retirement (R423, R425). -/
namespace Sys2Proof.Machine
open Sys2Proof

/-! ## Accesses of a queue's thread (R424, log 14) -/

/-- The code, detail and value of a failed operand (R425). -/
abbrev PktErr := Nat × Nat × DWord

/-- Device registers as bytes, a 64-bit word at a time: they read the same for every agent (R24). -/
def regBytes (s : State) (o n : Nat) : List Byte := (List.range (n / 8)).flatMap (fun i => toBytes 8 (regRead s (o + 8 * i) 8))

/-- Read bytes of one page at a virtual address of the queue's context. -/
def virtRead (s : State) (q va n : Nat) : State × Except PktErr (List Byte) :=
  let x := s.queue q
  match scripAddr s x.vmid x.asid va .load with
  | (s1, .error c) => (s1, .error (0x05, c, BitVec.ofNat 64 va))
  | (s1, .ok (l, pa)) =>
    if l.kind = 4 then (s1, .ok (regBytes s1 (pa - devBase) n))
    else if poisoned s1 pa n then (logPoison s1 8 pa, .error (0x06, 0x14, BitVec.ofNat 64 va)) else (s1, .ok (s1.bytes pa n))

/-- An operand that is never used (R424). -/
def badOperand (va : Nat) : Bool := fieldN va 56 8 != 0 || bitN va 55

/-- The kind and the place of a signal, or why it cannot be updated (R428). -/
def signalPlace (s : State) (q va : Nat) : State × Except PktErr (Nat × Nat) :=
  let x := s.queue q
  match scripAddr s x.vmid x.asid va .atomic with
  | (s1, .error c) => (s1, .error (0x05, c, BitVec.ofNat 64 va))
  | (s1, .ok (l, pa)) =>
    if l.kind = 1 ∨ l.kind = 4 then (s1, .error (0x0C, 0, 0))
    else if poisoned s1 pa 8 then (logPoison s1 8 pa, .error (0x06, 0x14, BitVec.ofNat 64 va))
    else (s1, .ok (l.kind, pa))

/-- Update a signal: one atomic at its home; on the host kind only the read, with the value that the write that follows stores, so that
a host write made in between is lost (R428). -/
def updateSignal (s : State) (kind pa : Nat) (f : DWord → DWord) : State × Option (Nat × DWord) :=
  let v := f (s.dword pa)
  if kind = 3 then (s, some (pa, v)) else (storeHome s pa (bytes8 v.toNat), none)

/-- Another thread of the Scriptorium is between the read and the write of this signal (R428). -/
def signalHeld (s : State) (q pa : Nat) : Bool :=
  s.scrip.q.any (fun e => e.1 != q && (match e.2.exec with | .updating _ (some w) => w.1 == pa | _ => false))

/-! ## Packets (R419, R424) -/

namespace Packet
/-- The 64-bit word at a byte of a packet. -/
def word (p : Packet) (o : Nat) : Nat := ofBytes ((p.bytes.drop o).take 8)
def kind (p : Packet) : Nat := fieldN (p.word 0) 4 4
def tag (p : Packet) : Nat := fieldN (p.word 0) 16 16

/-- Bits of the body that the kind names: bytes 8-15, 16-23 and 24-31 (R424). -/
def bodyMask (k : Nat) : List Nat :=
  let all := 2 ^ 64 - 1
  match k with
  | 1 => [all, 0x1_0000_0FFF, all]
  | 2 => [all, all, 0xFFFF_FFFF_0000_0003]
  | 3 => [all, all, 7]
  | 4 => [all, all, all]
  | 5 => [all, all, all]
  | _ => [0, 0, 0]

/-- Reserved bits of the header and the body are zero (R419, R424). -/
def clean (p : Packet) : Bool :=
  let h := p.word 0
  fieldN h 32 32 == 0 && fieldN h 8 8 == 0 && fieldN h 1 3 == 0 &&
  ([8, 16, 24].zip (bodyMask p.kind)).all (fun m => p.word m.1 &&& (2 ^ 64 - 1 - m.2) == 0)

/-- Bytes 32-47 are zero. -/
def tailClean (p : Packet) : Bool := p.word 32 == 0 && p.word 40 == 0

/-- The host interrupt asked for: launches and signals (R424). -/
def intr (p : Packet) : Bool :=
  match p.kind with
  | 1 => bitN (p.word 16) 32
  | 3 => bitN (p.word 24) 2
  | _ => false

end Packet

/-- The virtual address of a packet. -/
def Queue.packetVa (x : Queue) (p : Packet) : Nat := x.ring + 64 * p.index

/-! ## Enabling and waking (R417, R418) -/

def execQctlEnable (s : State) : Out := .next (if s.inp.n1 < 32 then enableQueue s s.inp.n1 else s)
def execQctlDisable (s : State) : Out := .next (if s.inp.n1 < 32 then disableQueue s s.inp.n1 else s)
def execQnotify (s : State) : Out := .next (if s.inp.n1 < 32 then notifyQueue s s.inp.n1 else s)

/-! ## Fetching (R420-R422) -/

/-- A fault on the ring, at a packet with a tag, which is 0 where nothing of it has been read: state 6, until the queue is disabled and
enabled again (R420). A queue that is being disabled executes nothing any more and is disabled (R417). -/
def ringFault (s : State) (q tag va cls : Nat) : State :=
  let s1 := s.modQueue q (fun x =>
    { x with state := 6, pre := [], head := [], exec := .idle, shadow := none, cur := if x.disabling then none else x.cur })
  let s2 := { s1 with st := { s1.st with inkfill := s1.st.inkfill.filter (· != q) } }
  settleDisable (eventRecord s2 q 3 tag (0x05 + 256 * cls) va) q

/-- The kind and the place of a ring address: GDDR 7 or host memory whose page permits reads and writes, not poisoned. -/
def ringPlace (s : State) (q va n : Nat) : State × Except Nat (Nat × Nat) :=
  let x := s.queue q
  match scripAddr s x.vmid x.asid va .atomic with
  | (s1, .error c) => (s1, .error c)
  | (s1, .ok (l, pa)) =>
    if l.kind ≠ 0 ∧ l.kind ≠ 3 then (s1, .error 0x0C)
    else if poisoned s1 pa n then (logPoison s1 8 pa, .error 0x14)
    else (s1, .ok (l.kind, pa))

/-- Packets read and not yet retired. -/
def Queue.ahead (x : Queue) : Nat := x.pre.length + (if x.cur.isSome then 1 else 0)

/-- The thread may fetch: it is not blocked, no fence stands among the packets read, and there is room (R412, R421, R422). -/
def mayFetch (x : Queue) : Bool :=
  x.en && x.state != 6 && !x.disabling && decide (x.ahead ≤ 16) && decide (x.ahead < x.slots) &&
  x.pre.all (fun p => p.kind != 6) &&
  (match x.exec with | .waiting _ _ => false | .fill _ => false | _ => true)

/-- The queue's thread reads the next slot (R420, R421): in GDDR 7 as one snapshot; in host memory its first eight bytes, and where they
show valid = 1 bytes 8-47, each eight bytes in a turn of their own, in rising order (log 60). -/
def fetchSlot (s : State) (q : Nat) : State :=
  let x := s.queue q
  let i := (x.retired.toNat + x.ahead) % x.slots
  let va := x.ring + 64 * i
  match ringPlace s q va 48 with
  | (s1, .error c) => ringFault s1 q (ofBytes ((x.head.drop 2).take 2)) va c
  | (s1, .ok (k, pa)) =>
    let bs := if k = 3 then x.head ++ s1.bytes (pa + x.head.length) 8 else s1.bytes pa 64
    let p : Packet := { index := i, bytes := bs }
    if !bitN (p.word 0) 0 then s1.modQueue q (fun x => { x with paused := true, lastPoll := s.tick })
    else if bs.length < 48 then s1.modQueue q (fun x => { x with head := bs })
    else s1.modQueue q (fun x => { x with pre := x.pre ++ [p], head := [], fetched := x.fetched + 1 })

def execPacketFetch (s : State) : Out :=
  let x := s.queue s.inp.n1
  .next (if mayFetch x ∧ !x.paused then fetchSlot s s.inp.n1 else s)

/-- A paused slot is read again every 42,000 ticks (R421). -/
def execPacketPoll (s : State) : Out :=
  let x := s.queue s.inp.n1
  .next (if mayFetch x ∧ x.paused ∧ x.lastPoll + 42000 ≤ s.tick then
    fetchSlot (s.modQueue s.inp.n1 (fun x => { x with paused := false })) s.inp.n1
  else s)

/-! ## Starting and retiring (R413, R423, R425, R426) -/

/-- Set the state of a queue, unless it is being disabled. -/
def Queue.show' (x : Queue) (n : BitVec 3) : Queue := { x with state := if x.disabling then 5 else n }

/-- Queues whose fill waits or runs hold back launches and copies (R120). -/
def fillWaits (s : State) : Bool := !s.st.inkfill.isEmpty

/-- A fill stands part-way: some of its lines are written. Until it ends no grid comes into flight (R120). -/
def fillPartWay (s : State) : Bool := s.st.inkfill.any (fun h => match (s.queue h).exec with
  | .fill off => off != 0
  | _ => false)

/-- The packet at the head starts: of some kinds. -/
def startPacket (s : State) (q : Nat) (kinds : List Nat) : Option (Packet × State) :=
  let x := s.queue q
  match x.cur, x.pre with
  | none, p :: r =>
    if !x.en ∨ x.disabling ∨ x.state = 6 ∨ !kinds.contains p.kind then none
    else some (p, s.setQueue q { x with cur := some p, pre := r, state := 2, exec := .idle })
  | _, _ => none

/-- The packet retires next, with a code. -/
def ending (s : State) (q code detail index : Nat) (val : DWord) : State :=
  s.modQueue q (fun x => { x.show' 2 with exec := .retiring code detail index val })

/-- The packet retires next, with a failed operand. -/
def failing (s : State) (q : Nat) (e : PktErr) : State := ending s q e.1 e.2.1 0 e.2.2

/-- The walk error of an operand that is never used (R424). -/
def operandErr (va : Nat) : PktErr := (0x05, 0x02, BitVec.ofNat 64 va)

/-- The status word (R425): flags of the grids are given with the detail, from bit 24 on. -/
def statusWord (code detail index : Nat) : Nat := code % 256 + detail % 256 * 256 + detail / 2 ^ 24 * 2 ^ 24 + index % 65536 * 2 ^ 48

/-- The value and the status word go into bytes 48-63: step 1 of R423. -/
def packetStatus (s : State) (q : Nat) (p : Packet) (val : DWord) (status : Nat) : State × Except Nat Unit :=
  let va := (s.queue q).packetVa p
  match ringPlace s q va 8 with
  | (s1, .error c) => (s1, .error c)
  | (s1, .ok (_, pa)) => (storeHome s1 (pa + 48) (bytes8 val.toNat ++ bytes8 status), .ok ())

/-- The signal of a launch packet, if it names a usable one. -/
def launchSignal (p : Packet) : Option Nat :=
  let a := p.word 24
  if p.kind = 1 ∧ a ≠ 0 ∧ a % 8 = 0 ∧ !badOperand a then some a else none

/-- The result of a packet whose signal cannot be updated: an error that it has already stands. -/
def withSignalErr (e e1 : PktErr) : PktErr := if e.1 % 256 = 0 then (e1.1, e1.2.1 + e.2.1 / 2 ^ 24 * 2 ^ 24, e1.2.2) else e

/-- Step 1 of R423, then step 2 for the packet's signal, if it has one, by `f`. The signal's place is sought first, so that its failure
enters the status. None where the packet waits for the signal. -/
def statusAndSignal (s : State) (q : Nat) (p : Packet) (e : PktErr) (index : Nat) (sig : Option Nat) (f : DWord → DWord) : Option State :=
  let va := (s.queue q).packetVa p
  match ringPlace s q va 8 with
  | (s0, .error c) => some (ringFault s0 q p.tag va c)
  | (s0, .ok _) =>
    let r : State × Except PktErr (Option (Nat × Nat)) := match sig with
      | none => (s0, .ok none)
      | some a => let x := signalPlace s0 q a; (x.1, x.2.map some)
    let e1 := match r.2 with | .error x => withSignalErr e x | .ok _ => e
    let place := match r.2 with | .ok x => x | .error _ => none
    if (match place with | some x => signalHeld s q x.2 | none => false) then none
    else
      let st := statusWord e1.1 e1.2.1 index
      match packetStatus r.1 q p e1.2.2 st with
      | (s1, .error c) => some (ringFault s1 q p.tag va c)
      | (s1, .ok ()) =>
        let u := match place with | some x => updateSignal s1 x.1 x.2 f | none => (s1, none)
        some (u.1.modQueue q (fun x => { x.show' 2 with exec := .updating st u.2 }))

/-- Steps 3-5 of R423, the event record of R426, and the end of a disable (R417). -/
def finishPacket (s : State) (q : Nat) (p : Packet) (status : Nat) : State :=
  let x := s.queue q
  let va := x.packetVa p
  match ringPlace s q va 8 with
  | (s1, .error c) => ringFault s1 q p.tag va c
  | (s1, .ok (_, pa)) =>
    let s2 := storeHome s1 pa (bytes8 (ofBytes (s1.bytes pa 8) / 2 * 2))
    let s3 := s2.modQueue q (fun x =>
      { x.show' 1 with retired := x.retired + 1, cur := none, exec := .idle
                       lasterr := if status % 256 = 0 then x.lasterr else BitVec.ofNat 8 status })
    let s4 := { s3 with st := { s3.st with inkfill := s3.st.inkfill.filter (· != q) } }
    let s5 := if p.intr then queueMsi s4 q else s4
    let s6 := if status % 256 = 0 then s5 else eventRecord s5 q 2 p.tag (status % 2 ^ 32) va
    settleDisable s6 q

/-- A finished packet retires (R423): its status and signal; then, with the second half of a host signal's update, the rest. -/
def execPacketRetire (s : State) : Out :=
  let q := s.inp.n1
  .next (match (s.queue q).exec, (s.queue q).cur with
  | .retiring code detail index val, some p =>
    (statusAndSignal s q p (code, detail, val) index (launchSignal p) (fun x => x - 1)).getD s
  | .updating st w, some p =>
    finishPacket (match w with | some x => storeHome s x.1 (bytes8 x.2.toNat) | none => s) q p st
  | _, _ => s)

/-! ## No-op, fence, reserved kinds (R422, R424) -/

/-- A packet whose reserved bits are zero goes on; any other retires with code 0x09. -/
def checked (s : State) (q : Nat) (p : Packet) (f : State → State) : State :=
  if p.clean && p.tailClean then f s else ending s q 0x09 0 0 0

def execNoopPacket (s : State) : Out :=
  .next (match startPacket s s.inp.n1 [0] with
  | some (p, s1) => checked s1 s.inp.n1 p (fun s => ending s s.inp.n1 0 0 0 0)
  | none => s)

def execFetchFence (s : State) : Out :=
  .next (match startPacket s s.inp.n1 [6] with
  | some (p, s1) => checked s1 s.inp.n1 p (fun s =>
      ending (s.modQueue s.inp.n1 (fun x => { x with pre := [], head := [], paused := false })) s.inp.n1 0 0 0 0)
  | none => s)

def execReservedPacket (s : State) : Out :=
  .next (match startPacket s s.inp.n1 [7, 8, 9, 10, 11, 12, 13, 14, 15] with
  | some (_, s1) => ending s1 s.inp.n1 0x09 0 0 0
  | none => s)

/-! ## Waits (R427) -/

/-- The comparison of a wait packet. -/
def waitHolds (cond : Nat) (x v : DWord) : Bool :=
  match cond with
  | 0 => x == v
  | 1 => x != v
  | 2 => decide (x.toInt < v.toInt)
  | _ => decide (v.toInt ≤ x.toInt)

/-- Evaluate a wait: an acquire at system scope. -/
def evalWait (s : State) (q : Nat) (p : Packet) (since : Nat) : State :=
  match virtRead s q (p.word 8) 8 with
  | (s1, .error e) => failing s1 q e
  | (s1, .ok bs) =>
    let v := BitVec.ofNat 64 (ofBytes bs)
    if waitHolds (fieldN (p.word 24) 0 2) v (BitVec.ofNat 64 (p.word 16)) then ending s1 q 0 0 0 0
    else s1.modQueue q (fun x => { x.show' 3 with exec := .waiting since v, lastEval := s.tick })

/-- A signal operand of a wait or signal packet that gives code 0x09 (R428). -/
def badSignal (a : Nat) : Bool := a == 0 || a % 8 != 0

def execWaitPacket (s : State) : Out :=
  .next (match startPacket s s.inp.n1 [2] with
  | some (p, s1) => checked s1 s.inp.n1 p (fun s =>
      if badSignal (p.word 8) then ending s s.inp.n1 0x09 0 0 0
      else if badOperand (p.word 8) then failing s s.inp.n1 (operandErr (p.word 8))
      else evalWait s s.inp.n1 p s.tick)
  | none => s)

def execWaitEvaluate (s : State) : Out :=
  .next (match (s.queue s.inp.n1).exec, (s.queue s.inp.n1).cur with
  | .waiting t _, some p => evalWait s s.inp.n1 p t
  | _, _ => s)

/-- A nonzero timeout has passed: code 0x08 with the last value read (R427). -/
def execWaitTimeout (s : State) : Out :=
  .next (match (s.queue s.inp.n1).exec, (s.queue s.inp.n1).cur with
  | .waiting t v, some p =>
    let d := fieldN (p.word 24) 32 32
    if d ≠ 0 ∧ t + d * 4096 ≤ s.tick then ending s s.inp.n1 0x08 0 0 v else s
  | _, _ => s)

/-! ## Signals (R428) -/

/-- A signal packet of some operations: its status is written, then its signal changes (R423); it waits where another thread of the
Scriptorium is updating the same host signal. -/
def signalPacket (s : State) (ops : List Nat) (f : DWord → DWord → DWord) : State :=
  let q := s.inp.n1
  match (s.queue q).pre with
  | [] => s
  | h :: _ =>
    if !ops.contains (fieldN (h.word 24) 0 2) then s
    else match startPacket s q [3] with
    | none => s
    | some (p, s1) => checked s1 q p (fun s2 =>
        if fieldN (p.word 24) 0 2 = 3 ∨ badSignal (p.word 8) then ending s2 q 0x09 0 0 0
        else if badOperand (p.word 8) then failing s2 q (operandErr (p.word 8))
        else (statusAndSignal s2 q p (0, 0, 0) 0 (some (p.word 8)) (fun x => f x (BitVec.ofNat 64 (p.word 16)))).getD s)

/-- Operation 3 is reserved and gives code 0x09. -/
def execSignalSet (s : State) : Out := .next (signalPacket s [0, 3] (fun _ v => v))
def execSignalSubtract (s : State) : Out := .next (signalPacket s [1] (fun x v => x - v))
def execSignalAdd (s : State) : Out := .next (signalPacket s [2] (fun x v => x + v))

/-! ## Copies (R429) -/

/-- The kinds of the pages of a range that translate: by the entry that the hub's TLB holds (R83), else by the tables, without entering
anything. -/
def rangeKinds (s : State) (q va len : Nat) : List Nat :=
  let x := s.queue q
  (List.range ((va % 65536 + len + 65535) / 65536)).filterMap (fun i =>
    let a := (va / 65536 + i) * 65536
    match tlbFind s hubDie x.vmid x.asid a with
    | some (l, _) => some l.kind
    | none => match (walk s [] x.vmid x.asid a).1 with
      | .ok l => some l.kind
      | .bad _ _ _ => none)

/-- A side of a copy may be of this kind (R429). -/
def copyKind (k : Nat) : Bool := k != 1 && k != 4

/-- Copy bytes in ascending order from byte `i` on; `n` are left, `u` is the unit whose poison a whole write clears. A source byte
that the copy itself has overwritten is a free value (log 31). -/
def copyLoop (s0 : State) (q src dst u : Nat) : Nat → Nat → State → State × Option PktErr
  | 0, _, s => (s, none)
  | n + 1, i, s =>
    let x := s.queue q
    match scripAddr s x.vmid x.asid (src + i) .load with
    | (s1, .error c) => (s1, some (0x05, c, BitVec.ofNat 64 i))
    | (s1, .ok (l, pa)) => match scripAddr s1 x.vmid x.asid (dst + i) .store with
      | (s2, .error c) => (s2, some (0x05, c, BitVec.ofNat 64 i))
      | (s2, .ok (ld, pd)) =>
        if !copyKind l.kind || !copyKind ld.kind then (s2, some (0x0C, 0, 0))
        else if poisoned s2 pa 1 then (logPoison s2 8 pa, some (0x06, 0x14, BitVec.ofNat 64 i))
        else
          let same := s2.byte pa = s0.byte pa
          let b := if same then s2.byte pa else Config.freeByte s2.free
          let s3 := (if same then s2 else s2.bump).setBytes pd [b]
          let s4 := if pd % u = u - 1 ∧ u ≤ i + 1 then
              { s3 with st := { s3.st with poison := s3.st.poison.filter (fun e => !(e.1 == pd + 1 - u && e.2 == u)) } }
            else s3
          copyLoop s0 q src dst u n (i + 1) s4

/-- A copy that has moved its bytes, or met an error. -/
def afterCopy (r : State × Option PktErr) (q : Nat) : State :=
  match r.2 with
  | none => ending r.1 q 0 0 0 0
  | some e => failing r.1 q e

def execCopyPacket (s : State) : Out :=
  let q := s.inp.n1
  .next (if fillWaits s then
      (match (s.queue q).cur, (s.queue q).pre with
      | none, p :: _ => if p.kind = 4 then s.modQueue q (fun x => x.show' 4) else s
      | _, _ => s)
    else match startPacket s q [4] with
    | none => s
    | some (p, s1) => checked s1 q p (fun s =>
        let src := p.word 8
        let dst := p.word 16
        let len := p.word 24
        if len = 0 ∨ 2 ^ 40 < len then ending s q 0x09 0 0 0
        else if badOperand src then failing s q (operandErr src)
        else if badOperand dst then failing s q (operandErr dst)
        else if (rangeKinds s q src len ++ rangeKinds s q dst len).any (fun k => !copyKind k) then ending s q 0x0C 0 0 0
        else afterCopy (copyLoop s q src dst 64 len 0 s) q))

/-! ## Inkwell fills (R120, R121) -/

/-- A fill reaches the head of its queue: it waits, and holds launches and copies back. -/
def execInkwellFillPacket (s : State) : Out :=
  let q := s.inp.n1
  .next (match startPacket s q [5] with
  | none => s
  | some (p, s1) => checked s1 q p (fun s =>
      let src := p.word 8
      let dst := p.word 16
      if p.word 24 % 128 ≠ 0 ∨ src % 128 ≠ 0 ∨ dst % 128 ≠ 0 then ending s q 0x0B 0 0 0
      else if badOperand src then failing s q (operandErr src)
      else if badOperand dst then failing s q (operandErr dst)
      else
        let s2 := s.modQueue q (fun x => { x.show' 4 with exec := .fill 0 })
        { s2 with st := { s2.st with inkfill := s2.st.inkfill ++ [q] } }))

/-- Every L1 line of the inkwell kind is invalidated (R121). -/
def dropInkLines (s : State) : State :=
  { s with quills := s.quills.map (fun e => (e.1, { e.2 with cq := e.2.cq.filter (fun l =>
      !(decide (inkBase ≤ l.1 * 128) && decide (l.1 * 128 < inkBase + 6 * 2 ^ 30))) })) }

/-- A line of a fill that the fill itself has written: one of the first `n` bytes of its destination. -/
def wroteLine (s : State) (q dst n pa : Nat) : Bool :=
  let x := s.queue q
  (List.range (n / 128)).any (fun j => match (scripAddr s x.vmid x.asid (dst + 128 * j) .store).2 with
    | .ok (_, pd) => pd == pa
    | .error _ => false)

/-- What becomes of a fill: all its lines are written, it waits at an offset, or it ends there with an error. -/
inductive FillRes where
  | done
  | waits (off : Nat)
  | fails (off : Nat) (e : PktErr)
deriving DecidableEq, Repr

/-- The lines of a fill in ascending order, each whole, clearing its poison (R121); `n` are left. A line that faults, or whose source is
poisoned, is not written; one whose bank is in its refresh window, or lies on a stopped die, waits (R123, R483). A source line that the
fill itself has overwritten is a free value (log 31). -/
def fillLoop (q src dst : Nat) : Nat → Nat → State → State × FillRes
  | 0, _, s => (s, .done)
  | n + 1, i, s =>
    let x := s.queue q
    match virtRead s q (src + i) 128 with
    | (s1, .error e) => (s1, .fails i e)
    | (s1, .ok bs) => match scripAddr s1 x.vmid x.asid (src + i) .load, scripAddr s1 x.vmid x.asid (dst + i) .store with
      | (_, .ok (_, pa)), (s2, .ok (ld, pd)) =>
        if ld.kind ≠ 1 then (s2, .fails i (0x0C, 0, 0))
        else if s2.hung ∨ bankShut s pd then (s, .waits i)
        else if wroteLine s2 q dst i pa then
          fillLoop q src dst n (i + 128) (clearLine ((List.range 128).foldl (fun s k => s.bump.setBytes (pd + k) [Config.freeByte s.free]) s2) pd)
        else fillLoop q src dst n (i + 128) (clearLine (s2.setBytes pd bs) pd)
      | (_, .error c), _ => (s1, .fails i (0x05, c, BitVec.ofNat 64 (src + i)))
      | _, (s2, .error c) => (s2, .fails i (0x05, c, BitVec.ofNat 64 (dst + i)))
where
  clearLine (s : State) (pd : Nat) : State :=
    { s with st := { s.st with poison := s.st.poison.filter (fun e => !(e.1 == pd && e.2 == 128)) } }

/-- With no grid in flight the first fill runs, or goes on where it waited (R120, R121): the queue then executes (state 2 of R418). A
grid that came into flight before its first line was written holds it back again (state 4). Bytes 48-55 hold the offset for the codes
0x05 and 0x06, and zero for 0x0C (R425). -/
def execInkwellFillStart (s : State) : Out :=
  let q := s.inp.n1
  .next (match s.st.inkfill, (s.queue q).exec, (s.queue q).cur with
  | h :: _, .fill off, some p =>
    if h ≠ q then s
    else if s.grids.any (fun e => !e.2.done) then s.modQueue q (fun x => x.show' 4)
    else if off = 0 ∧ (rangeKinds s q (p.word 16) (p.word 24)).any (fun k => k != 1) then ending s q 0x0C 0 0 0
    else match fillLoop q (p.word 8) (p.word 16) ((p.word 24 - off) / 128) off s with
      | (s1, .done) => ending (dropInkLines s1) q 0 0 0 0
      | (s1, .waits i) => s1.modQueue q (fun x => { x.show' 2 with exec := .fill i })
      | (s1, .fails i e) => failing (dropInkLines s1) q (e.1, e.2.1, if e.1 = 0x0C then 0 else BitVec.ofNat 64 i)
  | _, _, _ => s)

end Sys2Proof.Machine
end

