-- ==== Sys2Proof/Machine/Launch.lean ====
section
/-! DEFINITION. Operator chains (16 R430-R432, R439, R440), kernel descriptors (20 R489, R490), the registration of segments
(R495, R496) and signed loads (R486-R494, R497). -/
namespace Sys2Proof.Machine
open Sys2Proof

/-! ## Records and descriptors (R430, R431, R489, R490) -/

/-- A field of bytes. -/
def bfield (bs : List Byte) (o n : Nat) : Nat := ofBytes ((bs.drop o).take n)

/-- The operator record of 128 bytes. -/
def operOf (bs : List Byte) : Oper :=
  let fl := bfield bs 28 4
  let n := fieldN fl 15 5
  { arg := BitVec.ofNat 64 (bfield bs 8 8), gx := bfield bs 16 4, gy := bfield bs 20 4, gz := bfield bs 24 4, order := fieldN fl 0 3,
    bx := bfield bs 32 2, by' := bfield bs 34 2, resident := bitN fl 3, join := bitN fl 4, uck := bitN fl 5,
    take := BitVec.ofNat 7 (fieldN fl 8 7),
    mbx := (List.range 16).map (fun i => if i < n then BitVec.ofNat 32 (bfield bs (64 + 4 * i) 4) else 0) }

/-- A record is invalid (R431). -/
def operBad (bs : List Byte) (o : Oper) : Bool :=
  let fl := bfield bs 28 4
  fieldN fl 6 2 != 0 || fieldN fl 20 12 != 0 || !((bs.drop 36).take 28).all (· == 0) || decide (3 < o.order) ||
  o.gx == 0 || o.gy == 0 || o.gz == 0 || decide (2 ^ 32 < o.count) ||
  (if o.order = 3 then o.bx == 0 || o.by' == 0 else o.bx != 0 || o.by' != 0) || decide (16 < fieldN fl 15 5)

/-- The kernel descriptor of 64 bytes. -/
def kernelOf (bs : List Byte) : Kernel :=
  let b := fun (o : Nat) => bfield bs o 1
  { handle := bfield bs 12 2, entry := bfield bs 4 4, nibEntry := bfield bs 8 4, warps := b 14, vregs := 8 * b 16, sregs := 16 * b 17,
    nibSregs := 16 * b 18, scr := b 20, acc := b 21, members := b 15, kid := bfield bs 0 4, mbx := b 19 }

/-- A descriptor is invalid in a context: step 1 of R490, with the ranges of R489. A field out of its range is judged here although it
also breaks a limit of R210, since step 1 comes first (log 59). -/
def kernelBad (s : State) (vmid asid : Nat) (bs : List Byte) (k : Kernel) : Bool :=
  let off := fun (e lim : Nat) => e % 4 != 0 || decide (lim ≤ e)
  k.warps == 0 || decide (16 < k.warps) || decide (8 < k.members) || decide (32 < k.scr) || decide (32 < k.acc) || k.vregs == 0 || decide (256 < k.vregs) || k.sregs == 0 ||
  decide (128 < k.sregs) || decide (128 < k.nibSregs) || decide (16 < k.mbx) ||
  !(bs.drop 22).all (· == 0) || (k.nibSregs == 0) != (k.nibEntry == 0) ||
  (match readSeg s k.handle vmid asid with
  | none => true
  | some e => off k.entry e.limit || (k.nibSregs != 0 && off k.nibEntry e.limit))

/-- The request cannot fit an empty quill, whose capacities are the limits of R210 that the ranges of R489 leave open (R211, step 2 of
R490). -/
def tooLarge (k : Kernel) : Bool := (k.units.zip quillUnits).any (fun p => decide (p.2 < p.1))

/-- Expand a record: its operator and kernel, or the error with whether the record joins (R432). A poisoned handle entry is consumed by
the Scriptorium (R131, log 61). -/
def expand (s : State) (q rec : Nat) : State × Sum (Oper × Kernel) (Nat × Nat × DWord × Bool) :=
  let x := s.queue q
  match virtRead s q rec 128 with
  | (s1, .error e) => (s1, .inr (e.1, e.2.1, e.2.2, false))
  | (s1, .ok bs) =>
    let o := operOf bs
    let kd := bfield bs 0 8
    if operBad bs o then (s1, .inr (0x03, 0, 0, o.join))
    else if badOperand kd then (s1, .inr (0x05, 0x02, BitVec.ofNat 64 kd, o.join))
    else if kd % 64 ≠ 0 then (s1, .inr (0x04, 0, 0, o.join))
    else match virtRead s1 q kd 64 with
    | (s2, .error e) => (s2, .inr (e.1, e.2.1, e.2.2, o.join))
    | (s2, .ok ds) =>
      let k := kernelOf ds
      if segPoisoned s2 k.handle then
        (logPoison s2 8 (segAddr s2 k.handle), .inr (0x06, 0x14, BitVec.ofNat 64 (segAddr s2 k.handle), o.join))
      else if kernelBad s2 x.vmid x.asid ds k then (s2, .inr (0x04, 0, 0, o.join))
      else if tooLarge k then (s2, .inr (0x01, 0, 0, o.join))
      else (s2, .inl (o, k))

/-! ## Chains (R424, R432, R439, R440) -/

/-- Records of a launch packet. -/
def chainLength (p : Packet) : Nat := fieldN (p.word 16) 0 12 + 1

/-- A launch packet starts its chain; fills that wait hold it back (R120). -/
def execLaunchPacket (s : State) : Out :=
  let q := s.inp.n1
  .next (if fillWaits s then
      (match (s.queue q).cur, (s.queue q).pre with
      | none, p :: _ => if p.kind = 1 then s.modQueue q (fun x => x.show' 4) else s
      | _, _ => s)
    else match startPacket s q [1] with
    | none => s
    | some (p, s1) => checked s1 q p (fun s =>
        if p.word 8 % 128 ≠ 0 ∨ p.word 24 % 8 ≠ 0 then ending s q 0x09 0 0 0
        else if badOperand (p.word 8) then failing s q (operandErr (p.word 8))
        else if badOperand (p.word 24) then failing s q (operandErr (p.word 24))
        else { s.modQueue q (fun x => { x.show' 2 with exec := .chain 0 0 0 0 0 false, shadow := none }) with
               grids := s.grids.filter (fun e => !(e.2.done && e.2.queue == q)) }))

/-- The next record is expanded into the shadow bank. -/
def execChainRecordExpand (s : State) : Out :=
  let q := s.inp.n1
  .next (match (s.queue q).exec, (s.queue q).cur, (s.queue q).shadow with
  | .chain n _ _ _ _ last, some p, none =>
    if last ∨ chainLength p ≤ n then s
    else
      let r := expand s q (p.word 8 + 128 * n)
      r.1.modQueue q (fun x => { x with shadow := some r.2 })
  | _, _, _ => s)

/-- Grids of a queue in flight. -/
def flying (s : State) (q : Nat) : List (Nat × Grid) := s.grids.filter (fun e => e.2.queue == q && !e.2.done)

/-- The latest grid of a queue allows the swap: it has retired, or with join has been placed whole (R432). -/
def swapReady (s : State) (q : Nat) (join : Bool) : Bool :=
  match (s.grids.filter (fun e => e.2.queue == q)).getLast? with
  | none => true
  | some (_, g) => g.done || (join && g.left == 0)

/-- The chain stops with an error at a record. -/
def stopChain (s : State) (q index code detail : Nat) (addr : DWord) : State :=
  s.modQueue q (fun x => { x with shadow := none, exec := .chain (index + 1) index code detail addr true })

/-- A new grid. -/
def newGrid (s : State) (q n : Nat) (o : Oper) (k : Kernel) : Grid :=
  { queue := q, recNo := n, op := o, ker := k, asid := (s.queue q).asid, vmid := (s.queue q).vmid, active := s.tick, next := 0,
    since := some s.tick, lastQuill := none, lastFolio := none, halt := false, overflow := false, abort := false, refused := false,
    done := false }

/-- The shadow bank swaps in: the grid becomes active, or the error found by expansion is reported (R432, R223). No grid
comes into flight while a fill stands part-way (R120). -/
def execLaunchBankSwap (s : State) : Out :=
  let q := s.inp.n1
  .next (match (s.queue q).exec, (s.queue q).shadow with
  | .chain n st _ _ _ false, some (.inr (c, d, a, join)) => if swapReady s q join ∧ (flying s q).length < 4 then stopChain s q (if c = 0 then st else n) c d a else s
  | .chain n _ _ _ _ false, some (.inl (o, k)) =>
    if !swapReady s q o.join ∨ 4 ≤ (flying s q).length ∨ fillPartWay s then s
    else if o.resident ∧ !fitsEmpty o k then stopChain s q n 0x02 0 0
    else
      let id := s.scrip.nextGrid
      let s1 := { s with grids := s.grids.put id (newGrid s q n o k), scrip := { s.scrip with nextGrid := id + 1 } }
      s1.modQueue q (fun x => { x with shadow := none, exec := .chain (n + 1) n 0 0 0 false })
  | _, _ => s)

/-- A gang of a grid is resident or saved. -/
def gridHolds (s : State) (gr : Nat) : Bool :=
  s.gangs.any (fun e => e.2.grid == gr) || s.scrip.saved.any (fun x => x.quills.any (fun q => q.gangs.any (fun e => e.2.grid == gr)))

/-- A grid retires (R219, R439): every gang has been handed over and released; release waits for the stores and commands. A grid
that ended by abort or overflow stops its chain with code 0x0A. -/
def execGridDrainComplete (s : State) : Out :=
  let gr := s.inp.n1
  .next (match s.grids.find gr with
  | none => s
  | some g =>
    if g.done ∨ g.left ≠ 0 ∨ gridHolds s gr then s
    else
      let s1 := releaseGrants (s.modGrid gr (fun x => { x with done := true, since := none }))
      if g.abort ∨ g.overflow then
        (match (s1.queue g.queue).exec with
        | .chain n st 0 _ _ _ => s1.modQueue g.queue (fun x => { x with shadow := none, exec := .chain n st 0x0A 0 0 true })
        | _ => s1)
      else s1)

/-- The flags of a chain's grids as they stand in the status word. -/
def chainFlags (s : State) (q : Nat) : Nat :=
  (s.grids.filter (fun e => e.2.queue == q)).foldl (fun a e => a ||| e.2.flags) 0

/-- A chain whose operators have all retired retires (R440). -/
def execChainRetire (s : State) : Out :=
  let q := s.inp.n1
  .next (match (s.queue q).exec, (s.queue q).cur with
  | .chain n st code detail addr last, some p =>
    if !(flying s q).isEmpty ∨ (!last ∧ n < chainLength p) then s
    else
      let s1 := ending s q code (detail + chainFlags s q) st addr
      { s1 with grids := s1.grids.filter (fun e => e.2.queue != q) }
  | _, _ => s)

/-! ## Segment requests (R53, R495, R496) -/

/-- Last handle and base of the handle table (R52). -/
def segLast (s : State) : Nat := fieldN s.xl.segtab.toNat 0 16
def segEntry (s : State) (h : Nat) : Nat := fieldN s.xl.segtab.toNat 20 32 * 2 ^ 20 + 16 * h

/-- A request block. -/
structure SegBlock where
  op : Nat
  base : Nat
  limit : Nat
  handle : Nat
  file : Nat
  flen : Nat
  dest : Nat
deriving DecidableEq, Repr

namespace SegBlock
def kind (b : SegBlock) : Nat := fieldN b.op 0 2
def sys (b : SegBlock) : Bool := bitN b.op 2
def hyp (b : SegBlock) : Bool := bitN b.op 3
def vmid (b : SegBlock) : Nat := fieldN b.op 32 6
def asid (b : SegBlock) : Nat := fieldN b.op 38 10
/-- A request that is invalid in its form. -/
def bad (b : SegBlock) : Bool :=
  fieldN b.op 5 27 != 0 || fieldN b.op 48 16 != 0 || (b.kind != 3 && (b.sys || b.hyp)) || (b.hyp && !b.sys)
/-- A segment that its entry could not hold. -/
def segBad (b : SegBlock) : Bool := b.base % 128 != 0 || decide (2 ^ 55 ≤ b.base) || b.limit % 4 != 0
end SegBlock

/-- The physical address of the request block. -/
def segBlk (s : State) : Nat := fieldN s.scrip.seg.reg.toNat 6 46 * 64

/-- Read the request block. -/
def readBlock (s : State) : SegBlock :=
  let bs := s.bytes (segBlk s) 64
  { op := bfield bs 0 8, base := bfield bs 8 8, limit := bfield bs 16 4, handle := bfield bs 20 4, file := bfield bs 24 8,
    flen := bfield bs 32 8, dest := bfield bs 40 8 }

/-- Change the request register's state. -/
def modSeg (s : State) (f : SegReq → SegReq) : State := { s with scrip := { s.scrip with seg := f s.scrip.seg } }

/-- The request ends: status into the block, then busy clears (R496). -/
def endSeg (s : State) (code index : Nat) : State :=
  modSeg (storeHome s (segBlk s + 48) (bytes8 (code + index * 2 ^ 32))) (fun x => { x with busy := false, code := code })

/-- Grids in flight. -/
def inFlight (s : State) : List Nat := (s.grids.filter (fun e => !e.2.done)).map Prod.fst

/-- A handle is free: not allocated, and after a revoke every grid then in flight has retired. -/
def handleFree (s : State) (h : Nat) : Bool :=
  !s.scrip.seg.alloc.contains h &&
  s.scrip.seg.freeing.all (fun f => f.1 != h || f.2.all (fun g => !(inFlight s).contains g))

/-- The lowest free handle. -/
def nextHandle (s : State) : Option Nat := (firstBelow (segLast s) (fun i => handleFree s (i + 1))).map (· + 1)

/-- Write a handle-table entry (R53). -/
def putEntry (s : State) (h : Nat) (b : SegBlock) (valid sys hyp : Bool) : State :=
  let f := fun (c : Bool) (n : Nat) => if c then 2 ^ n else 0
  let hi := b.limit * 2 ^ 32 + b.vmid * 2 ^ 26 + b.asid * 2 ^ 16 + f (bitN b.op 4) 3 + f hyp 2 + f sys 1 + f valid 0
  storeHome s (segEntry s h) (bytes8 b.base ++ bytes8 hi)

/-- Set the valid bit of an entry. -/
def setValid (s : State) (h : Nat) (v : Bool) : State :=
  let a := segEntry s h + 8
  storeHome s a [BitVec.ofNat 8 ((s.byte a).toNat / 2 * 2 + (if v then 1 else 0))]

/-- A request of a kind is served: its block must lie in GDDR 7 and be readable; an invalid one gives code 3. -/
def serveSeg (s : State) (kind : Nat) (f : SegBlock → State → State) : State :=
  if !s.scrip.seg.busy then s
  else
    let a := segBlk s
    if !inGddr a 64 then
      modSeg (if (kindOf a).isNone then logError s 10 (dieOfPa a) 0 0 a else s) (fun x => { x with busy := false, code := 3 })
    else
      let b := readBlock s
      if b.kind ≠ kind then s
      else if poisoned s a 64 then endSeg (logPoison s 8 a) 3 0
      else if b.bad ∨ !inGddr (segEntry s 0) (16 * (segLast s + 1)) then endSeg s 3 0
      else f b s

/-- Allocate a handle for a block's segment, not valid; none where the table is full. -/
def allocHandle (s : State) (b : SegBlock) : Option (Nat × State) :=
  match nextHandle s with
  | none => none
  | some h => some (h, modSeg (putEntry s h b false false false) (fun x =>
      { x with alloc := h :: x.alloc, freeing := x.freeing.filter (fun f => f.1 != h) }))

/-- The handle goes back to the free set (R493, R496). -/
def freeHandle (s : State) (h : Nat) : State :=
  modSeg (setValid s h false) (fun x =>
    { x with alloc := x.alloc.filter (· != h), freeing := (h, inFlight s) :: x.freeing })

def execSegreqAllocate (s : State) : Out :=
  .next (serveSeg s 0 (fun b s =>
    if b.segBad then endSeg s 3 0
    else match allocHandle s b with
    | none => endSeg s 1 0
    | some (h, s1) => endSeg (storeHome s1 (segBlk s1 + 20) (toBytes 4 h)) 0 0))

def execSegreqValidate (s : State) : Out :=
  .next (serveSeg s 1 (fun b s =>
    if s.scrip.seg.alloc.contains b.handle then endSeg (setValid s b.handle true) 0 0 else endSeg s 3 0))

def execSegreqRevoke (s : State) : Out :=
  .next (serveSeg s 2 (fun b s =>
    if s.scrip.seg.alloc.contains b.handle then endSeg (freeHandle s b.handle) 0 0 else endSeg s 3 0))

/-! ## Signed loads (R486-R494, R497) -/

/-- A section (R487). -/
structure Section' where
  kind : Nat
  foff : Nat
  fsize : Nat
  ioff : Nat
  isize : Nat
deriving DecidableEq, Repr

/-- A KXO object as bytes, with its header's fields (R486). -/
structure Kxo where
  bs : List Byte
  size : Nat
  secs : List Section'
  symoff : Nat
  nsym : Nat
  reloff : Nat
  nrel : Nat
  stroff : Nat
  sigoff : Nat
  siglen : Nat
deriving DecidableEq, Repr

/-- Section i of an object whose table starts at `o`. -/
def secOf (bs : List Byte) (o i : Nat) : Section' :=
  let a := o + 32 * i
  { kind := bfield bs a 1, foff := bfield bs (a + 4) 4, fsize := bfield bs (a + 8) 4, ioff := bfield bs (a + 12) 4,
    isize := bfield bs (a + 16) 4 }

/-- Read an object's header. -/
def kxoOf (bs : List Byte) : Kxo :=
  let w := fun (o : Nat) => bfield bs o 4
  { bs := bs, size := w 16, secs := (List.range (bfield bs 20 2)).map (secOf bs (w 24)), symoff := w 28, nsym := w 32, reloff := w 36,
    nrel := w 40, stroff := w 44, sigoff := w 48, siglen := w 52 }

/-- Sections rise without overlap and end within the image (R487). -/
def secsRise (size : Nat) : List Section' → Bool
  | [] => true
  | [x] => decide (x.ioff + x.isize ≤ size)
  | x :: y :: r => decide (x.ioff + x.isize ≤ y.ioff) && secsRise size (y :: r)

/-- The object breaks R486, R487 or R498. -/
def Kxo.bad (k : Kxo) : Bool :=
  let n := bfield k.bs 20 2
  let so := bfield k.bs 24 4
  bfield k.bs 0 4 != 0x314F_584B || bfield k.bs 4 2 != 1 || bfield k.bs 6 2 != 1 || bfield k.bs 8 8 % 0x1_0000 != 0 ||
  k.size % 0x1_0000 != 0 || n == 0 || decide (5 < n) || bfield k.bs 22 2 != 0 || bfield k.bs 56 8 != 0 ||
  !(List.range n).all (fun i => ((k.bs.drop (so + 32 * i + 1)).take 3).all (· == 0) && ((k.bs.drop (so + 32 * i + 20)).take 12).all (· == 0)) ||
  k.secs.any (fun x => decide (4 < x.kind) || x.ioff % 0x1_0000 != 0 || decide (x.isize < x.fsize) || decide (k.bs.length < x.foff + x.fsize)) ||
  (k.secs.map (fun x => x.kind)).eraseDups.length != n || !secsRise k.size k.secs ||
  (match k.secs with | x :: _ => x.kind != 0 || x.ioff != 0 | [] => true)

/-- The measurement of an object: SHA3-512 over the bytes before its signature block (R497). -/
def Kxo.measure (k : Kxo) : List Byte := Config.sha3 (k.bs.take k.sigoff)

/-- The signature block, an ML-DSA-87 signature of 4,627 bytes, verifies against the measurement with the firmware key (R497, R505). -/
def Kxo.verified (k : Kxo) (key : List Byte) : Bool :=
  k.siglen == 4627 && decide (k.sigoff + 4627 ≤ k.bs.length) && Config.verify key k.measure ((k.bs.drop k.sigoff).take 4627)

/-- A section by its kind. -/
def Kxo.section' (k : Kxo) (kind : Nat) : Option Section' := k.secs.find? (fun x => x.kind == kind)

/-- A NUL-terminated name. -/
def Kxo.name (k : Kxo) (o : Nat) : List Byte := (k.bs.drop (k.stroff + o)).takeWhile (· != 0)

/-- The name `__base`. -/
def baseName : List Byte := [0x5F, 0x5F, 0x62, 0x61, 0x73, 0x65]

/-- What a symbol gives: load value, image offset where it is defined in the object, and whether it is text (R488, R492). -/
structure SymVal where
  val : Int
  image : Option Int
  text : Bool
deriving DecidableEq, Repr

/-- Resolve a symbol; none where it is undefined and not `__base` (R488, R497). -/
def Kxo.symbol (k : Kxo) (base n : Nat) : Option SymVal :=
  let a := k.symoff + 24 * n
  let sec := bfield k.bs (a + 4) 2
  let v := bfield k.bs (a + 8) 8
  if k.nsym ≤ n then none
  else if sec = 0xFFFE then some { val := v, image := none, text := false }
  else if sec = 0xFFFF then (if k.name (bfield k.bs a 4) = baseName then some { val := base, image := none, text := false } else none)
  else match k.secs[sec]? with
  | none => none
  | some x =>
    let o := x.ioff + v
    some { val := if x.kind = 0 then o else base + o, image := some o, text := x.kind == 0 }

/-- lo and hi of a value (R277). -/
def loOf (v : Int) : Int := sext (wrapN 12 v) 12
def hiOf (v : Int) : Nat := wrapN 20 ((v - loOf v) / 4096)

/-- KX_ABS64 of a symbol with addend 0 (R492). -/
def abs64 (handle : Nat) (x : SymVal) : Nat := wrapN 64 (x.val + (if x.text then (handle : Int) * 2 ^ 32 else 0))

/-- The image offset of the first got entry that names a symbol. -/
def Kxo.gotEntry (k : Kxo) (n : Nat) : Option Nat :=
  match k.section' 3 with
  | none => none
  | some g => ((List.range (g.fsize / 8)).find? (fun i => bfield k.bs (g.foff + 8 * i) 4 == n)).map (fun i => g.ioff + 8 * i)

/-- The major of a one-word form of a relocation's type fits (R254, R492): slh, spch, or an I32 or M32 word. -/
def relWord (ty w : Nat) : Bool :=
  let maj := (if bitN w 1 then 32 else 0) + fieldN w 2 5
  if bitN w 0 then decide (6 < ty)
  else match ty with
  | 1 => maj == 3
  | 3 => maj == 4
  | 5 => maj == 4
  | 7 => true
  | 8 => true
  | _ => [2, 33, 12, 13, 14, 15, 16, 17].contains maj

/-- V of a record, or its rejection (R492, R493). -/
def Kxo.relValue (k : Kxo) (base handle ty sym : Nat) (p : Int) (add : Int) : Option Int :=
  match k.symbol base sym with
  | none => none
  | some x =>
    match ty with
    | 1 => some (x.val + add)
    | 2 => some (x.val + add)
    | 3 => x.image.map (fun o => o + add - p)
    | 4 => x.image.map (fun o => o + add - p)
    | 5 => (k.gotEntry sym).map (fun g => g + add - p)
    | 6 => (k.gotEntry sym).map (fun g => g + add - p)
    | 7 => some (x.val + add + (if x.text then (handle : Int) * 2 ^ 32 else 0))
    | 8 => some (x.val + add)
    | _ => none

/-- The accepted range of V (R492). -/
def relFits (ty : Nat) (v : Int) : Bool :=
  match ty with
  | 7 => true
  | 8 => decide (-(2 ^ 31) ≤ v) && decide (v < 2 ^ 32)
  | _ => if ty ≤ 2 then decide (0 ≤ v) && decide (v < 2 ^ 32) else decide (-(2 ^ 31) ≤ v) && decide (v < 2 ^ 31)

/-- Apply a record to the image at a physical address; none where it is rejected (R492, R493). -/
def applyRel (s : State) (k : Kxo) (dest base handle i : Nat) : Option State :=
  let r := k.reloff + 24 * i
  let wh := bfield k.bs r 4
  let ty := bfield k.bs (r + 4) 1
  let anchor := bfield k.bs (r + 12) 4
  let n := if ty = 7 then 8 else 4
  let lo := ty = 4 ∨ ty = 6
  let w := ofBytes (s.bytes (dest + wh) 4)
  let aw := ofBytes (s.bytes (dest + anchor) 4)
  if ty = 0 ∨ 8 < ty ∨ !((k.bs.drop (r + 5)).take 3).all (· == 0) ∨ wh % n ≠ 0 ∨ k.size < wh + n ∨
      (lo ∧ (k.size < anchor + 4 ∨ bitN aw 0 ∨ !relWord 3 aw)) ∨ (!lo ∧ anchor ≠ 0) ∨ !relWord ty w then none
  else match k.relValue base handle ty (bfield k.bs (r + 8) 4) (if lo then anchor else wh) (sext (bfield k.bs (r + 16) 8) 64) with
  | none => none
  | some v =>
    if !relFits ty v then none
    else if ty = 7 then some (storeHome s (dest + wh) (bytes8 (wrapN 64 v)))
    else if ty = 8 then some (storeHome s (dest + wh) (toBytes 4 (wrapN 32 v)))
    else if ty % 2 = 1 then some (storeHome s (dest + wh) (toBytes 4 (w % 2 ^ 12 + hiOf v * 2 ^ 12)))
    else some (storeHome s (dest + wh) (toBytes 4 (w % 2 ^ 17 + wrapN 12 (loOf v) * 2 ^ 17 + w / 2 ^ 29 * 2 ^ 29)))

/-- Apply the records from `i` on; `n` are left. The index of the first rejected one. -/
def applyRels (k : Kxo) (dest base handle : Nat) : Nat → Nat → State → State × Option Nat
  | 0, _, s => (s, none)
  | n + 1, i, s => match applyRel s k dest base handle i with
    | none => (s, some i)
    | some s1 => applyRels k dest base handle n (i + 1) s1

/-- Copy the sections and zero the rest of the image (R495). -/
def placeImage (s : State) (k : Kxo) (dest : Nat) : State :=
  k.secs.foldl (fun s x =>
    storeHome s (dest + x.ioff) ((k.bs.drop x.foff).take x.fsize ++ List.replicate (x.isize - x.fsize) 0)) s

/-- Fill the got; none where a symbol is unresolved (R494). -/
def fillGot (s : State) (k : Kxo) (dest base handle : Nat) : Option State :=
  match k.section' 3 with
  | none => some s
  | some g => (List.range (g.fsize / 8)).foldlM (fun s i => (k.symbol base (bfield k.bs (g.foff + 8 * i) 4)).map (fun x =>
      storeHome s (dest + g.ioff + 8 * i) (bytes8 (abs64 handle x)))) s

/-- Write the handle into every descriptor (R495). -/
def fillHandles (s : State) (k : Kxo) (dest handle : Nat) : State :=
  match k.section' 4 with
  | none => s
  | some d => (List.range (d.fsize / 64)).foldl (fun s i => storeHome s (dest + d.ioff + 64 * i + 12) (toBytes 2 handle)) s

/-- The pages of the segment are mapped without write permission in the owning context, and for hyp as supervisor pages (R497). -/
def pagesSealed (s : State) (b : SegBlock) (limit : Nat) : Bool :=
  (List.range ((limit + 65535) / 65536)).all (fun i => match (walk s [] b.vmid b.asid (b.base + 65536 * i)).1 with
    | .ok l => !l.w && (!b.hyp || !l.user)
    | .bad _ _ _ => false)

/-- A range of bytes that lies in memory of one kind (R39). -/
def rangeKind (pa n : Nat) : Option Nat :=
  match kindOf pa with
  | none => none
  | some k => if kindOf (pa + n - 1) = some k ∧ (k ≠ 0 ∨ pa + n ≤ 2 ^ 38) then some k else none

/-- A range meets a home on a stopped die (R483). -/
def rangeStopped (s : State) (pa n : Nat) : Bool :=
  s.pow.trips != 0 && (List.range (n / 1024 + 2)).any (fun i => decide (1024 * i < n + 1024) && homeStopped s (pa + min (1024 * i) (n - 1)))

/-- The address of the level-0 entry of an address in a context (R59). -/
def leafSlot (s : State) (vmid asid va : Nat) : Option Nat :=
  match rootOf 0 (vmid == 0) (ctxDesc s [] vmid asid) with
  | .error _ => none
  | .ok t => ((tabReads s (vmid == 0) (stage1Conv s [] vmid) va 3 t).find? (fun x => x.1 == 0)).map (fun x => x.2.2.1)

/-- The leaf that maps a page of a section: text r and x, data r and w, the rest r; a page of privileged code is a supervisor page
(R63, R487). The policy is the highest of the kind (log 78). -/
def sectionLeaf (b : SegBlock) (sec kind pa : Nat) : Nat :=
  pa + topPolicy kind * 2 ^ 11 + kind * 2 ^ 8 + (if b.sys then 0 else 2 ^ 5) + (if sec = 0 then 2 ^ 4 else 0) +
    (if sec = 2 then 2 ^ 3 else 0) + 7

/-- An address that a leaf of stage 1 may hold leads to a physical page: itself in a native context, by stage 2 in a guest (R71). -/
def leadsTo (s : State) (vmid a pa : Nat) : Bool :=
  if vmid = 0 then a == pa
  else match walk2 s [] vmid a with
    | .ok (e, l, _) => leafPage e l a == pa
    | .error _ => false

/-- Map a page of an image where its level-0 table stands (R495): a leaf that names the page, in a guest by the guest-physical address
that its old leaf held or by the page's own number, whichever stage 2 leads to the page (log 78). -/
def mapPage (b : SegBlock) (kind sec o : Nat) (s : State) : State :=
  let pa := b.dest + o
  match leafSlot s b.vmid b.asid (b.base + o) with
  | none => s
  | some a => match [fieldN (s.dword a).toNat 16 36 * 65536, pa].find? (fun g => leadsTo s b.vmid g pa) with
    | some g => storeHome s a (bytes8 (sectionLeaf b sec kind g))
    | none => s

/-- Map the pages of an image by the kinds of its sections (R487, R495). -/
def mapImage (s : State) (b : SegBlock) (k : Kxo) : State :=
  let kind := (rangeKind b.dest k.size).getD 0
  k.secs.foldl (fun s x => (List.range ((x.isize + 65535) / 65536)).foldl (fun s i => mapPage b kind x.kind (x.ioff + 65536 * i) s) s) s

/-- The first page of an image that does not lead to its place with the rights of its section (R487, R495). -/
def unmapped (s : State) (b : SegBlock) (k : Kxo) : Option Nat :=
  (k.secs.flatMap (fun x => (List.range ((x.isize + 65535) / 65536)).map (fun i => (x.kind, x.ioff + 65536 * i)))).findSome? (fun p =>
    let va := b.base + p.2
    match (walk s [] b.vmid b.asid va).1 with
    | .ok l => if l.pa + va % 2 ^ l.sz = b.dest + p.2 ∧ l.r ∧ l.x = (p.1 == 0) ∧ l.w = (p.1 == 2) ∧ l.user = !b.sys then none else some va
    | .bad _ _ _ => some va)

/-- An image cannot be placed: its object breaks R486 or R487, its base or its destination cannot hold it (R42, R495). -/
def Kxo.misplaced (k : Kxo) (b : SegBlock) : Bool :=
  k.bad || b.base % 0x1_0000 != 0 || decide (2 ^ 32 < b.base + k.size) || b.dest % 0x1_0000 != 0 ||
  (match rangeKind b.dest k.size with
   | some 0 => false
   | some 2 => false
   | some 3 => false
   | _ => true)

/-- The image of a verified object is placed, filled, relocated and mapped, and its segment becomes valid (R495, R497). A refusal, one for
a page that cannot be mapped included, leaves no handle allocated and no page mapped (log 78); poison in the tables of that page is logged
(R131). -/
def loadImage (b : SegBlock) (k : Kxo) (s : State) : State :=
  let lim := match k.section' 0 with | some x => x.isize | none => 0
  let b1 := { b with limit := lim }
  match allocHandle s b1 with
  | none => endSeg s 1 0
  | some (h, s1) =>
    if (List.range k.nsym).any (fun i => (k.symbol b.base i).isNone) then endSeg (freeHandle s1 h) 3 0
    else match fillGot (placeImage s1 k b.dest) k b.dest b.base h with
    | none => endSeg (freeHandle s1 h) 3 0
    | some s2 => match applyRels k b.dest b.base h k.nrel 0 (fillHandles s2 k b.dest h) with
      | (s3, some i) => endSeg (freeHandle s3 h) 4 i
      | (s3, none) =>
        let s4 := mapImage s3 b k
        let out := freeHandle s3 h
        match unmapped s4 b k with
        | some va => endSeg (logWalk out (walkReads s4 [] b.vmid b.asid va)) 3 0
        | none =>
        if !pagesSealed s4 b lim then endSeg out 3 0
        else
          let s5 := putEntry s4 h b1 true b.sys b.hyp
          let s6 := { s5 with scrip := { s5.scrip with measures := s5.scrip.measures ++ [k.measure] } }
          endSeg (storeHome s6 (segBlk s6 + 20) (toBytes 4 h)) 0 0

/-- A signed load (R497): the object is measured and its signature tried before anything else of it is judged; a poisoned object, or one
that stands in device registers, is an invalid request, and one in a hole reads zero, so that its signature fails (R41, log 78). -/
def signedLoad (b : SegBlock) (s : State) : State :=
  match rangeKind b.file b.flen with
  | none => endSeg (logError s 10 (dieOfPa b.file) 0 0 b.file) 2 0
  | some 4 => endSeg s 3 0
  | some _ =>
    if rangeStopped s b.file b.flen || rangeStopped s b.dest b.flen then hangIf s true
    else if poisoned s b.file b.flen then endSeg (logPoison s 8 b.file) 3 0
    else
      let k := kxoOf (s.bytes b.file b.flen)
      if !k.verified s.host.fwKey then endSeg s 2 0
      else if k.misplaced b then endSeg s 3 0
      else loadImage b k s

def execSegreqSignedLoad (s : State) : Out := .next (serveSeg s 3 signedLoad)

end Sys2Proof.Machine
end

