-- ==== Sys2Proof/Machine/Preempt.lean ====
section
/-! DEFINITION. Pre-emption (15 R410, R411; 16 R435-R438): the choice of a partition, the exchange with the shadow banks, spill,
fill and resume, and requests through ptreq. -/
namespace Sys2Proof.Machine
open Sys2Proof

/-! ## Partitions (R435, R438) -/

/-- The quills of a partition, by position. -/
def partQuills (s : State) (p : Nat) : List Nat := (List.range (8 * partFolios s)).map (fun i => 8 * partBase s p + i)

/-- Gangs on a partition. -/
def partGangs (s : State) (p : Nat) : List (Nat × Gang) := s.gangs.filter (fun e => partOf s e.2.quill == p)

/-- The priority of a gang's queue. -/
def gangPrio (s : State) (g : Gang) : Nat := match s.grids.find g.grid with | some x => gridPrio s x | none => 0

/-- The state with a partition emptied, and every rail high enough: what R436 tries. -/
def emptied (s : State) (p : Nat) : State :=
  let s1 := { s with gangs := s.gangs.filter (fun e => partOf s e.2.quill != p)
                     fgangs := s.fgangs.filter (fun e => e.2.folio / partFolios s != partBase s p / partFolios s)
                     pow := { s.pow with optab := [], level := [] } }
  (partQuills s p).foldl endHold s1

/-! ## The choice (R436) -/

/-- A partition may be pre-empted for the head of a grid. -/
def qualifies (s : State) (gr : Nat) (g : Grid) (p : Nat) : Bool :=
  let gs := partGangs s p
  !gs.isEmpty && gs.all (fun e => decide (gangPrio s e.2 < gridPrio s g)) && !shadowHeld s p && !s.scrip.drain.contains p &&
  fitsNow (emptied s p) gr

/-- The highest gang priority of a partition. -/
def topPrio (s : State) (p : Nat) : Nat := (partGangs s p).foldl (fun a e => max a (gangPrio s e.2)) 0

/-- Its latest placement. -/
def latest (s : State) (p : Nat) : Nat := (partGangs s p).foldl (fun a e => max a e.1) 0

/-- Partition `a` is taken before `b`. -/
def takenFirst (s : State) (a b : Nat) : Bool :=
  decide (topPrio s a < topPrio s b) || (topPrio s a == topPrio s b && (decide (latest s b < latest s a) || (latest s a == latest s b && decide (a < b))))

/-- The partition that is chosen. -/
def choosePart (s : State) (gr : Nat) (g : Grid) : Option Nat :=
  match (List.range (96 / partFolios s)).filter (fun p => (togetherWith s [p]).all (qualifies s gr g)) with
  | [] => none
  | p :: r => some (r.foldl (fun a b => if takenFirst s b a then b else a) p)

/-- The head of a pre-empting queue's grid has waited too long (R436). -/
def execPreemptDelayExpiry (s : State) : Out :=
  .next (match s.grids.find s.inp.n1 with
  | none => s
  | some g => match g.since with
    | none => s
    | some t =>
      if (s.queue g.queue).ctl.getLsbD 62 ∧ g.left ≠ 0 ∧ fieldN s.scrip.ptcfg.toNat 32 16 * 4096 < s.tick - t ∧
          s.scrip.drain.isEmpty ∧ !fitsNow s s.inp.n1 then
        (match choosePart s s.inp.n1 g with
        | some p => (togetherWith s [p]).foldl startPreempt s
        | none => s)
      else s)

/-! ## Drain and exchange (R173, R410) -/

/-- A partition lies on a die that has tripped: its quills and shadow banks stand still (R483). -/
def partStopped (s : State) (p : Nat) : Bool := dieStopped s (dieOf (8 * partBase s p))

/-- The drain of a quill is complete (R173, R410): what was issued has performed, no engine fault waits for its frame, no shoot-down is in
progress. -/
def quillDrained (s : State) (q : Nat) : Bool :=
  (s.quill q).halted && (s.quill q).fault.isNone && issuedDone s q && s.threads.all (fun e => e.2.quill != q || e.2.wait != .shootdown)

/-- A quill's state as its shadow bank holds it; pins end (R300). -/
def saveQuill (s : State) (q : Nat) : SavedQuill :=
  { quill := { (s.quill q).restart with cq := [] }
    gangs := (s.gangs.filter (fun e => e.2.quill == q)).map (fun e => (e.1, { e.2 with pins := [] }))
    threads := (s.threads.filter (fun e => e.2.quill == q)).map (fun e => (e.1, abandonLoads e.2)) }

/-- An empty quill with the clocks, the refusal counts and the throttled issue of the one before it (R214, R484). -/
def emptyQuill (x : Quill) : Quill :=
  { Quill.init with div := x.div, clkAt := x.clkAt, clkTick := x.clkTick, refusals := x.refusals, issued := x.issued }

/-- Each quill of a partition exchanges its state with its shadow bank (R410; log 48). -/
def exchange (s0 : State) (p : Nat) : State :=
  let s := (partQuills s0 p).foldl forgetWalks s0
  let qs := partQuills s p
  let mine := fun (f : FGang) => f.folio / partFolios s == partBase s p / partFolios s
  let sv : Saved :=
    { part := p, shadow := true, quills := qs.map (saveQuill s),
      fgangs := (s.fgangs.filter (fun e => mine e.2)).map (fun e => (e.1, { e.2 with folio := e.2.folio - partBase s p })),
      since := s.tick }
  let want := s.scrip.ptwant.filter (· != p)
  let s1 := { s with
    gangs := s.gangs.filter (fun e => !qs.contains e.2.quill)
    threads := s.threads.filter (fun e => !qs.contains e.2.quill)
    fgangs := s.fgangs.filter (fun e => !mine e.2)
    quills := s.quills.map (fun e => if qs.contains e.1 then (e.1, emptyQuill e.2) else e)
    scrip := { s.scrip with saved := s.scrip.saved ++ [sv], drain := s.scrip.drain.filter (· != p), ptwant := want,
                            ptbusy := s.scrip.ptbusy && !want.isEmpty } }
  seekLevel (qs.foldl endHold s1) (dieOf (8 * partBase s p))

/-- After the drain the quills of a partition exchange their state with empty shadow banks. -/
def execShadowExchange (s : State) : Out :=
  let p := s.inp.n1
  .next (if s.scrip.drain.contains p ∧ !partStopped s p ∧ !shadowHeld s p ∧ (partQuills s p).all (fun q => (gangsOn s q).isEmpty || quillDrained s q) then
    exchange s p
  else s)

/-! ## Spill, fill, resume (R411, R437) -/

/-- Change a saved partition. -/
def modSaved (s : State) (i : Nat) (f : Saved → Saved) : State :=
  match s.scrip.saved[i]? with
  | some x => { s with scrip := { s.scrip with saved := setAt s.scrip.saved i (f x) } }
  | none => s

/-- The shadow banks of a partition are spilled; requests that waited for them go on (R411, R438). -/
def execStateSpill (s : State) : Out :=
  let p := s.inp.n1
  .next (match s.scrip.saved.findIdx? (fun x => x.shadow && x.part == p) with
  | some i => if partStopped s p then s else startWanted (modSaved s i (fun x => { x with shadow := false }))
  | none => s)

/-- A saved partition goes ahead of the other saved ones, and no head gang of higher priority fits (R437). -/
def goesFirst (s : State) (i : Nat) (x : Saved) : Bool :=
  s.scrip.saved.zipIdx.all (fun y => y.2 == i || decide (y.1.prio < x.prio) || (y.1.prio == x.prio && decide (i < y.2)) || y.1.settled s) &&
  s.grids.all (fun e => e.2.left == 0 || decide (gridPrio s e.2 ≤ x.prio) || !fitsNow s e.1)

/-- A saved partition enters the shadow banks of an empty partition (R411). -/
def execStateFill (s : State) : Out :=
  let p := s.inp.n2
  .next (match s.scrip.saved[s.inp.n1]? with
  | none => s
  | some x =>
    if x.shadow ∨ partStopped s p ∨ !(emptyParts s).contains p ∨ shadowHeld s p ∨ !goesFirst s s.inp.n1 x then s
    else modSaved s s.inp.n1 (fun x => { x with shadow := true, part := p }))

/-- Resident grids with a gang in a saved partition. -/
def Saved.residents (s : State) (x : Saved) : List Nat :=
  (x.quills.flatMap (fun q => q.gangs.map (fun e => e.2.grid))).eraseDups.filter (fun g =>
    match s.grids.find g with | some y => y.op.resident | none => false)

/-- The saved partitions that resume with one: those that hold the same resident grids (R198). -/
def resumeGroup (s : State) : Nat → List Nat → List Nat
  | 0, is => is
  | n + 1, is =>
    let gs := is.flatMap (fun i => match s.scrip.saved[i]? with | some x => x.residents s | none => [])
    resumeGroup s n ((List.range s.scrip.saved.length).filter (fun i => is.contains i || (match s.scrip.saved[i]? with
      | some x => (x.residents s).any (fun g => gs.contains g)
      | none => false)))

/-- A saved quill takes a place again: gangs and threads name it, and handle entries are read afresh (R57, R411). -/
def restoreQuill (s : State) (q : Nat) (x : SavedQuill) : State :=
  let old := s.quill q
  let y : Quill := { x.quill with div := old.div, clkAt := old.clkAt, clkTick := old.clkTick, refusals := old.refusals,
                                  issued := old.issued, halted := x.quill.efs.stop }
  let s1 := if x.gangs.isEmpty ∧ s.quills.find q = none then s else s.setQuill q y
  { s1 with gangs := x.gangs.foldl (fun m e => FMap.put m e.1 { e.2 with quill := q }) s1.gangs
            threads := x.threads.foldl (fun m e => FMap.put m e.1 { e.2 with quill := q, segFresh := true }) s1.threads }

/-- A saved partition runs again on the partition whose shadow banks hold it. -/
def restorePart (s : State) (x : Saved) : State :=
  let s1 := ((partQuills s x.part).zip x.quills).foldl (fun s p => restoreQuill s p.1 p.2) s
  { s1 with fgangs := x.fgangs.foldl (fun m e => FMap.put m e.1 { e.2 with folio := partBase s x.part + e.2.folio }) s1.fgangs }

/-- The level that a saved partition's gangs ask for. -/
def Saved.level (x : Saved) : Nat :=
  x.quills.foldl (fun a q => q.gangs.foldl (fun b e => if e.2.ended then b else max b (e.2.level.getD 4)) a) 0

/-- A saved partition resumes, together with those of its resident grids, once all of these are saved; requests that waited for its shadow
banks go on (R198, R437, R438). -/
def resumePart (s : State) (i p : Nat) : State :=
  match s.scrip.saved[i]? with
  | none => s
  | some x =>
    let is := resumeGroup s s.scrip.saved.length [i]
    let xs := is.filterMap (fun k => s.scrip.saved[k]?)
    let apart := fun (g : Nat) => s.gangs.any (fun e => e.2.grid == g && !e.2.ended)
    if x.part ≠ p ∨ !goesFirst s i x ∨ (xs.flatMap (fun y => y.residents s)).any apart ∨
        !xs.all (fun y => y.settled s && !partStopped s y.part) then s
    else match xs.find? (fun y => decide (dieLevel s (dieOf (8 * partBase s y.part)) < y.level)) with
    | some y => startRaise s (dieOf (8 * partBase s y.part)) y.level
    | none =>
      let keep := (s.scrip.saved.zipIdx.filter (fun y => !is.contains y.2)).map Prod.fst
      let s1 := xs.foldl restorePart { s with scrip := { s.scrip with saved := keep } }
      startWanted { s1 with pow := { s1.pow with target := s1.pow.target.filter (fun t => !t.2.2) } }

def execPartitionResume (s : State) : Out := .next (resumePart s s.inp.n1 s.inp.n2)

/-! ## Requests (R438) -/

def execPtreqPartition (s : State) : Out := .next (requestPreempt s (BitVec.ofNat 64 (2 ^ 60 + s.inp.n1 % 128)))
def execPtreqQueue (s : State) : Out := .next (requestPreempt s (BitVec.ofNat 64 (2 ^ 61 + s.inp.n1 % 32 * 2 ^ 16)))

end Sys2Proof.Machine
end

