-- ==== Sys2Proof/Machine/Power.lean ====
section
/-! DEFINITION. Rails (19 R480), sensors and hard trips (R481-R483), throttle writes (R485). -/
namespace Sys2Proof.Machine
open Sys2Proof

/-! ## Rails (R480) -/

/-- A rail settles at its raised level. -/
def execRailSettled (s : State) : Out :=
  .next (match s.pow.target.find s.inp.n1 with
  | some (l, false) =>
    { s with pow := { s.pow with level := s.pow.level.put s.inp.n1 l, target := s.pow.target.put s.inp.n1 (l, true) } }
  | _ => s)

/-- A quill adopts divisors no smaller than a level's minimums, without a rendezvous. -/
def adoptLevel (v : Nat) (s : State) (q : Nat) : State :=
  let old := (s.quill q).div
  let new := (List.range 4).map (fun d => max (old.getD d 2) (minDiv v d))
  if new = old then s else setDivs s q new

/-- A raise of a die's rail is under way, or has settled for a placement or a resumption that still waits (R480, log 29). -/
def raiseHeld (s : State) (d : Nat) : Bool :=
  match s.pow.target.find d with
  | none => false
  | some (_, false) => true
  | some (l, true) => s.grids.any (fun e => e.2.left != 0 && decide (l ≤ kernelLevel s e.2.ker) && fitsNow s e.1) ||
      s.scrip.saved.any (fun y => y.settled s && dieOf (8 * partBase s y.part) == d && decide (l ≤ y.level))

/-- The level of a die falls: every quill adopts the larger divisors, then the rail lowers. -/
def execRailLower (s : State) : Out :=
  let d := s.inp.n1
  let w := wantedLevel s d
  .next (if d < 8 ∧ !raiseHeld s d ∧ w < dieLevel s d then
    let s1 := ((List.range 96).map (fun i => 96 * d + i)).foldl (adoptLevel w) s
    { s1 with pow := { s1.pow with level := s1.pow.level.put d w, target := FMap.del s1.pow.target d } }
  else s)

/-! ## Sensors (R481, R482; log 30) -/

/-- Key of a sensor. -/
def sensorKey (die : Nat) (cur : Bool) (i : Nat) : Nat := die * 128 + (if cur then 64 else 0) + i

/-- Sensors of a kind. -/
def sensorCount (cur : Bool) : Nat := if cur then 32 else 64

/-- A reading as a number: signed for thermal sensors. -/
def reading (cur : Bool) (v : BitVec 16) : Int := if cur then v.toNat else v.toInt

/-- The margin of a kind. -/
def sensorMargin (s : State) (die : Nat) (cur : Bool) : Int :=
  let m := (marginOf s die).toNat
  if cur then fieldN m 16 16 else fieldN m 0 16

/-- Insert into a rising list. -/
def insertInt (x : Int) : List Int → List Int
  | [] => [x]
  | y :: r => if x ≤ y then x :: y :: r else y :: insertInt x r

/-- The median of some readings: of an even number, the mean of the middle two rounded down. -/
def median (xs : List Int) : Option Int :=
  let ys := xs.foldl (fun a x => insertInt x a) []
  let n := ys.length
  if n = 0 then none
  else if n % 2 = 1 then some (ys.getD (n / 2) 0)
  else some ((ys.getD (n / 2 - 1) 0 + ys.getD (n / 2) 0) / 2)

/-- A sensor after its new raw reading. -/
def sampled (x : Sensor) (v : BitVec 16) : Sensor :=
  { x with raw := v, same := if v = x.raw then x.same + 1 else 0, value := if x.sus then x.value else v }

/-- The sites next to a sensor's: two to four other sensors of its kind (R481). Which they are is free (log 30). -/
def sites (cur : Bool) (i : Nat) : List Nat :=
  let n := sensorCount cur
  let l := (((Config.sensorNeighbours cur i).filter (fun j => decide (j < n) && j != i)).eraseDups).take 4
  if l.length < 2 then [(i + 1) % n, (i + 2) % n] else l

/-- Neighbours of a sensor. -/
def neighbours (s : State) (die : Nat) (cur : Bool) (i : Nat) : List Sensor :=
  (sites cur i).map (fun j => sensorOf s (sensorKey die cur j))

/-- Readings of the neighbours that are not suspect. -/
def goodReadings (cur : Bool) (ns : List Sensor) : List Int := (ns.filter (fun n => !n.sus)).map (fun n => reading cur n.raw)

/-- Why a sensor becomes suspect: 1 stuck, 2 out of range, 3 disagreeing (R482). -/
def whySuspect (s : State) (die : Nat) (cur : Bool) (i : Nat) : Option Nat :=
  let x := sensorOf s (sensorKey die cur i)
  let ns := neighbours s die cur i
  let r := reading cur x.raw
  if 4096 ≤ x.same ∧ ns.any (fun n => decide (n.same < x.same)) then some 1
  else if (if cur then decide (6400 < r) else decide (r < -2560) || decide (9600 < r)) then some 2
  else match median (goodReadings cur ns) with
  | some m => if sensorMargin s die cur < (r - m).natAbs then some 3 else none
  | none => none

/-- A value in a sensor's format. -/
def heldTo (cur : Bool) (v : Int) : BitVec 16 := BitVec.ofInt 16 (min (if cur then 65535 else 32767) v)

/-- The used value of a sensor that does not rest on the other used values: its reading, or while it is suspect the median of at
least two good neighbours plus the margin (R482). -/
def ownUsed (s : State) (die : Nat) (cur : Bool) (i : Nat) : Option Int :=
  let x := sensorOf s (sensorKey die cur i)
  let good := goodReadings cur (neighbours s die cur i)
  if !x.sus then some (reading cur x.raw)
  else if good.length < 2 then none
  else (median good).map (fun m => m + sensorMargin s die cur)

/-- The largest of some used values. -/
def largest (xs : List Int) : Option Int :=
  match xs with
  | [] => none
  | a :: r => some (r.foldl max a)

/-- The used value of a suspect sensor, held to its format (R482). The largest used value of the kind is taken over the sensors whose
used value does not rest on this same rule; where none is left, over the values that stand (log 30). -/
def usedValue (s : State) (die : Nat) (cur : Bool) (i : Nat) : BitVec 16 :=
  let is := List.range (sensorCount cur)
  let stand := (is.filter (· != i)).map (fun j => reading cur (sensorOf s (sensorKey die cur j)).value)
  let top := (largest (is.filterMap (ownUsed s die cur))).getD ((largest stand).getD 0)
  heldTo cur ((ownUsed s die cur i).getD (top + sensorMargin s die cur))

/-- Judge the sensors of one kind of a die, all on the same readings. -/
def judge (die : Nat) (cur : Bool) (s : State) : State :=
  let is := List.range (sensorCount cur)
  let new := is.filterMap (fun i => if (sensorOf s (sensorKey die cur i)).sus then none else (whySuspect s die cur i).map (fun w => (i, w)))
  let s1 := new.foldl (fun s p =>
    let k := sensorKey die cur p.1
    logError (setSensor s k { sensorOf s k with sus := true, why := p.2 }) 5 die (k % 128) p.2 (0x2100_0000 + die * 0x1_0000 + 4 * (k % 128))) s
  let vals := is.map (fun i => if (sensorOf s1 (sensorKey die cur i)).sus then some (usedValue s1 die cur i) else none)
  (is.zip vals).foldl (fun s p => match p.2 with
    | some v => let k := sensorKey die cur p.1; setSensor s k { sensorOf s k with value := v }
    | none => s) s1

/-! ## Hard trips (R23, R483) -/

/-- Record a trip: bit of the trips register, error log, interrupt. -/
def trip (s : State) (bit die : Nat) : State :=
  if s.pow.trips.getLsbD bit then s
  else
    let t := s.pow.trips ||| (1#64 <<< bit)
    let s1 := { s with pow := { s.pow with trips := t } }
    sendMsi (logError s1 6 die 0 t.toNat 0) 0 33

/-- The used values of a die's sensors of a kind. -/
def usedValues (s : State) (die : Nat) (cur : Bool) : List Int :=
  (List.range (sensorCount cur)).map (fun i => reading cur (sensorOf s (sensorKey die cur i)).value)

/-- The sum of a die's current sensors, in 1/8 A. -/
def dieCurrent (s : State) (die : Nat) : Nat := ((usedValues s die true).foldl (· + ·) 0).toNat

/-- Reference periods of 1 ms (R15): a realignment of the tick counter changes no span of time (R23). -/
def ticksMs : Nat := 4_200_000

/-- The integral of the module's current over the last 10 ms: `t` is the end of the newest span not yet counted. -/
def railIntegral (from' : Nat) : Nat → List (Nat × Nat) → Nat
  | _, [] => 0
  | t, (a, c) :: r => if t ≤ from' then 0 else c * (t - max a from') + railIntegral from' a r

/-- Since when the current has been above 9,000 A without a break, up to now. -/
def aboveSince (now : Nat) : List (Nat × Nat) → Nat
  | [] => now
  | (a, c) :: r => if 72000 < c then aboveSince a r else now

/-- At a sample, the module's core-rail current breaks R23: above 12,000 A, above 9,000 A for more than 1 ms up to this sample, or above
9,000 A on the average of 10 ms. A value holds until the next sample. -/
def railBroken (s : State) : Bool :=
  let now := s.cycles
  (match s.pow.rail with | (_, c) :: _ => decide (96000 < c) | [] => false) ||
  decide (ticksMs < now - aboveSince now (s.pow.rail.drop 1)) ||
  decide (72000 * (10 * ticksMs) < railIntegral (now - 10 * ticksMs) now s.pow.rail)

/-- The die with the largest current sum; the lowest-numbered of equals. -/
def hottestDie (s : State) : Nat :=
  (List.range 9).foldl (fun a d => if dieCurrent s a < dieCurrent s d then d else a) 0

/-- Drop spans that ended more than 10 ms ago. -/
def recentRail (from' : Nat) : List (Nat × Nat) → List (Nat × Nat)
  | [] => []
  | (a, c) :: r => if a ≤ from' then [(a, c)] else (a, c) :: recentRail from' r

/-- The module's core-rail current: the sum over the quill dies, since power beyond the core rails feeds the hub die (R23). -/
def coreCurrent (s : State) : Nat := (List.range 8).foldl (fun a d => a + dieCurrent s d) 0

/-- One sample of a die's sensors (R481-R483). -/
def sampleDie (s : State) (die : Nat) (th cu : List Nat) : State :=
  let put := fun (cur : Bool) (s : State) (p : Nat × Nat) =>
    let k := sensorKey die cur p.2
    setSensor s k (sampled (sensorOf s k) (BitVec.ofNat 16 p.1))
  let s1 := (cu.zipIdx).foldl (put true) ((th.zipIdx).foldl (put false) s)
  let s2 := judge die true (judge die false s1)
  let s3 := { s2 with pow := { s2.pow with rail := recentRail (s.cycles - 10 * ticksMs) ((s.cycles, coreCurrent s2) :: s2.pow.rail)
                                           sampledAt := s2.pow.sampledAt.put die s.cycles } }
  let s4 := if (usedValues s3 die false).any (fun v => decide (8000 ≤ v)) then trip s3 die die else s3
  let s5 := if 12800 < dieCurrent s4 die then trip s4 (16 + die) die else s4
  if railBroken s5 then trip s5 (16 + hottestDie s5) (hottestDie s5) else s5

/-- A die's sensors are due every 1 µs, which is 4,200 reference periods (R481). -/
def sampleDue (s : State) (die : Nat) : Bool := match s.pow.sampledAt.find die with | some t => decide (t + 4200 ≤ s.cycles) | none => true

def execSensorSample (s : State) : Out :=
  .next (if s.inp.n1 < 9 ∧ sampleDue s s.inp.n1 ∧ s.inp.nums.length = 64 ∧ s.inp.nums2.length = 32 then sampleDie s s.inp.n1 s.inp.nums s.inp.nums2
  else s)

def execSensorSuspectClear (s : State) : Out := .next (clearSuspect s (sensorKey s.inp.n1 s.inp.on s.inp.n2))

/-! ## Throttles (R485) -/

def execThrottleWrite (s : State) : Out := .next (if s.inp.n1 < 1024 then writeShare s s.inp.n1 s.inp.n2 else s)

end Sys2Proof.Machine
end

