-- ==== Sys2Proof/Machine/Storage.lean ====
section
/-! DEFINITION. Poison and its table (05 R129, R130), soft errors (04 R117, 05 R125, R126), staging ownership (04 R113), the
presentation reservation (05 R132, R133), ASTC formats (05 R135) and the inkwell's windows (05 R122, R123). -/
namespace Sys2Proof.Machine
open Sys2Proof

/-! ## The poison table (R130) -/

/-- The physical address of a device address of a channel (R128, inverted). -/
def paOf (ch da : Nat) : Nat :=
  let top := da / 1024
  let x := (List.range 12).foldl (fun a k => a ^^^ fieldN (top * 64) (3 * k + 6) 3) 0
  let j := ch % 8
  let g1 := j ^^^ x
  let g0 := ch / 8 ^^^ j
  (top * 64 + g1 * 8 + g0) * 1024 + da % 1024

/-- Channel and device address of an entry. -/
def entChannel (e : Nat × Nat) : Nat := if e.2 ≤ 128 then channelOf e.1 else e.1 / 2 ^ 32
def entDa (e : Nat × Nat) : Nat := if e.2 ≤ 128 then deviceAddr e.1 else e.1 % 2 ^ 32

/-- Entries of a channel's table. -/
def chEntries (s : State) (ch : Nat) : List (Nat × Nat) :=
  s.st.poison.filter (fun e => (e.2 != 128 && !(e.2 ≤ 128 && e.1 ≥ 2 ^ 38)) && entChannel e == ch)

/-- The regions that entries of a size would merge into: size of the merged entry and its number. -/
def mergeRegions (es : List (Nat × Nat)) : List (Nat × Nat) :=
  (es.filterMap (fun e => if e.2 = 64 then some (65536, entDa e / 65536) else if e.2 = 65536 then some (2 ^ 29, entDa e / 2 ^ 29) else none)).eraseDups

/-- Entries that a region merges. -/
def regionCount (es : List (Nat × Nat)) (r : Nat × Nat) : Nat :=
  (es.filter (fun e => (if r.1 = 65536 then e.2 == 64 else e.2 == 65536) && entDa e / r.1 == r.2)).length

/-- The region that holds the most entries; the first of equals (log 26). -/
def fullest (es : List (Nat × Nat)) : Option (Nat × Nat) :=
  (mergeRegions es).foldl (fun b r => match b with
    | none => some r
    | some x => if regionCount es x < regionCount es r then some r else b) none

/-- Code of an entry's size in the error log (R503, log 80). -/
def sizeCode (n : Nat) : Nat := if n ≤ 128 then 0 else if n = 65536 then 1 else 2

/-- Merge entries of a full table until it has room, and log each merge, with no address (R130, R503; log 80). -/
def mergeTable (ch : Nat) : Nat → State → State
  | 0, s => s
  | n + 1, s =>
    let es := chEntries s ch
    if es.length < 8192 then s
    else match fullest es with
    | none => s
    | some r =>
      let gone := fun (e : Nat × Nat) => es.contains e && decide (e.2 ≤ r.1) && entDa e / r.1 == r.2
      let s1 := { s with st := { s.st with poison := s.st.poison.filter (fun e => !gone e) ++ [(ch * 2 ^ 32 + r.2 * r.1, r.1)] } }
      mergeTable ch n (logError s1 2 (ch / 8) ch (sizeCode r.1) 0)

/-- Poison the unit of a physical address: 64 bytes of GDDR 7, or an inkwell line (R125, R130). -/
def addPoison (s : State) (pa : Nat) : State :=
  let size := if pa < 2 ^ 38 then 64 else 128
  let u := pa / size * size
  if poisoned s u 1 then s
  else
    let s1 := if size = 64 then mergeTable (channelOf u) 16384 s else s
    if poisoned s1 u 1 then s1
    else logError { s1 with st := { s1.st with poison := s1.st.poison ++ [(u, size)] } } 2 (dieOfPa u) (unitOfPa u) 0 u

/-- The scrub finds a unit uncorrectable (R129). -/
def execGddrScrub (s : State) : Out :=
  .next (if s.inp.n1 < 64 ∧ s.inp.n2 < 2 ^ 32 then addPoison s (paOf s.inp.n1 s.inp.n2) else s)

/-- An entry larger than 64 bytes leaves a channel's table at the hypervisor's request (R130). -/
def execPoisonTableClear (s : State) : Out :=
  .next (match ((chEntries s s.inp.n1).filter (fun e => decide (128 < e.2)))[s.inp.n2]? with
  | some e => { s with st := { s.st with poison := s.st.poison.filter (· != e) } }
  | none => s)

/-! ## Soft errors (R117, R125, R126) -/

/-- Poison a cell of a thread. -/
def hitThread (ths : FMap Thread) (c : Cellref) : FMap Thread :=
  match c with
  | .vreg t r L => ths.change t (fun th => { th with v := setAt th.v r { th.vreg r with poison := (th.vreg r).poison ||| (1#96 <<< L) } })
  | .sreg t r => ths.change t (fun th => { th with s := setAt th.s r { th.s.getD r Thread.zeroS with poison := true } })
  | .pred t k i => ths.change t (fun th =>
      let x := th.k.getD k { bits := 0, poison := 0 }
      { th with k := setAt th.k k { x with poison := x.poison ||| (1#3 <<< i) } })
  | _ => ths

/-- Poison a cell of a gang. -/
def hitGang (gs : FMap Gang) (c : Cellref) : FMap Gang :=
  let add := fun (l : List Nat) (w : Nat) => if l.contains w then l else w :: l
  match c with
  | .acc g w => gs.change g (fun x => { x with accPoison := add x.accPoison w })
  | .scratch g w => gs.change g (fun x => { x with scrPoison := add x.scrPoison w })
  | _ => gs

/-- Change the n-th element of a list. -/
def modAt {α : Type} (l : List α) (n : Nat) (f : α → α) : List α :=
  match l[n]? with
  | some x => setAt l n (f x)
  | none => l

/-- The `n` units of the 128-byte line that holds a unit: 64-byte units of memory, 64-bit units of staging (R110, R117, R130). -/
def lineUnits (n u : Nat) : List Nat := (List.range n).map (fun i => u / n * n + i)

/-- An uncorrectable error in a cell: an L2 line, cached and dirty or staged, is poisoned whole (R110, R117). -/
def uncorrected (s : State) (c : Cellref) : State :=
  match c with
  | .l1 q line => s.modQuill q (fun x => cqDrop x line)
  | .l2Clean _ => s
  | .l2Dirty u => (lineUnits 2 u).foldl (fun s u => if u * 64 < 2 ^ 38 then addPoison s (u * 64) else s) s
  | .gddr u => if u * 64 < 2 ^ 38 then addPoison s (u * 64) else s
  | .staging k u =>
    (lineUnits 16 u).foldl (fun s u =>
      if s.st.stgPoison.contains (k, u) then s else { s with st := { s.st with stgPoison := s.st.stgPoison ++ [(k, u)] } }) s
  | .inkwell l => if kindOf (l * 128) = some 1 then addPoison s (l * 128) else s
  | .shadow n c' => { s with scrip := { s.scrip with saved := modAt s.scrip.saved n (fun v => if !v.shadow then v else
      { v with quills := v.quills.map (fun q => { q with threads := hitThread q.threads c', gangs := hitGang q.gangs c' }) }) } }
  | c => { s with threads := hitThread s.threads c, gangs := hitGang s.gangs c }

/-- Whether a saved quill's state holds a cell. -/
def savedCell (x : SavedQuill) (c : Cellref) : Bool :=
  match c with
  | .vreg t _ _ => (x.threads.find t).isSome
  | .sreg t _ => (x.threads.find t).isSome
  | .pred t _ _ => (x.threads.find t).isSome
  | .acc g _ => (x.gangs.find g).isSome
  | .scratch g _ => (x.gangs.find g).isSome
  | _ => false

/-- The quill whose shadow bank holds a cell of a saved partition (R410). -/
def shadowQuill (s : State) (v : Saved) (c : Cellref) : Nat := 8 * partBase s v.part + (v.quills.findIdx? (fun x => savedCell x c)).getD 0

/-- Kind, die and unit of a cell for the counts of corrected errors (R503). -/
def cellUnit (s : State) (c : Cellref) : Nat × Nat × Nat :=
  let quill := fun (q : Nat) => (0, dieOf q, q)
  let thread := fun (t : Nat) => quill (match s.thread t with | some th => th.quill | none => 0)
  let gang := fun (g : Nat) => quill (match s.gang g with | some x => x.quill | none => 0)
  match c with
  | .vreg t _ _ => thread t
  | .sreg t _ => thread t
  | .pred t _ _ => thread t
  | .acc g _ => gang g
  | .scratch g _ => gang g
  | .l1 q _ => quill q
  | .l2Clean l => (2, gddrDie (l * 128), homeSlice (l * 128))
  | .l2Dirty u => (2, gddrDie (u * 64), homeSlice (u * 64))
  | .gddr u => (1, gddrDie (u * 64), channelOf (u * 64))
  | .staging k _ => (2, k / 24, k)
  | .inkwell l => (4, dieOfPa (l * 128), unitOfPa (l * 128))
  | .shadow n c' => quill (match s.scrip.saved[n]? with | some v => shadowQuill s v c' | none => 0)

/-- A cell is upset: corrected and counted, or not (R117). -/
def execSoftError (s : State) : Out :=
  .next (if s.inp.on then
    let u := cellUnit s s.inp.cell
    corrected s u.1 u.2.1 u.2.2
  else uncorrected s s.inp.cell)

/-! ## Staging ownership (R113) -/

/-- The Scriptorium changes an eighth's ownership (R112, R113). -/
def execStagingOwnershipChange (s : State) : Out :=
  let w := lo32 s.inp.v1 &&& 0x83FF_3F00#32
  .next (if s.inp.n1 < 192 ∧ s.inp.n2 < 8 then changeOwner s s.inp.n1 s.inp.n2 w else s)

/-! ## The presentation reservation (R132, R133) -/

def execChrsvWrite (s : State) : Out :=
  .next (if s.inp.n1 < 64 then writeChrsv s s.inp.n1 (fieldN s.inp.v1.toNat 0 5) else s)

/-- A frame of 64 data slots ends: slots lent in it are counted, and a new share takes effect (R132, R133). -/
def execReservationFrameBoundary (s : State) : Out :=
  let x := chrsvOf s s.inp.n1
  let y : Chrsv := { x with lent := x.lent + BitVec.ofNat 32 s.inp.n2, inEffect := x.share, frames := x.frames + 1 }
  .next (if s.inp.n1 < 64 ∧ s.inp.n2 ≤ x.inEffect then { s with st := { s.st with chrsv := s.st.chrsv.put s.inp.n1 y } } else s)

/-! ## ASTC formats and inkwell windows -/

def execAstcfmtWrite (s : State) : Out := .next (if s.inp.n1 < 6 then writeAstc s s.inp.n1 s.inp.v1 else s)

/-- A bank's window opens at its tick (R122). -/
def execInkwellRefreshWindowOpen (s : State) : Out :=
  let b := s.inp.n1
  .next (if b < 192 ∧ bankQ s.tick b < 1076 ∧ !s.st.windows.contains b then
    { s with st := { s.st with windows := s.st.windows ++ [b] } }
  else s)

/-- A bank's window closes; what waited is served (R123). -/
def execInkwellRefreshWindowClose (s : State) : Out :=
  let b := s.inp.n1
  .next (if 1076 ≤ bankQ s.tick b then { s with st := { s.st with windows := s.st.windows.filter (· != b) } } else s)

end Sys2Proof.Machine
end

