-- ==== Sys2Proof/Machine/System.lean ====
section
/-! DEFINITION. System calls, trap return, exit, halt, the privileged registers and shoot-downs
(11 R306-R310; 15 R400-R404; 03 R82-R85). -/
namespace Sys2Proof.Machine
open Sys2Proof

/-! ## Calls, return, exit, halt (R307-R309) -/

def execSyscallT32 (svc : BitVec 8) (s : State) : Out :=
  instr (.syscallT32 svc) s (fun th => .after s 0x50 (th.active (0, false)) (svc.setWidth 64))
def execSyscallT64 (f : T64) (s : State) : Out :=
  instr (.syscallT64 f) s (fun th => .after s 0x50 (th.active (Instr.syscallT64 f).guard) (f.md.setWidth 64))
def execHcallT32 (svc : BitVec 8) (s : State) : Out :=
  instr (.hcallT32 svc) s (fun th => .after s 0x51 (th.active (0, false)) (svc.setWidth 64))
def execHcallT64 (f : T64) (s : State) : Out :=
  instr (.hcallT64 f) s (fun th => .after s 0x51 (th.active (Instr.hcallT64 f).guard) (f.md.setWidth 64))

/-- tret (R308): the return, or the illegal-instruction trap. -/
def doTret (s : State) (th : Thread) : Res :=
  match trapReturn s th with
  | some th' => .closed (s.setThread s.cur th')
  | none => .trap 0x01 th.mask (latchWords th.latch) 0

def execTretT32 (s : State) : Out := instr .tretT32 s (doTret s)
def execTretT64 (f : T64) (s : State) : Out := instr (.tretT64 f) s (doTret s)

/-- exit (R160, R216, R309, R406). -/
def doExit (s : State) (set : Mask) (th : Thread) : Res :=
  match checkPoint s th set with
  | some r => r
  | none =>
    match (match s.gang th.gang with | some g => g.held | none => none) with
    | some (w, key) =>
      if w = s.cur then .trap 0x44 set (key.setWidth 64) 0 else .closed (closeGang (endThread s s.cur) th.gang (gangPhase s th.gang))
    | none => .closed (closeGang (endThread s s.cur) th.gang (gangPhase s th.gang))

def execExitT32 (s : State) : Out := instr .exitT32 s (fun th => doExit s th.mask th)
def execExitT64 (f : T64) (s : State) : Out :=
  instr (.exitT64 f) s (fun th => doExit s (th.active (Instr.exitT64 f).guard) th)

def execHalt (f : T64) (s : State) : Out :=
  instr (.halt f) s (fun th => .closed (haltGang s th.gang (fun g => { g with halt := true })))

/-! ## Privileged registers (R310, R400, R404) -/

/-- Loop levels as tflse and tflhr (R310); of an offset beyond 32 bits tflse shows the low 32 (log 57). -/
def Level.se (l : Level) : DWord := join64 (BitVec.ofNat 32 l.stop) (BitVec.ofNat 32 l.start)
def Level.hr (l : Level) : DWord := join64 (l.handle.setWidth 32) l.left

/-- A level whose fields are all zero. -/
def Level.zero : Level := { handle := 0, start := 0, stop := 0, left := 0 }

/-- Read a frame register: 0-8 and 0x28-0x30; none of a frame reads zero. -/
def frameRead (f : Option Frame) (n : Nat) : DWord :=
  match f with
  | none => 0
  | some f => match n with
    | 0 => f.pc
    | 1 => (f.mask.extractLsb' 0 32).setWidth 64
    | 2 => (f.mask.extractLsb' 32 32).setWidth 64
    | 3 => (f.mask.extractLsb' 64 32).setWidth 64
    | 4 => f.cause.setWidth 64
    | 5 => f.val
    | 6 => f.syn.setWidth 64
    | 7 => f.rdom
    | 8 => f.rinfo.setWidth 64
    | 0x28 => BitVec.ofNat 64 f.levels.length
    | _ =>
      if n ≤ 0x2C then (match f.levels[n - 0x29]? with | some l => l.se | none => 0)
      else (match f.levels[n - 0x2D]? with | some l => l.hr | none => 0)

/-- Replace 32 bits of a mask. -/
def maskThird (m : Mask) (i : Nat) (w : Word) : Mask :=
  let p := fun k => if k = i then w else m.extractLsb' (32 * k) 32
  p 2 ++ p 1 ++ p 0

/-- Set the number of levels of a frame (R310). -/
def setLevels (f : Frame) (n : Nat) : Frame :=
  { f with levels := f.levels.take n ++ List.replicate (n - f.levels.length) Level.zero }

/-- Write a frame register; read-only ones keep their value. The pc keeps its low bits (log 102), and a mask word becomes clean (log 95). -/
def frameWrite (f : Frame) (n : Nat) (x : DWord) : Frame :=
  match n with
  | 0 => { f with pc := x &&& 0xFFFF_FFFF_FFFF#64 }
  | 1 => { f with mask := maskThird f.mask 0 (lo32 x), pois := f.pois &&& 6 }
  | 2 => { f with mask := maskThird f.mask 1 (lo32 x), pois := f.pois &&& 5 }
  | 3 => { f with mask := maskThird f.mask 2 (lo32 x), pois := f.pois &&& 3 }
  | 4 => { f with cause := lo32 x &&& 0xC0FF_00FF#32 }
  | 5 => { f with val := x }
  | 6 => f
  | 7 => f
  | 8 => f
  | 0x28 => setLevels f (fieldN x.toNat 0 3)
  | _ =>
    if n ≤ 0x2C then (match f.levels[n - 0x29]? with
      | some l => { f with levels := setAt f.levels (n - 0x29) { l with stop := (hi32 x).toNat, start := (lo32 x).toNat } }
      | none => f)
    else (match f.levels[n - 0x2D]? with
      | some l => { f with levels := setAt f.levels (n - 0x2D) { l with handle := x.extractLsb' 32 16, left := lo32 x } }
      | none => f)

/-- The mode whose frame a number names, with the number as in the executing mode's set (R310). -/
def frameReg (th : Thread) (n : Nat) : Option (Mode × Nat) :=
  if n ≤ 8 ∨ (0x28 ≤ n ∧ n ≤ 0x30) then some (th.mode, n)
  else if (0x10 ≤ n ∧ n ≤ 0x18) ∨ (0x38 ≤ n ∧ n ≤ 0x40) then some (.sup, n - 0x10)
  else none

/-- Frames of a mode. -/
def Thread.framesOf (th : Thread) (m : Mode) : List Frame := match m with | .user => [] | .sup => th.sup | .hyp => th.hyp

/-- sstatus (R400). -/
def sstatusOf (th : Thread) : Word :=
  BitVec.ofNat 32 (th.slot * 2 ^ 26 + th.quill * 2 ^ 16 + (if th.uck then 64 else 0) + th.sup.length)

/-- hstatus (R400). -/
def hstatusOf (th : Thread) : Word := BitVec.ofNat 32 (th.take.toNat * 2 ^ 16 + th.hyp.length)

/-- The value of a privileged register (R310). -/
def pregRead (s : State) (th : Thread) (n : Nat) : DWord :=
  match frameReg th n with
  | some (m, k) => frameRead (th.framesOf m).head? k
  | none => match n with
    | 0x20 => (sstatusOf th).setWidth 64
    | 0x21 => (hstatusOf th).setWidth 64
    | 0x22 => th.svec
    | 0x23 => th.hvec
    | 0x24 => s.xl.segtab
    | _ => 0

/-- A number names a part of a saved mask that is poisoned: its reader's register is poisoned too (R117; log 95). -/
def pregPoison (th : Thread) (n : Nat) : Bool :=
  match frameReg th n with
  | some (m, k) => decide (1 ≤ k) && decide (k ≤ 3) && (th.framesOf m).head?.any (fun f => f.pois.getLsbD (k - 1))
  | none => false

def execMfp (f : T64) (s : State) : Out :=
  instr (.mfp f) s (fun th => .done s (
    if pregPoison th f.c.toNat then th.putS f.d.toNat { val := lo32 (pregRead s th f.c.toNat), poison := true }
    else th.setSx (pregWide f.c.toNat) f.d.toNat (pregRead s th f.c.toNat)))

/-- Set the depth of a mode (R404). -/
def setDepth (fs : List Frame) (n : Nat) : List Frame :=
  if n ≤ fs.length then fs.drop (fs.length - n) else List.replicate (n - fs.length) Frame.zero ++ fs

/-- Write the number of loop levels of a frame: none where the value is illegal; without a frame nothing happens, whatever the
value (R310). -/
def writeTflcnt (th : Thread) (st : Bool) (n : Word) : Option Thread :=
  let m := if st then .sup else th.mode
  match th.framesOf m with
  | [] => some th
  | fr :: r => if n.toNat % 8 > 4 then none else some (th.setFrames m (setLevels fr (n.toNat % 8) :: r))

/-- Write sstatus or hstatus: none where the depth is illegal (R404). -/
def writeStatus (th : Thread) (hyp : Bool) (v : Word) : Option Thread :=
  let n := v.toNat % 4
  if n = 3 then none
  else if hyp then some { th with take := v.extractLsb' 16 7, hyp := setDepth th.hyp n }
  else some { th with uck := v.getLsbD 6, sup := setDepth th.sup n }

/-- Every store of a thread has performed at device scope. -/
def storesHome (th : Thread) : Bool := th.mq.all (fun o => !o.isStore || o.performed 3)

/-- The operation of a value written to xinvc, and what stands against it (R82): 1 illegal, 2 privileged. A descriptor that is not
valid is no descriptor of another guest (log 84). -/
def xinvcBad (s : State) (th : Thread) (x : DWord) : Option Nat :=
  let op := fieldN x.toNat 61 3
  let vm := fieldN x.toNat 54 6
  let asid := fieldN x.toNat 44 10
  if op ≥ 5 then some 1
  else if th.mode = .hyp then none
  else if op ≥ 2 then some 2
  else if vm ≠ th.vmid then some 2
  else
    let d := (s.dword (descAddr s asid)).toNat
    if !poisoned s (descAddr s asid) 8 ∧ bitN d 0 ∧ fieldN d 10 6 ≠ th.vmid then some 2 else none

/-- A poisoned descriptor that a write to xinvc consumes enters the error log; it is none of another guest (R131, log 61). -/
def xinvcLog (s : State) (th : Thread) (x : DWord) : State :=
  let d := descAddr s (fieldN x.toNat 44 10)
  if th.mode ≠ .hyp ∧ poisoned s d 8 then logPoison s 8 d else s

/-- A shoot-down enters the queue of the hub die (R84). -/
def queueShoot (s : State) (who : Option Nat) (op vm asid addr : Nat) : State :=
  { s with xl := { s.xl with shoots := s.xl.shoots ++ [{ who := who, op := op, vmid := vm, asid := asid, addr := addr, removed := false }] } }

/-- A write to xinvc by a thread (R82-R84). -/
def writeXinvc (s : State) (th : Thread) (x : DWord) : Res :=
  match xinvcBad s th x with
  | some 1 => .trap 0x01 th.mask (latchWords th.latch) 0
  | some _ => .trap 0x02 th.mask (latchWords th.latch) 0
  | none =>
    if !storesHome th then .stay s
    else .closed (queueShoot ((xinvcLog s th x).setThread s.cur (waitAt th .shootdown)) (some s.cur) (fieldN x.toNat 61 3) (fieldN x.toNat 54 6)
      (fieldN x.toNat 44 10) (fieldN x.toNat 0 39))

/-- Finish a write that may be illegal. -/
def orIllegal (s : State) (th : Thread) (r : Option Thread) : Res :=
  match r with
  | some th' => .done s th'
  | none => .trap 0x01 th.mask (latchWords th.latch) 0

/-- Write a privileged register (R310). A write to seginval retires once the entry that the thread may have stored stands in the table,
where later launches and transfers read it (R57, log 23). -/
def pregWrite (s : State) (th : Thread) (n : Nat) (x : DWord) : Res :=
  match n with
  | 0x28 => orIllegal s th (writeTflcnt th false (lo32 x))
  | 0x38 => orIllegal s th (writeTflcnt th true (lo32 x))
  | 0x20 => orIllegal s th (writeStatus th false (lo32 x))
  | 0x21 => orIllegal s th (writeStatus th true (lo32 x))
  | 0x22 => .done s { th with svec := x &&& 0xFFFF_FFFF_FFFF#64 }
  | 0x23 => .done s { th with hvec := x &&& 0xFFFF_FFFF_FFFF#64 }
  | 0x24 => .retire { s with xl := { s.xl with segtab := x &&& 0x000F_FFFF_FFF0_FFFF#64 } }
  | 0x25 => if storesHome th then .retire s else .stay s
  | 0x26 => writeXinvc s th x
  | _ => match frameReg th n with
    | some (m, k) => (match th.framesOf m with
      | fr :: r => .done s (th.setFrames m (frameWrite fr k x :: r))
      | [] => .retire s)
    | none => .retire s

def execMtp (f : T64) (s : State) : Out :=
  instr (.mtp f) s (fun th =>
    pregWrite s th f.c.toNat (if pregWide f.c.toNat then th.sp f.a.toNat else (th.sv f.a.toNat).setWidth 64))

/-! ## The writes as rows of their own: what the executing thread's mtp does with the value of the input -/

/-- A write by the current thread. -/
def asWrite (s : State) (f : Thread → Res) : Out :=
  match s.thread s.cur with
  | none => .fault .noThread
  | some th => if th.exited ∨ th.wait ≠ .none then .next s else settle s s.cur th (f th)

/-- seginval (R57). -/
def execSeginvalWrite (s : State) : Out := asWrite s (fun th => pregWrite s th 0x25 s.inp.v1)
def execTflcntWrite (s : State) : Out :=
  asWrite s (fun th => pregWrite s th (if s.inp.on then 0x38 else 0x28) s.inp.v1)
def execStatusDepthWrite (s : State) : Out :=
  asWrite s (fun th => pregWrite s th (if s.inp.on then 0x21 else 0x20) s.inp.v1)

/-! ## Shoot-downs (R82-R85) -/

/-- Walks in flight that could give a removed entry start again (R83 step 2). -/
def restartWalks (s : State) (h : Shoot) : State :=
  { s with xl := { s.xl with miss := s.xl.miss.map (fun e => (e.1, e.2.map (fun m =>
      if h.op = 4 ∨ m.vmid = h.vmid then { m with walking := false } else m))) } }

/-- The first shoot-down, when it has this operation, removes its entries; the Scriptorium may issue one. -/
def xinvcStep (s : State) (op : Nat) : Out :=
  .next (match s.xl.shoots with
  | h :: _ => if h.op = op ∧ !h.removed then restartWalks (shootRemove s) h else s
  | [] => if s.inp.on then queueShoot s none op s.inp.n1 s.inp.n2 s.inp.n3 else s)

def execXinvcAddress (s : State) : Out := xinvcStep s 0
def execXinvcContext (s : State) : Out := xinvcStep s 1
def execXinvcGuest (s : State) : Out := xinvcStep s 2
def execXinvcGuestPhysical (s : State) : Out := xinvcStep s 3
def execXinvcAll (s : State) : Out := xinvcStep s 4

/-- No access that used a removed entry is still to perform (R83 step 2): of threads, whose abandoned loads translate afresh; of engines,
but for what a stopped quill will translate again; stores that have left their thread or engine; requests that perform here. -/
def shootQuiet (s : State) (h : Shoot) : Bool :=
  let mine := fun (vmid asid va : Nat) => shootUses h.op h.vmid h.asid h.addr (.mem 0 0 0 vmid asid va 29)
  s.threads.all (fun e => e.2.mq.all (fun o => o.accs.all (fun a =>
    a.ph.final || a.ph == .again || !shootUses h.op h.vmid h.asid h.addr a.tgt))) &&
  s.quills.all (fun e => e.2.pq.all (fun x => !mine x.vmid x.asid x.va) &&
    (e.2.halted || (e.2.copy.cmds ++ e.2.gather.cmds).all (fun c =>
      c.buf.isEmpty && c.wrote.all (fun p => decide (p < c.e)) || !(h.op == 4 || c.vmid == h.vmid)))) &&
  s.fab.serving.all (fun v => !(h.op == 4 || v.vmid == h.vmid))

/-- domexp takes effect with a qualifying shoot-down (R85). -/
def domexpTakes (s : State) (h : Shoot) : Bool :=
  let d := s.fab.domexp.toNat
  h.op == 4 || (h.op == 2 && h.vmid == fieldN d 32 6) || (h.op == 1 && h.vmid == fieldN d 32 6 && h.asid == fieldN d 38 10)

/-- The first shoot-down retires (R83, R84). -/
def execShootdownRetire (s : State) : Out :=
  .next (match s.xl.shoots with
  | h :: r =>
    if h.removed ∧ shootQuiet s h then
      let s1 := { s with xl := { s.xl with shoots := r } }
      let s2 := if domexpTakes s h then { s1 with fab := { s1.fab with domexpEff := s1.fab.domexp } } else s1
      match h.who with
      | some t => endWait s2 t
      | none => s2
    else s
  | [] => s)

end Sys2Proof.Machine
end

