-- ==== Sys2Proof/Machine/Unit.lean ====
section
/-! DEFINITION. The prefixes of a unit (R262-R266), and the traps of words that do not execute (R54, R55, R271). -/
namespace Sys2Proof.Machine
open Sys2Proof

/-- A prefix takes its place in the unit: orphaned prefixes trap at their own address (R266); a payload that is not
legal traps at the unit (R261). -/
def prefixStep (i : Instr) (s : State) (f : Px → Px) : Out :=
  match s.thread s.cur with
  | none => .fault .noThread
  | some th =>
    if th.exited ∨ th.wait ≠ .none ∨ th.latch.closed then .next s
    else match th.latch.orphan with
    | some (r, nx) =>
      let e : Entry :=
        { cause := 0x03, orig := 0, set := th.mask, pc := th.pcO + 4 * th.latch.n, val := join64 nx (BitVec.ofNat 32 r), syn := 0 }
      .next (trapThread s s.cur th e)
    | none =>
      if i.prefixOk then
        .next (s.setThread s.cur { th with latch := { th.latch with px := f th.latch.px, n := th.latch.n + 1 } })
      else settle s s.cur th (.trap 0x01 th.mask (latchWords th.latch) 0)

def execXreg (bx ax dx : BitVec 3) (s : State) : Out :=
  prefixStep (.xreg bx ax dx) s (fun q => { q with x := some (dx, ax, bx) })

def execRmode (rm : BitVec 3) (rmset sat : Bool) (s : State) : Out :=
  prefixStep (.rmode rm rmset sat) s (fun q => { q with r := some (rm, rmset, sat) })

def execPairx (mode : BitVec 2) (s : State) : Out :=
  prefixStep (.pairx mode) s (fun q => { q with p := some mode })

def execCpol (evict policy : BitVec 2) (s : State) : Out :=
  prefixStep (.cpol evict policy) s (fun q => { q with c := some (evict, policy) })

/-- A word that is not an instruction raises the illegal-instruction trap (R271); its words are in the latch. -/
def execIllegalInstruction (s : State) : Out :=
  match s.thread s.cur with
  | none => .fault .noThread
  | some th =>
    if th.exited ∨ th.wait ≠ .none ∨ th.latch.closed then .next s
    else settle s s.cur th (.trap 0x01 th.mask (latchWords th.latch) 0)

/-- A fetch that consumes poison enters the error log: of the words, or of the handle's entry (R131, R503, log 61). -/
def logFetchPoison (s : State) (th : Thread) (o : Nat) : State :=
  match th.seg with
  | none =>
    let a := segAddr s th.pcH.toNat
    if a + 16 ≤ 2 ^ 38 ∧ poisoned s a 16 then logPoison s 3 a else s
  | some e => match translate s th .fetch th.mode (e.base + o) with
    | .hit _ pa => logPoison s 3 pa
    | _ => s

/-- A unit whose fetch faults (R54, R55, R77, R131); at an entry vector as R401. -/
def execInstructionFetchFault (s : State) : Out :=
  match s.thread s.cur with
  | none => .fault .noThread
  | some th =>
    if th.exited ∨ th.wait ≠ .none ∨ th.latch.closed then .next s
    else match th.latch.fetch with
    | none => .next s
    | some (c, v, y) =>
      let s := if c = 0x29 ∨ (c = 0x17 ∧ th.seg.isNone) then logFetchPoison s th v.toNat else s
      let e : Entry := { cause := c, orig := 0, set := th.mask, pc := th.pcO, val := v, syn := y }
      if (th.atVec = 1 ∨ th.atVec = 2) ∧ !th.nib then .next (vectorFault s s.cur th e)
      else .next (trapThread s s.cur th e)

end Sys2Proof.Machine
end

