-- ==== Sys2Proof/Machine/Dispatch.lean ====
section
/-! DEFINITION. One arm per row: its meaning, or its rejection by name. -/
namespace Sys2Proof.Machine
open Sys2Proof

/-- The meaning of every row of the opcode table. -/
def exec (i : Instr) (s : State) : Host.Outcome State Fault Refusal :=
  match i with
  | .xreg x0 x1 x2 => Sys2Proof.Machine.execXreg x0 x1 x2 s
  | .rmode x0 x1 x2 => Sys2Proof.Machine.execRmode x0 x1 x2 s
  | .pairx x0 => Sys2Proof.Machine.execPairx x0 s
  | .cpol x0 x1 => Sys2Proof.Machine.execCpol x0 x1 s
  | .saddT32 x0 x1 x2 => Sys2Proof.Machine.execSaddT32 x0 x1 x2 s
  | .saddT64 x0 => Sys2Proof.Machine.execSaddT64 x0 s
  | .ssubT32 x0 x1 x2 => Sys2Proof.Machine.execSsubT32 x0 x1 x2 s
  | .ssubT64 x0 => Sys2Proof.Machine.execSsubT64 x0 s
  | .sandT32 x0 x1 x2 => Sys2Proof.Machine.execSandT32 x0 x1 x2 s
  | .sandT64 x0 => Sys2Proof.Machine.execSandT64 x0 s
  | .sorT32 x0 x1 x2 => Sys2Proof.Machine.execSorT32 x0 x1 x2 s
  | .sorT64 x0 => Sys2Proof.Machine.execSorT64 x0 s
  | .sxorT32 x0 x1 x2 => Sys2Proof.Machine.execSxorT32 x0 x1 x2 s
  | .sxorT64 x0 => Sys2Proof.Machine.execSxorT64 x0 s
  | .sshlT32 x0 x1 x2 => Sys2Proof.Machine.execSshlT32 x0 x1 x2 s
  | .sshlT64 x0 => Sys2Proof.Machine.execSshlT64 x0 s
  | .sshrT32 x0 x1 x2 x3 => Sys2Proof.Machine.execSshrT32 x0 x1 x2 x3 s
  | .sshrT64 x0 x1 => Sys2Proof.Machine.execSshrT64 x0 x1 s
  | .smulT32 x0 x1 x2 => Sys2Proof.Machine.execSmulT32 x0 x1 x2 s
  | .smulT64 x0 => Sys2Proof.Machine.execSmulT64 x0 s
  | .sminST32 x0 x1 x2 => Sys2Proof.Machine.execSminST32 x0 x1 x2 s
  | .sminUT32 x0 x1 x2 => Sys2Proof.Machine.execSminUT32 x0 x1 x2 s
  | .sminT64 x0 x1 => Sys2Proof.Machine.execSminT64 x0 x1 s
  | .smaxST32 x0 x1 x2 => Sys2Proof.Machine.execSmaxST32 x0 x1 x2 s
  | .smaxUT32 x0 x1 x2 => Sys2Proof.Machine.execSmaxUT32 x0 x1 x2 s
  | .smaxT64 x0 x1 => Sys2Proof.Machine.execSmaxT64 x0 x1 s
  | .sdiv x0 x1 => Sys2Proof.Machine.execSdiv x0 x1 s
  | .sbf x0 x1 => Sys2Proof.Machine.execSbf x0 x1 s
  | .scnt x0 x1 => Sys2Proof.Machine.execScnt x0 x1 s
  | .sset x0 x1 x2 x3 => Sys2Proof.Machine.execSset x0 x1 x2 x3 s
  | .saddi x0 x1 x2 => Sys2Proof.Machine.execSaddi x0 x1 x2 s
  | .sandi x0 x1 x2 => Sys2Proof.Machine.execSandi x0 x1 x2 s
  | .sori x0 x1 x2 => Sys2Proof.Machine.execSori x0 x1 x2 s
  | .sshli x0 x1 x2 => Sys2Proof.Machine.execSshli x0 x1 x2 s
  | .sshri x0 x1 x2 x3 => Sys2Proof.Machine.execSshri x0 x1 x2 x3 s
  | .slh x0 x1 => Sys2Proof.Machine.execSlh x0 x1 s
  | .spch x0 x1 => Sys2Proof.Machine.execSpch x0 x1 s
  | .scmp x0 x1 x2 x3 => Sys2Proof.Machine.execScmp x0 x1 x2 x3 s
  | .ssel x0 x1 x2 x3 x4 => Sys2Proof.Machine.execSsel x0 x1 x2 x3 x4 s
  | .kop x0 x1 x2 x3 => Sys2Proof.Machine.execKop x0 x1 x2 x3 s
  | .kopKs x0 x1 => Sys2Proof.Machine.execKopKs x0 x1 s
  | .kopSk x0 x1 => Sys2Proof.Machine.execKopSk x0 x1 s
  | .msplit x0 x1 x2 => Sys2Proof.Machine.execMsplit x0 x1 x2 s
  | .mjoin x0 => Sys2Proof.Machine.execMjoin x0 s
  | .b x0 x1 x2 => Sys2Proof.Machine.execB x0 x1 x2 s
  | .call x0 x1 x2 => Sys2Proof.Machine.execCall x0 x1 x2 s
  | .jr x0 => Sys2Proof.Machine.execJr x0 s
  | .jrL x0 x1 => Sys2Proof.Machine.execJrL x0 x1 s
  | .ljmp x0 x1 x2 x3 => Sys2Proof.Machine.execLjmp x0 x1 x2 x3 s
  | .lcall x0 x1 x2 x3 => Sys2Proof.Machine.execLcall x0 x1 x2 x3 s
  | .loop x0 x1 => Sys2Proof.Machine.execLoop x0 x1 s
  | .loopCnt x0 => Sys2Proof.Machine.execLoopCnt x0 s
  | .barGang x0 => Sys2Proof.Machine.execBarGang x0 s
  | .barFol x0 => Sys2Proof.Machine.execBarFol x0 s
  | .ordbeg x0 => Sys2Proof.Machine.execOrdbeg x0 s
  | .ordend x0 => Sys2Proof.Machine.execOrdend x0 s
  | .ordrel x0 => Sys2Proof.Machine.execOrdrel x0 s
  | .phase x0 => Sys2Proof.Machine.execPhase x0 s
  | .clkdiv x0 => Sys2Proof.Machine.execClkdiv x0 s
  | .rdtick x0 x1 => Sys2Proof.Machine.execRdtick x0 x1 s
  | .inkcal x0 => Sys2Proof.Machine.execInkcal x0 s
  | .mbx x0 => Sys2Proof.Machine.execMbx x0 s
  | .ipf x0 x1 => Sys2Proof.Machine.execIpf x0 x1 s
  | .fsmov x0 x1 => Sys2Proof.Machine.execFsmov x0 x1 s
  | .dqpush x0 => Sys2Proof.Machine.execDqpush x0 s
  | .dqpop x0 => Sys2Proof.Machine.execDqpop x0 s
  | .syscallT32 x0 => Sys2Proof.Machine.execSyscallT32 x0 s
  | .syscallT64 x0 => Sys2Proof.Machine.execSyscallT64 x0 s
  | .hcallT32 x0 => Sys2Proof.Machine.execHcallT32 x0 s
  | .hcallT64 x0 => Sys2Proof.Machine.execHcallT64 x0 s
  | .tretT32 => Sys2Proof.Machine.execTretT32 s
  | .tretT64 x0 => Sys2Proof.Machine.execTretT64 x0 s
  | .exitT32 => Sys2Proof.Machine.execExitT32 s
  | .exitT64 x0 => Sys2Proof.Machine.execExitT64 x0 s
  | .halt x0 => Sys2Proof.Machine.execHalt x0 s
  | .mfp x0 => Sys2Proof.Machine.execMfp x0 s
  | .mtp x0 => Sys2Proof.Machine.execMtp x0 s
  | .vaddT32 x0 x1 x2 x3 x4 x5 => Sys2Proof.Machine.execVaddT32 x0 x1 x2 x3 x4 x5 s
  | .vaddI32 x0 x1 x2 => Sys2Proof.Machine.execVaddI32 x0 x1 x2 s
  | .vaddT64 x0 x1 => Sys2Proof.Machine.execVaddT64 x0 x1 s
  | .vsubT32 x0 x1 x2 x3 x4 x5 => Sys2Proof.Machine.execVsubT32 x0 x1 x2 x3 x4 x5 s
  | .vsubT64 x0 x1 => Sys2Proof.Machine.execVsubT64 x0 x1 s
  | .vmulT32 x0 x1 x2 x3 x4 x5 => Sys2Proof.Machine.execVmulT32 x0 x1 x2 x3 x4 x5 s
  | .vmulI32 x0 x1 x2 => Sys2Proof.Machine.execVmulI32 x0 x1 x2 s
  | .vmulT64 x0 x1 => Sys2Proof.Machine.execVmulT64 x0 x1 s
  | .vavgT32 x0 x1 x2 x3 x4 x5 => Sys2Proof.Machine.execVavgT32 x0 x1 x2 x3 x4 x5 s
  | .vavgT64 x0 x1 => Sys2Proof.Machine.execVavgT64 x0 x1 s
  | .vandT32 x0 x1 x2 x3 x4 => Sys2Proof.Machine.execVandT32 x0 x1 x2 x3 x4 s
  | .vandI32 x0 x1 x2 => Sys2Proof.Machine.execVandI32 x0 x1 x2 s
  | .vandT64 x0 => Sys2Proof.Machine.execVandT64 x0 s
  | .vorT32 x0 x1 x2 x3 x4 => Sys2Proof.Machine.execVorT32 x0 x1 x2 x3 x4 s
  | .vorI32 x0 x1 x2 => Sys2Proof.Machine.execVorI32 x0 x1 x2 s
  | .vorT64 x0 => Sys2Proof.Machine.execVorT64 x0 s
  | .vxorT32 x0 x1 x2 x3 x4 => Sys2Proof.Machine.execVxorT32 x0 x1 x2 x3 x4 s
  | .vxorI32 x0 x1 x2 => Sys2Proof.Machine.execVxorI32 x0 x1 x2 s
  | .vxorT64 x0 => Sys2Proof.Machine.execVxorT64 x0 s
  | .vandnT32 x0 x1 x2 x3 x4 => Sys2Proof.Machine.execVandnT32 x0 x1 x2 x3 x4 s
  | .vandnT64 x0 => Sys2Proof.Machine.execVandnT64 x0 s
  | .vshlT32 x0 x1 x2 x3 x4 => Sys2Proof.Machine.execVshlT32 x0 x1 x2 x3 x4 s
  | .vshlI32 x0 x1 x2 => Sys2Proof.Machine.execVshlI32 x0 x1 x2 s
  | .vshlT64 x0 => Sys2Proof.Machine.execVshlT64 x0 s
  | .vshrUT32 x0 x1 x2 x3 x4 => Sys2Proof.Machine.execVshrUT32 x0 x1 x2 x3 x4 s
  | .vshrST32 x0 x1 x2 x3 x4 => Sys2Proof.Machine.execVshrST32 x0 x1 x2 x3 x4 s
  | .vshrUI32 x0 x1 x2 => Sys2Proof.Machine.execVshrUI32 x0 x1 x2 s
  | .vshrSI32 x0 x1 x2 => Sys2Proof.Machine.execVshrSI32 x0 x1 x2 s
  | .vshrT64 x0 x1 => Sys2Proof.Machine.execVshrT64 x0 x1 s
  | .vrotT32 x0 x1 x2 x3 x4 => Sys2Proof.Machine.execVrotT32 x0 x1 x2 x3 x4 s
  | .vrotT64 x0 => Sys2Proof.Machine.execVrotT64 x0 s
  | .vminT32 x0 x1 x2 x3 x4 x5 => Sys2Proof.Machine.execVminT32 x0 x1 x2 x3 x4 x5 s
  | .vminT64 x0 x1 => Sys2Proof.Machine.execVminT64 x0 x1 s
  | .vmaxT32 x0 x1 x2 x3 x4 x5 => Sys2Proof.Machine.execVmaxT32 x0 x1 x2 x3 x4 x5 s
  | .vmaxT64 x0 x1 => Sys2Proof.Machine.execVmaxT64 x0 x1 s
  | .vabsdT32 x0 x1 x2 x3 x4 x5 => Sys2Proof.Machine.execVabsdT32 x0 x1 x2 x3 x4 x5 s
  | .vabsdT64 x0 x1 => Sys2Proof.Machine.execVabsdT64 x0 x1 s
  | .vaddaT32 x0 x1 x2 x3 => Sys2Proof.Machine.execVaddaT32 x0 x1 x2 x3 s
  | .vaddaT64 x0 => Sys2Proof.Machine.execVaddaT64 x0 s
  | .vbrevT32 x0 x1 => Sys2Proof.Machine.execVbrevT32 x0 x1 s
  | .vbrevT64 x0 x1 => Sys2Proof.Machine.execVbrevT64 x0 x1 s
  | .vcntPopT32 x0 x1 => Sys2Proof.Machine.execVcntPopT32 x0 x1 s
  | .vcntClzT32 x0 x1 => Sys2Proof.Machine.execVcntClzT32 x0 x1 s
  | .vcntCtzT32 x0 x1 => Sys2Proof.Machine.execVcntCtzT32 x0 x1 s
  | .vcntT64 x0 x1 x2 => Sys2Proof.Machine.execVcntT64 x0 x1 x2 s
  | .vmad x0 x1 x2 => Sys2Proof.Machine.execVmad x0 x1 x2 s
  | .vclamp x0 x1 x2 => Sys2Proof.Machine.execVclamp x0 x1 x2 s
  | .vshf x0 x1 => Sys2Proof.Machine.execVshf x0 x1 s
  | .vbf x0 x1 x2 => Sys2Proof.Machine.execVbf x0 x1 x2 s
  | .vbyte x0 x1 => Sys2Proof.Machine.execVbyte x0 x1 s
  | .vaddc x0 x1 => Sys2Proof.Machine.execVaddc x0 x1 s
  | .vsubb x0 x1 => Sys2Proof.Machine.execVsubb x0 x1 s
  | .vset x0 x1 x2 x3 => Sys2Proof.Machine.execVset x0 x1 x2 x3 s
  | .vdiv x0 x1 => Sys2Proof.Machine.execVdiv x0 x1 s
  | .vmulhi x0 x1 => Sys2Proof.Machine.execVmulhi x0 x1 s
  | .vmulw x0 x1 => Sys2Proof.Machine.execVmulw x0 x1 s
  | .vcmpT32 x0 x1 x2 x3 x4 x5 => Sys2Proof.Machine.execVcmpT32 x0 x1 x2 x3 x4 x5 s
  | .vcmpT64 x0 x1 x2 => Sys2Proof.Machine.execVcmpT64 x0 x1 x2 s
  | .vselT32 x0 x1 x2 x3 x4 => Sys2Proof.Machine.execVselT32 x0 x1 x2 x3 x4 s
  | .vselT64 x0 => Sys2Proof.Machine.execVselT64 x0 s
  | .vbcastT32 x0 x1 => Sys2Proof.Machine.execVbcastT32 x0 x1 s
  | .vbcastT64 x0 => Sys2Proof.Machine.execVbcastT64 x0 s
  | .vextrT32 x0 x1 x2 => Sys2Proof.Machine.execVextrT32 x0 x1 x2 s
  | .vextrT64 x0 => Sys2Proof.Machine.execVextrT64 x0 s
  | .vinsT32 x0 x1 x2 => Sys2Proof.Machine.execVinsT32 x0 x1 x2 s
  | .vinsT64 x0 => Sys2Proof.Machine.execVinsT64 x0 s
  | .vlidT32 x0 => Sys2Proof.Machine.execVlidT32 x0 s
  | .vlidT64 x0 => Sys2Proof.Machine.execVlidT64 x0 s
  | .vkvT32 x0 x1 => Sys2Proof.Machine.execVkvT32 x0 x1 s
  | .vkvT64 x0 => Sys2Proof.Machine.execVkvT64 x0 s
  | .vpermT32 x0 x1 x2 => Sys2Proof.Machine.execVpermT32 x0 x1 x2 s
  | .vswzUpT32 x0 x1 x2 => Sys2Proof.Machine.execVswzUpT32 x0 x1 x2 s
  | .vswzDnT32 x0 x1 x2 => Sys2Proof.Machine.execVswzDnT32 x0 x1 x2 s
  | .vswzXorT32 x0 x1 x2 => Sys2Proof.Machine.execVswzXorT32 x0 x1 x2 s
  | .vswzRotT32 x0 x1 x2 => Sys2Proof.Machine.execVswzRotT32 x0 x1 x2 s
  | .vpermT64 x0 => Sys2Proof.Machine.execVpermT64 x0 s
  | .vswzT64 x0 x1 => Sys2Proof.Machine.execVswzT64 x0 x1 s
  | .match_ x0 => Sys2Proof.Machine.execMatch x0 s
  | .vred x0 x1 => Sys2Proof.Machine.execVred x0 x1 s
  | .vscan x0 x1 => Sys2Proof.Machine.execVscan x0 x1 s
  | .sldM32 x0 x1 x2 x3 => Sys2Proof.Machine.execSldM32 x0 x1 x2 x3 s
  | .sldT64 x0 x1 x2 => Sys2Proof.Machine.execSldT64 x0 x1 x2 s
  | .sstM32 x0 x1 x2 x3 => Sys2Proof.Machine.execSstM32 x0 x1 x2 x3 s
  | .sstT64 x0 x1 x2 => Sys2Proof.Machine.execSstT64 x0 x1 x2 s
  | .vldM32 x0 x1 x2 x3 => Sys2Proof.Machine.execVldM32 x0 x1 x2 x3 s
  | .vldT64 x0 x1 => Sys2Proof.Machine.execVldT64 x0 x1 s
  | .vstM32 x0 x1 x2 x3 => Sys2Proof.Machine.execVstM32 x0 x1 x2 x3 s
  | .vstT64 x0 x1 => Sys2Proof.Machine.execVstT64 x0 x1 s
  | .pldM32 x0 x1 x2 x3 => Sys2Proof.Machine.execPldM32 x0 x1 x2 x3 s
  | .pldT64 x0 x1 => Sys2Proof.Machine.execPldT64 x0 x1 s
  | .pstM32 x0 x1 x2 x3 => Sys2Proof.Machine.execPstM32 x0 x1 x2 x3 s
  | .pstT64 x0 x1 => Sys2Proof.Machine.execPstT64 x0 x1 s
  | .vpf x0 x1 => Sys2Proof.Machine.execVpf x0 x1 s
  | .vatom x0 x1 x2 x3 => Sys2Proof.Machine.execVatom x0 x1 x2 x3 s
  | .satom x0 x1 x2 x3 => Sys2Proof.Machine.execSatom x0 x1 x2 x3 s
  | .xpatSet x0 => Sys2Proof.Machine.execXpatSet x0 s
  | .xpatGet x0 => Sys2Proof.Machine.execXpatGet x0 s
  | .xld x0 => Sys2Proof.Machine.execXld x0 s
  | .markT32 x0 x1 => Sys2Proof.Machine.execMarkT32 x0 x1 s
  | .markT64 x0 => Sys2Proof.Machine.execMarkT64 x0 s
  | .arwait x0 => Sys2Proof.Machine.execArwait x0 s
  | .arrive x0 => Sys2Proof.Machine.execArrive x0 s
  | .vfaddF32T32 x0 x1 x2 x3 => Sys2Proof.Machine.execVfaddF32T32 x0 x1 x2 x3 s
  | .vfaddPackedT32 x0 x1 x2 x3 x4 => Sys2Proof.Machine.execVfaddPackedT32 x0 x1 x2 x3 x4 s
  | .vfaddT64 x0 x1 => Sys2Proof.Machine.execVfaddT64 x0 x1 s
  | .vfsubF32T32 x0 x1 x2 x3 => Sys2Proof.Machine.execVfsubF32T32 x0 x1 x2 x3 s
  | .vfsubPackedT32 x0 x1 x2 x3 x4 => Sys2Proof.Machine.execVfsubPackedT32 x0 x1 x2 x3 x4 s
  | .vfsubT64 x0 x1 => Sys2Proof.Machine.execVfsubT64 x0 x1 s
  | .vfmulF32T32 x0 x1 x2 x3 => Sys2Proof.Machine.execVfmulF32T32 x0 x1 x2 x3 s
  | .vfmulPackedT32 x0 x1 x2 x3 x4 => Sys2Proof.Machine.execVfmulPackedT32 x0 x1 x2 x3 x4 s
  | .vfmulT64 x0 x1 => Sys2Proof.Machine.execVfmulT64 x0 x1 s
  | .vfminF32T32 x0 x1 x2 x3 => Sys2Proof.Machine.execVfminF32T32 x0 x1 x2 x3 s
  | .vfminPackedT32 x0 x1 x2 x3 x4 => Sys2Proof.Machine.execVfminPackedT32 x0 x1 x2 x3 x4 s
  | .vfminT64 x0 x1 => Sys2Proof.Machine.execVfminT64 x0 x1 s
  | .vfmaxF32T32 x0 x1 x2 x3 => Sys2Proof.Machine.execVfmaxF32T32 x0 x1 x2 x3 s
  | .vfmaxPackedT32 x0 x1 x2 x3 x4 => Sys2Proof.Machine.execVfmaxPackedT32 x0 x1 x2 x3 x4 s
  | .vfmaxT64 x0 x1 => Sys2Proof.Machine.execVfmaxT64 x0 x1 s
  | .vfma x0 x1 => Sys2Proof.Machine.execVfma x0 x1 s
  | .vfsgn x0 x1 => Sys2Proof.Machine.execVfsgn x0 x1 s
  | .vfclass x0 x1 => Sys2Proof.Machine.execVfclass x0 x1 s
  | .vfcmp x0 x1 x2 => Sys2Proof.Machine.execVfcmp x0 x1 x2 s
  | .vfdot2 x0 x1 => Sys2Proof.Machine.execVfdot2 x0 x1 s
  | .vfdiv x0 x1 => Sys2Proof.Machine.execVfdiv x0 x1 s
  | .vfsqrt x0 x1 => Sys2Proof.Machine.execVfsqrt x0 x1 s
  | .vfrcp x0 x1 => Sys2Proof.Machine.execVfrcp x0 x1 s
  | .vcvtT32 x0 x1 x2 x3 x4 => Sys2Proof.Machine.execVcvtT32 x0 x1 x2 x3 x4 s
  | .vcvtT64 x0 x1 x2 => Sys2Proof.Machine.execVcvtT64 x0 x1 x2 s
  | .vfrnd x0 x1 => Sys2Proof.Machine.execVfrnd x0 x1 s
  | .vbxpk x0 => Sys2Proof.Machine.execVbxpk x0 s
  | .vbxex x0 => Sys2Proof.Machine.execVbxex x0 s
  | .vdwadd x0 => Sys2Proof.Machine.execVdwadd x0 s
  | .vdwmul x0 => Sys2Proof.Machine.execVdwmul x0 s
  | .vdwnorm x0 => Sys2Proof.Machine.execVdwnorm x0 s
  | .vcred x0 x1 => Sys2Proof.Machine.execVcred x0 x1 s
  | .vtbl x0 x1 => Sys2Proof.Machine.execVtbl x0 x1 s
  | .tex x0 => Sys2Proof.Machine.execTex x0 s
  | .texl x0 => Sys2Proof.Machine.execTexl x0 s
  | .texg x0 => Sys2Proof.Machine.execTexg x0 s
  | .texf x0 => Sys2Proof.Machine.execTexf x0 s
  | .tex4 x0 => Sys2Proof.Machine.execTex4 x0 s
  | .texq x0 => Sys2Proof.Machine.execTexq x0 s
  | .mma x0 x1 x2 => Sys2Proof.Machine.execMma x0 x1 x2 s
  | .mvote x0 => Sys2Proof.Machine.execMvote x0 s
  | .aclr x0 => Sys2Proof.Machine.execAclr x0 s
  | .ald x0 => Sys2Proof.Machine.execAld x0 s
  | .ast x0 => Sys2Proof.Machine.execAst x0 s
  | .aadd x0 => Sys2Proof.Machine.execAadd x0 s
  | .acvt x0 => Sys2Proof.Machine.execAcvt x0 s
  | .acpy x0 => Sys2Proof.Machine.execAcpy x0 s
  | .amax x0 => Sys2Proof.Machine.execAmax x0 s
  | .abx x0 => Sys2Proof.Machine.execAbx x0 s
  | .cpy x0 x1 x2 => Sys2Proof.Machine.execCpy x0 x1 x2 s
  | .cpyt x0 x1 x2 => Sys2Proof.Machine.execCpyt x0 x1 x2 s
  | .gat x0 x1 x2 => Sys2Proof.Machine.execGat x0 x1 x2 s
  | .sct x0 x1 x2 => Sys2Proof.Machine.execSct x0 x1 x2 s
  | .cfill x0 x1 x2 => Sys2Proof.Machine.execCfill x0 x1 x2 s
  | .rred x0 x1 x2 => Sys2Proof.Machine.execRred x0 x1 x2 s
  | .edrain x0 => Sys2Proof.Machine.execEdrain x0 s
  | .ecnt x0 => Sys2Proof.Machine.execEcnt x0 s
  | .xinvcAddress => Sys2Proof.Machine.execXinvcAddress s
  | .xinvcContext => Sys2Proof.Machine.execXinvcContext s
  | .xinvcGuest => Sys2Proof.Machine.execXinvcGuest s
  | .xinvcGuestPhysical => Sys2Proof.Machine.execXinvcGuestPhysical s
  | .xinvcAll => Sys2Proof.Machine.execXinvcAll s
  | .shootdownRetire => Sys2Proof.Machine.execShootdownRetire s
  | .seginvalWrite => Sys2Proof.Machine.execSeginvalWrite s
  | .tflcntWrite => Sys2Proof.Machine.execTflcntWrite s
  | .statusDepthWrite => Sys2Proof.Machine.execStatusDepthWrite s
  | .markRetire => Sys2Proof.Machine.execMarkRetire s
  | .matrixEntryCommit => Sys2Proof.Machine.execMatrixEntryCommit s
  | .engineCommandStart => Sys2Proof.Machine.execEngineCommandStart s
  | .engineBytesCommit => Sys2Proof.Machine.execEngineBytesCommit s
  | .engineFault => Sys2Proof.Machine.execEngineFault s
  | .efstatResume => Sys2Proof.Machine.execEfstatResume s
  | .efstatAbort => Sys2Proof.Machine.execEfstatAbort s
  | .gangBarrierRelease => Sys2Proof.Machine.execGangBarrierRelease s
  | .folioBarrierRelease => Sys2Proof.Machine.execFolioBarrierRelease s
  | .dqpopWake => Sys2Proof.Machine.execDqpopWake s
  | .dqpushWake => Sys2Proof.Machine.execDqpushWake s
  | .ordbegEnter => Sys2Proof.Machine.execOrdbegEnter s
  | .arwaitWake => Sys2Proof.Machine.execArwaitWake s
  | .edrainComplete => Sys2Proof.Machine.execEdrainComplete s
  | .storeQuillPerform => Sys2Proof.Machine.execStoreQuillPerform s
  | .storeHomePerform => Sys2Proof.Machine.execStoreHomePerform s
  | .domainStoreAcknowledge => Sys2Proof.Machine.execDomainStoreAcknowledge s
  | .domainResponseReceive => Sys2Proof.Machine.execDomainResponseReceive s
  | .l1LineFill => Sys2Proof.Machine.execL1LineFill s
  | .l1LineDrop => Sys2Proof.Machine.execL1LineDrop s
  | .loadTakeValue => Sys2Proof.Machine.execLoadTakeValue s
  | .atomicPerform => Sys2Proof.Machine.execAtomicPerform s
  | .tlbMissWalkStart => Sys2Proof.Machine.execTlbMissWalkStart s
  | .walkComplete => Sys2Proof.Machine.execWalkComplete s
  | .domainRequestArrive => Sys2Proof.Machine.execDomainRequestArrive s
  | .negativeAcknowledge => Sys2Proof.Machine.execNegativeAcknowledge s
  | .responseTimeout => Sys2Proof.Machine.execResponseTimeout s
  | .linkReplay => Sys2Proof.Machine.execLinkReplay s
  | .linkLost => Sys2Proof.Machine.execLinkLost s
  | .virtualLaneStop => Sys2Proof.Machine.execVirtualLaneStop s
  | .virtualLaneResume => Sys2Proof.Machine.execVirtualLaneResume s
  | .tickExchange => Sys2Proof.Machine.execTickExchange s
  | .tickExchangeClose => Sys2Proof.Machine.execTickExchangeClose s
  | .timeSourceLost => Sys2Proof.Machine.execTimeSourceLost s
  | .domrouteWrite => Sys2Proof.Machine.execDomrouteWrite s
  | .routeLaneSwitch => Sys2Proof.Machine.execRouteLaneSwitch s
  | .domexpWrite => Sys2Proof.Machine.execDomexpWrite s
  | .stagingOwnershipChange => Sys2Proof.Machine.execStagingOwnershipChange s
  | .chrsvWrite => Sys2Proof.Machine.execChrsvWrite s
  | .reservationFrameBoundary => Sys2Proof.Machine.execReservationFrameBoundary s
  | .astcfmtWrite => Sys2Proof.Machine.execAstcfmtWrite s
  | .inkwellRefreshWindowClose => Sys2Proof.Machine.execInkwellRefreshWindowClose s
  | .gddrScrub => Sys2Proof.Machine.execGddrScrub s
  | .gangPlace => Sys2Proof.Machine.execGangPlace s
  | .residentGridPlace => Sys2Proof.Machine.execResidentGridPlace s
  | .allocationRelease => Sys2Proof.Machine.execAllocationRelease s
  | .railSettled => Sys2Proof.Machine.execRailSettled s
  | .railLower => Sys2Proof.Machine.execRailLower s
  | .sensorSample => Sys2Proof.Machine.execSensorSample s
  | .sensorSuspectClear => Sys2Proof.Machine.execSensorSuspectClear s
  | .throttleWrite => Sys2Proof.Machine.execThrottleWrite s
  | .preemptDelayExpiry => Sys2Proof.Machine.execPreemptDelayExpiry s
  | .shadowExchange => Sys2Proof.Machine.execShadowExchange s
  | .stateSpill => Sys2Proof.Machine.execStateSpill s
  | .stateFill => Sys2Proof.Machine.execStateFill s
  | .partitionResume => Sys2Proof.Machine.execPartitionResume s
  | .ptreqPartition => Sys2Proof.Machine.execPtreqPartition s
  | .ptreqQueue => Sys2Proof.Machine.execPtreqQueue s
  | .qctlEnable => Sys2Proof.Machine.execQctlEnable s
  | .qctlDisable => Sys2Proof.Machine.execQctlDisable s
  | .qnotify => Sys2Proof.Machine.execQnotify s
  | .packetFetch => Sys2Proof.Machine.execPacketFetch s
  | .packetPoll => Sys2Proof.Machine.execPacketPoll s
  | .noopPacket => Sys2Proof.Machine.execNoopPacket s
  | .launchPacket => Sys2Proof.Machine.execLaunchPacket s
  | .waitPacket => Sys2Proof.Machine.execWaitPacket s
  | .waitEvaluate => Sys2Proof.Machine.execWaitEvaluate s
  | .waitTimeout => Sys2Proof.Machine.execWaitTimeout s
  | .signalSet => Sys2Proof.Machine.execSignalSet s
  | .signalSubtract => Sys2Proof.Machine.execSignalSubtract s
  | .signalAdd => Sys2Proof.Machine.execSignalAdd s
  | .copyPacket => Sys2Proof.Machine.execCopyPacket s
  | .inkwellFillPacket => Sys2Proof.Machine.execInkwellFillPacket s
  | .inkwellFillStart => Sys2Proof.Machine.execInkwellFillStart s
  | .fetchFence => Sys2Proof.Machine.execFetchFence s
  | .reservedPacket => Sys2Proof.Machine.execReservedPacket s
  | .packetRetire => Sys2Proof.Machine.execPacketRetire s
  | .chainRecordExpand => Sys2Proof.Machine.execChainRecordExpand s
  | .launchBankSwap => Sys2Proof.Machine.execLaunchBankSwap s
  | .gridDrainComplete => Sys2Proof.Machine.execGridDrainComplete s
  | .chainRetire => Sys2Proof.Machine.execChainRetire s
  | .segreqAllocate => Sys2Proof.Machine.execSegreqAllocate s
  | .segreqValidate => Sys2Proof.Machine.execSegreqValidate s
  | .segreqRevoke => Sys2Proof.Machine.execSegreqRevoke s
  | .segreqSignedLoad => Sys2Proof.Machine.execSegreqSignedLoad s
  | .hdctlEnable => Sys2Proof.Machine.execHdctlEnable s
  | .hdctlDisable => Sys2Proof.Machine.execHdctlDisable s
  | .ductusCodeWrite => Sys2Proof.Machine.execDuctusCodeWrite s
  | .hotplug => Sys2Proof.Machine.execHotplug s
  | .bandStart => Sys2Proof.Machine.execBandStart s
  | .bandDispatch => Sys2Proof.Machine.execBandDispatch s
  | .bandDeadline => Sys2Proof.Machine.execBandDeadline s
  | .reprojectionLineTimeout => Sys2Proof.Machine.execReprojectionLineTimeout s
  | .ductusBundle => Sys2Proof.Machine.execDuctusBundle s
  | .hostWrite => Sys2Proof.Machine.execHostWrite s
  | .hostRead => Sys2Proof.Machine.execHostRead s
  | .errorLogMsiSpanEnd => Sys2Proof.Machine.execErrorLogMsiSpanEnd s
  | .moduleReset => Sys2Proof.Machine.execModuleReset s
  | .firmwareAuthentication => Sys2Proof.Machine.execFirmwareAuthentication s
  | .gddr7Training => Sys2Proof.Machine.execGddr7Training s
  | .domainPortTraining => Sys2Proof.Machine.execDomainPortTraining s
  | .pcieLinkUp => Sys2Proof.Machine.execPcieLinkUp s
  | .registerWrite => Sys2Proof.Machine.execRegisterWrite s
  | .illegalInstruction => Sys2Proof.Machine.execIllegalInstruction s
  | .instructionFetchFault => Sys2Proof.Machine.execInstructionFetchFault s
  | .softError => Sys2Proof.Machine.execSoftError s
  | .linkRetrain => Sys2Proof.Machine.execLinkRetrain s
  | .displayportLinkLost => Sys2Proof.Machine.execDisplayportLinkLost s
  | .scanOutLine => Sys2Proof.Machine.execScanOutLine s
  | .inkwellRefreshWindowOpen => Sys2Proof.Machine.execInkwellRefreshWindowOpen s
  | .poisonTableClear => Sys2Proof.Machine.execPoisonTableClear s
  | .attestationReport => Sys2Proof.Machine.execAttestationReport s

end Sys2Proof.Machine
end

