-- ==== Sys2Proof/Machine/Turn.lean ====
section
/-! DEFINITION. The turns of the schedule (logs 5-7): time, a thread's unit, the rows that are not instructions, the steps of
engines and TLBs, the order that stands where the agenda is empty, and the state in which the next step fetches a given word
(log 1). -/
namespace Sys2Proof.Machine
open Sys2Proof

/-- Reference periods pass; a held tick counter stands still, and one that lags skips forward at its next tick (R15, R17, R195; log 6). -/
def passTime (s : State) (dt : Nat) : State :=
  { s with tick := s.tick + (dt - s.hold) + (if dt = 0 then 0 else s.skip), hold := s.hold - dt,
           skip := if dt = 0 then s.skip else 0, cycles := s.cycles + dt }

/-! ## Threads -/

/-- Execute rows one after the other. -/
def runRows : List Instr → State → Out
  | [], s => .next s
  | i :: r, s => match exec i s with
    | .next t => (match r with | [] => .next t | _ => runRows r t)
    | o => o

/-- A thread whose issue its context's throttle limits: a user-mode warp (R484). -/
def limited (s : State) (th : Thread) : Bool := !th.nib && th.mode == .user && decide ((throttleOf s th.asid).share < 64)

/-- The clocks that a context's user-mode warps have used in the present span of 64 control clocks of a quill, and the last of them
(R484). -/
def issueUse (s : State) (q asid : Nat) : Nat × Nat :=
  match (s.quill q).issued.find asid with
  | some x => if x.1 = clkCount s q / 64 then x.2 else (0, clkCount s q + 1)
  | none => (0, clkCount s q + 1)

/-- The present control clock is one in which a limited thread may issue: one that its context uses already, or one of its share
(R484, log 81). -/
def clockOpen (s : State) (th : Thread) : Bool :=
  let u := issueUse s th.quill th.asid
  u.2 == clkCount s th.quill || decide (u.1 < (throttleOf s th.asid).share)

/-- A limited thread uses the present clock. -/
def useClock (s : State) (th : Thread) (t : State) : State :=
  let u := issueUse s th.quill th.asid
  let n := clkCount s th.quill
  t.modQuill th.quill (fun x => { x with issued := x.issued.put th.asid (n / 64, if u.2 = n then u.1 else u.1 + 1, n) })

/-- Whether a thread can execute now: it lives, waits for nothing, its activity mask holds the results of all earlier operations,
and its quill runs (R200, R215, R407, R483). -/
def canRun (s : State) (th : Thread) : Bool :=
  !th.exited && th.wait == .none && !maskPending th && !(s.quill th.quill).halted && !dieStopped s (dieOf th.quill)

/-- The thread with its segment entry read where a resumed or placed thread has not yet read it (R57). -/
def freshSeg (s : State) (th : Thread) : Thread :=
  if th.segFresh then { th with seg := readSeg s th.pcH.toNat th.vmid th.asid, segFresh := false } else th

/-- The rows of a unit that waits: its prefixes have taken their place in the latch (R406). -/
def keptRows (l : Latch) : List Instr :=
  match decode l.w0 l.w1 with
  | some i => [i]
  | none => [.illegalInstruction]

/-- The state in which the rows of a thread's unit execute. -/
def inUnit (s : State) (t : Nat) (th : Thread) (l : Latch) : State :=
  { s.setThread t { th with latch := l } with cur := t, inp := Input.none }

/-- A unit of a user-mode thread has come to nothing but its trap: the frame holds the unit's own address and the loop levels before it,
or the trap found no frame and has halted the gang (R402). -/
def onlyTrapped (s : State) (t : Nat) (th : Thread) (x : State) : Bool :=
  let full := fun (u : State) => match u.gang th.gang with
    | some g => (match u.grids.find g.grid with | some gr => gr.overflow | none => false)
    | none => false
  match x.thread t with
  | some y => (match y.frames.head? with
      | some f => fieldN f.cause.toNat 0 16 == 3 || f.pc == th.pc && f.levels == th.loops
      | none => false) || (y.exited && full x && !full s)
  | none => false

/-- A unit of a thread that its context's throttle limits uses the clock in which it issues, and does not issue in one that is not open;
one that waits issues nothing, and trap entry is never limited (R402, R484). -/
def issueUnit (s : State) (t : Nat) (th : Thread) (o : Out) : Out :=
  match o with
  | .next x =>
    if !limited s th || (match x.thread t with | some y => y.latch.kept | none => false) || onlyTrapped s t th x then .next x
    else if clockOpen s th then .next (useClock s th x)
    else .next s
  | o => o

/-- A thread executes its next unit (R251-R267), or the one that waits; one that waits for a full resource takes no trap before that has
room (R406). -/
def threadTurn (s : State) (t : Nat) : Out :=
  match s.thread t with
  | none => .next s
  | some th0 =>
    if !canRun s th0 then .next s
    else
      let th := freshSeg s th0
      if th.latch.kept then
        if (match th.latch.full with | some r => roomFull s th.quill r | none => false) then .next s
        else issueUnit s t th (runRows (keptRows th.latch) (inUnit s t th { th.latch with kept := false, full := none }))
      else match fetchUnit s th with
      | .stall => .next s
      | .miss va => .next (queueMiss (s.setThread t th) (dieOf th.quill) th.vmid th.asid (va / 65536) (th.mode != .user) t)
      | .rows is l => issueUnit s t th (runRows is (inUnit s t th l))

/-! ## Rows that are not instructions -/

/-- Rows that the agenda may hold: those that are no unit of a thread and no part of one. -/
def isEvent (i : Instr) : Bool :=
  match i with
  | .xinvcAddress => true
  | .xinvcContext => true
  | .xinvcGuest => true
  | .xinvcGuestPhysical => true
  | .xinvcAll => true
  | .shootdownRetire => true
  | .markRetire => true
  | .matrixEntryCommit => true
  | .engineCommandStart => true
  | .engineBytesCommit => true
  | .engineFault => true
  | .efstatResume => true
  | .efstatAbort => true
  | .gangBarrierRelease => true
  | .folioBarrierRelease => true
  | .dqpopWake => true
  | .dqpushWake => true
  | .ordbegEnter => true
  | .arwaitWake => true
  | .edrainComplete => true
  | .storeQuillPerform => true
  | .storeHomePerform => true
  | .domainStoreAcknowledge => true
  | .domainResponseReceive => true
  | .l1LineFill => true
  | .l1LineDrop => true
  | .loadTakeValue => true
  | .atomicPerform => true
  | .tlbMissWalkStart => true
  | .walkComplete => true
  | .domainRequestArrive => true
  | .negativeAcknowledge => true
  | .responseTimeout => true
  | .linkReplay => true
  | .linkLost => true
  | .virtualLaneStop => true
  | .virtualLaneResume => true
  | .tickExchange => true
  | .tickExchangeClose => true
  | .timeSourceLost => true
  | .domrouteWrite => true
  | .routeLaneSwitch => true
  | .domexpWrite => true
  | .stagingOwnershipChange => true
  | .chrsvWrite => true
  | .reservationFrameBoundary => true
  | .astcfmtWrite => true
  | .inkwellRefreshWindowClose => true
  | .gddrScrub => true
  | .gangPlace => true
  | .residentGridPlace => true
  | .allocationRelease => true
  | .railSettled => true
  | .railLower => true
  | .sensorSample => true
  | .sensorSuspectClear => true
  | .throttleWrite => true
  | .preemptDelayExpiry => true
  | .shadowExchange => true
  | .stateSpill => true
  | .stateFill => true
  | .partitionResume => true
  | .ptreqPartition => true
  | .ptreqQueue => true
  | .qctlEnable => true
  | .qctlDisable => true
  | .qnotify => true
  | .packetFetch => true
  | .packetPoll => true
  | .noopPacket => true
  | .launchPacket => true
  | .waitPacket => true
  | .waitEvaluate => true
  | .waitTimeout => true
  | .signalSet => true
  | .signalSubtract => true
  | .signalAdd => true
  | .copyPacket => true
  | .inkwellFillPacket => true
  | .inkwellFillStart => true
  | .fetchFence => true
  | .reservedPacket => true
  | .packetRetire => true
  | .chainRecordExpand => true
  | .launchBankSwap => true
  | .gridDrainComplete => true
  | .chainRetire => true
  | .segreqAllocate => true
  | .segreqValidate => true
  | .segreqRevoke => true
  | .segreqSignedLoad => true
  | .hdctlEnable => true
  | .hdctlDisable => true
  | .ductusCodeWrite => true
  | .hotplug => true
  | .bandStart => true
  | .bandDispatch => true
  | .bandDeadline => true
  | .reprojectionLineTimeout => true
  | .ductusBundle => true
  | .hostWrite => true
  | .hostRead => true
  | .errorLogMsiSpanEnd => true
  | .moduleReset => true
  | .firmwareAuthentication => true
  | .gddr7Training => true
  | .domainPortTraining => true
  | .pcieLinkUp => true
  | .registerWrite => true
  | .softError => true
  | .linkRetrain => true
  | .displayportLinkLost => true
  | .scanOutLine => true
  | .inkwellRefreshWindowOpen => true
  | .poisonTableClear => true
  | .attestationReport => true
  | _ => false

/-- The die of a thread. -/
def dieOfThread (s : State) (t : Nat) : Nat := match s.thread t with | some th => dieOf th.quill | none => 9

/-- The die whose unit performs an event; none where no clock of a die drives it (R483). -/
def eventDie (s : State) (i : Instr) (x : Input) : Option Nat :=
  match i with
  | .markRetire => some (dieOfThread s x.n1)
  | .dqpopWake => some (dieOfThread s x.n1)
  | .ordbegEnter => some (dieOfThread s x.n1)
  | .arwaitWake => some (dieOfThread s x.n1)
  | .edrainComplete => some (dieOfThread s x.n1)
  | .storeQuillPerform => some (dieOfThread s x.n1)
  | .loadTakeValue => some (dieOfThread s x.n1)
  | .atomicPerform => some (dieOfThread s x.n1)
  | .matrixEntryCommit => some (dieOf x.n1)
  | .engineCommandStart => some (dieOf x.n1)
  | .engineBytesCommit => some (dieOf x.n1)
  | .engineFault => some (dieOf x.n1)
  | .efstatResume => some (dieOf x.n1)
  | .efstatAbort => some (dieOf x.n1)
  | .dqpushWake => some (dieOf x.n1)
  | .storeHomePerform => some (dieOf x.n1)
  | .l1LineFill => some (dieOf x.n1)
  | .l1LineDrop => some (dieOf x.n1)
  | .gangBarrierRelease => (s.gang x.n1).map (fun g => dieOf g.quill)
  | .folioBarrierRelease => (s.fgangs.find x.n1).map (fun g => dieOf (8 * g.folio))
  | .responseTimeout => (s.fab.out.find? (fun o => o.id == x.n1)).map (fun o => dieOf o.quill)
  | .tlbMissWalkStart => some x.n1
  | .walkComplete => some x.n1
  | .inkwellRefreshWindowClose => some (x.n1 / 24)
  | .inkwellRefreshWindowOpen => some (x.n1 / 24)
  | .stagingOwnershipChange => some (x.n1 / 24)
  | .chrsvWrite => some (x.n1 / 8)
  | .reservationFrameBoundary => some (x.n1 / 8)
  | .gddrScrub => some (x.n1 / 8)
  | .poisonTableClear => some (x.n1 / 8)
  | .hostWrite => if x.n2 = 8 then none else some 8
  | .moduleReset => none
  | .firmwareAuthentication => none
  | .gddr7Training => none
  | .domainPortTraining => none
  | .pcieLinkUp => none
  | .sensorSample => none
  | .railSettled => none
  | .railLower => none
  | .softError => none
  | _ => some 8

/-- A row that could not take place leaves the state as it was; the page that it lacks at the hub joins the hub's miss table (R75,
R76). -/
def rowWaits (s t : State) : State :=
  match t.xl.want with
  | some (vmid, asid, page, first) => queueMiss s hubDie vmid asid page first (hubAgent t)
  | none => s

/-- An event takes place, unless its unit stands still, or an access of it does not return: from a stopped die never (R483), from the
hub's walkers later (log 18). -/
def eventTurn (s : State) (i : Instr) (x : Input) : Out :=
  if !isEvent i || (match eventDie s i x with | some d => dieStopped s d | none => false) then .next s
  else match exec i { s with inp := x } with
  | .next t => .next (if t.hung then rowWaits s t else t)
  | o => o

/-- A TLB forgets its n-th entry (R73). -/
def evict (s : State) (key n : Nat) : State :=
  { s with xl := { s.xl with tlb := s.xl.tlb.put key (((s.xl.tlb.find key).getD []).eraseIdx n) } }

/-- A walk cache forgets its n-th entry (R73). -/
def wcEvict (s : State) (die n : Nat) : State :=
  { s with xl := { s.xl with wc := s.xl.wc.put die ((wcOf s die).eraseIdx n) } }

/-- A TLB takes over the n-th entry of one that feeds it (R73). -/
def tlbCopy (s : State) (src dst n : Nat) : State :=
  match ((s.xl.tlb.find src).getD [])[n]? with
  | some e => if tlbFeeds src dst then tlbInsert s dst e else s
  | none => s

/-- What happens in a turn. -/
def runAct (s : State) (a : Act) : Out :=
  match a with
  | .thread t => threadTurn s t
  | .event i x => eventTurn s i x
  | .evict k n => .next (evict s k n)
  | .wcEvict d n => .next (wcEvict s d n)
  | .tlbCopy a b n => .next (tlbCopy s a b n)
  | .walkRead d i n => .next (if dieStopped s d then s else walkRead s d i n)
  | .engRead q st c e => .next (if dieStopped s (dieOf q) then s else engRead s q st c e)
  | .engWrite q st c e => .next (if dieStopped s (dieOf q) then s else engWrite s q st c e)
  | .mxRead q n a l => .next (if dieStopped s (dieOf q) then s else mxRead s q n a l)
  | .ringWrite q => .next (ringWrite s q)
  | .idle => .next s

/-! ## The order without an agenda (log 5) -/

/-- An event with numbers. -/
def ev (i : Instr) (a b c d : Nat) : Act := .event i { Input.none with n1 := a, n2 := b, n3 := c, n4 := d }

/-- What a thread has under way. -/
def threadActs (t : Nat) (th : Thread) : List Act :=
  let pend := fun (o : MemOp) => (o.accs.findIdx? (fun a => a.ph == .pend || a.ph == .again)).getD 0
  (th.mq.map (fun o => match o.kind with
    | .load => ev .loadTakeValue t (pend o) 0 0
    | .atomic _ _ => ev .atomicPerform t (pend o) 0 0
    | _ => ev .storeQuillPerform t o.ser (pend o) 0)) ++
  (match th.wait with
    | .none => []
    | .bar n => [ev .gangBarrierRelease th.gang n 0 0]
    | .fol => []
    | .pop _ => [ev .dqpopWake t 0 0 0]
    | .push _ => [ev .dqpushWake th.quill 0 0 0]
    | .ordheld _ _ => [ev .ordbegEnter t 0 0 0]
    | .ordbeg _ => [ev .ordbegEnter t 0 0 0]
    | .mark _ _ => [ev .markRetire t 0 0 0]
    | .arwait _ _ _ _ => [ev .arwaitWake t 0 0 0]
    | .edrain _ => [ev .edrainComplete t 0 0 0]
    | .shootdown => [])

/-- What a stream of a quill has under way: its first command. -/
def streamActs (q : Nat) (st : Stream) (x : EngStream) : List Act :=
  let evs := fun (i : Instr) (n : Nat) => Act.event i { Input.none with n1 := q, n2 := n, stream := st }
  match x.cmds with
  | [] => []
  | c :: _ =>
    [evs .engineCommandStart 0] ++ ((List.range (cmdGrain c)).map (fun i => Act.engRead q st 0 (c.e + i))) ++
    [Act.engWrite q st 0 c.e, evs .engineBytesCommit (cmdGrain c),
     .event .engineFault { Input.none with n1 := q, n3 := c.e, stream := st }]

/-- What a quill has under way. -/
def quillActs (q : Nat) (x : Quill) : List Act :=
  ((List.range x.pq.length).map (fun n => ev .storeHomePerform q n 0 0)) ++
  (if x.mx.isEmpty then [] else [ev .matrixEntryCommit q 0 0 0]) ++
  ((x.mx.find? (fun m => m.owed.isSome)).elim [] (fun m => match m.owed with
    | some (a, b) => [ev .matrixEntryCommit q a 0 0, .event .matrixEntryCommit { Input.none with n1 := q, n2 := b, on := true }]
    | none => [])) ++
  (if x.fault.isSome then [ev .engineFault q 0 0 0] else []) ++
  streamActs q .copy x.copy ++ streamActs q .gather x.gather

/-- What a queue has under way. -/
def queueActs (q : Nat) (x : Queue) : List Act :=
  if !x.en then []
  else [Instr.packetFetch, .packetPoll, .noopPacket, .launchPacket, .waitPacket, .waitEvaluate, .waitTimeout, .signalSet,
    .signalSubtract, .signalAdd, .copyPacket, .inkwellFillPacket, .inkwellFillStart, .fetchFence, .reservedPacket,
    .chainRecordExpand, .launchBankSwap, .chainRetire, .packetRetire].map (fun i => ev i q 0 0 0)

/-- What a head has under way. -/
def headActs (h : Nat) (x : Head) : List Act :=
  if !x.live then []
  else [ev .bandStart h 0 0 0] ++ x.bands.map (fun b => ev .bandDeadline h b.n b.b 0) ++ [ev .scanOutLine h 0 0 0]

/-- What the module has under way. -/
def pendingActs (s : State) : List Act :=
  (s.xl.miss.flatMap (fun e => if e.2.isEmpty then [] else [ev .tlbMissWalkStart e.1 0 0 0, ev .walkComplete e.1 0 0 0])) ++
  (match s.xl.shoots with
    | [] => []
    | h :: _ => [ev ([Instr.xinvcAddress, .xinvcContext, .xinvcGuest, .xinvcGuestPhysical].getD h.op .xinvcAll) 0 0 0 0,
                 ev .shootdownRetire 0 0 0 0]) ++
  (s.threads.flatMap (fun e => threadActs e.1 e.2)) ++ (s.quills.flatMap (fun e => quillActs e.1 e.2)) ++
  (s.fgangs.map (fun e => ev .folioBarrierRelease e.1 0 0 0)) ++
  ((s.fab.out.filter (fun o => o.peer == s.fab.peer.toNat)).flatMap (fun o =>
    [Act.event .domainRequestArrive { Input.none with
       req := { o.req with src := s.fab.peer.toNat, id := o.id },
       n4 := ((s.fab.serving.find? (fun v => v.req.src == s.fab.peer.toNat && v.req.id == o.id)).bind
         (fun v => v.parts.findIdx? (fun p => p.got.isNone))).getD 0 },
     Act.event .domainStoreAcknowledge { Input.none with nums := [o.id] }, ev .domainResponseReceive o.id 0 0 0,
     ev .negativeAcknowledge o.id 0 0 0])) ++
  (s.fab.out.map (fun o => ev .responseTimeout o.id 0 0 0)) ++
  (s.gangs.flatMap (fun e => if e.2.ended then [ev .allocationRelease e.1 0 0 0] else [])) ++
  (s.grids.flatMap (fun e => [ev .gangPlace e.1 0 0 0, ev .residentGridPlace e.1 0 0 0, ev .gridDrainComplete e.1 0 0 0,
    ev .preemptDelayExpiry e.1 0 0 0])) ++
  (s.scrip.q.flatMap (fun e => queueActs e.1 e.2)) ++
  (if s.scrip.seg.busy then [ev .segreqAllocate 0 0 0 0, ev .segreqValidate 0 0 0 0, ev .segreqRevoke 0 0 0 0, ev .segreqSignedLoad 0 0 0 0]
    else []) ++
  ((s.scrip.ptwant ++ s.scrip.drain).map (fun p => ev .shadowExchange p 0 0 0)) ++
  (s.duct.heads.flatMap (fun e => headActs e.1 e.2)) ++
  (if s.duct.heads.any (fun e => !e.2.bands.isEmpty) then
    (List.range 16).flatMap (fun k => [ev .bandDispatch k 0 0 0, ev .ductusBundle k 0 0 0]) else []) ++
  (s.st.windows.map (fun b => ev .inkwellRefreshWindowClose b 0 0 0)) ++
  ((s.scrip.events.map (fun e => e.queue)).eraseDups.map Act.ringWrite) ++
  (if s.log.pendMsg then [ev .errorLogMsiSpanEnd 0 0 0 0] else [])

/-- The thread whose turn it is: the current one while it can run, else the next one that can. -/
def nextRunner (s : State) : Nat :=
  match s.thread s.cur with
  | some th => if canRun s th then s.cur else
      ((s.threads.find? (fun e => decide (s.cur < e.1) && canRun s e.2)).orElse
        (fun _ => s.threads.find? (fun e => canRun s e.2))).elim s.cur Prod.fst
  | none => (s.threads.find? (fun e => canRun s e.2)).elim s.cur Prod.fst

/-- The turn without an agenda: threads and what is under way alternate. -/
def defaultAct (s : State) : Act :=
  if s.tick % 2 = 0 then .thread (nextRunner s)
  else
    let as := pendingActs s
    as.getD (s.tick / 2 % as.length) (.thread (nextRunner s))

/-- The next turn: the head of the agenda, or the turn without one. -/
def nextTurn (s : State) : Turn × List Turn :=
  match s.agenda with
  | h :: r => (h, r)
  | [] => ({ dt := 1, act := defaultAct s }, [])

/-- One step of the module: time passes, and the next turn takes place. -/
def turn (s : State) : Out :=
  let t := nextTurn s
  runAct { passTime s t.1.dt with agenda := t.2 } t.1.act

/-! ## A word where the next step fetches (log 1) -/

/-- Virtual and physical address of the placed code. -/
def codePlace : Nat := 0x1_0000

/-- The segment of the placed code. -/
def codeSeg : SegEnt := { base := codePlace, limit := 0x1_0000, shared := false, hyp := false, sys := false }

/-- The translation of its page: readable, writable, executable in user mode. -/
def codeLeaf : Leaf :=
  { pa := codePlace, kind := 0, pol := 3, r := true, w := true, x := true, user := true, dw := none, r1 := true, w1 := true,
    x1 := true, l1 := 0, l2 := 0, sz := 16 }

/-- A warp of a gang of one warp at launch, alone in slot 0 of quill 0, with every register allocated. -/
def codeThread (gid : Nat) : Thread :=
  { gang := gid, quill := 0, slot := 0, nib := false, warp := 0, asid := 1, vmid := 0, prio := 0, pcH := 1, pcO := 0,
    seg := some codeSeg, segFresh := false, atVec := 0, mode := .user, v := (List.range 256).map launchV,
    s := launchS 128 (BitVec.allOnes 32) (0, 0, 0) 256 0, k := List.replicate 8 { bits := 0, poison := 0 }, fstat := 0, loops := [],
    sup := [], hyp := [], bankS := List.replicate 8 { val := 0, poison := false },
    bankH := List.replicate 8 { val := 0, poison := false }, uck := false, take := 0, svec := 0, hvec := 0,
    xpat := List.replicate 4 Pat.zero, rfault := none, mq := [], ser := 0, late := [], phase := none, clkLow := 0, dqpos := 0,
    wait := .none, wend := 0, latch := Latch.empty, dlvd := [], exited := false }

/-- Its gang. -/
def codeGang (tid : Nat) : Gang :=
  let none' : Run := { first := 0, len := 0 }
  { grid := 0, quill := 0, index := 0, member := 0, fgang := none, warps := [tid], nib := none, sregs := 128, vregs := 256,
    vrun := { first := 0, len := 32 }, srun := { first := 0, len := 8 }, scrRun := none', accRun := none', slots := [0], scr := [],
    scrPoison := [], acc := [], accPoison := [], bars := [], dq := [], dqBase := 0, frontier := 0, held := none,
    clkreq := List.replicate 4 none, phaseMark := none, divSet := false, level := some 4, pins := [], ended := false }

/-- The words of an instruction stored where a warp that runs next fetches; bring-up is complete (log 1). -/
def placeWord (s : State) (nbits w : Nat) : State :=
  let tid := s.scrip.nextThread
  let gid := s.scrip.nextGang
  let s1 := tlbInsert s 0 (tlbEntry 0 1 codePlace codeLeaf 16 false)
  { s1 with
    boot := 6
    mem := Memory.write s1.mem codePlace (toBytes 8 (w % 2 ^ nbits))
    threads := s1.threads.put tid (codeThread gid)
    gangs := s1.gangs.put gid (codeGang tid)
    scrip := { s1.scrip with nextThread := tid + 1, nextGang := gid + 1 }
    cur := tid
    agenda := { dt := 1, act := .thread tid } :: s1.agenda }

end Sys2Proof.Machine
end

