-- ==== Sys2Proof/Safety.lean ====
section
/-! DEFINITION. What counts as a safe run, in the terms claims use: a number of steps that neither faults nor is refused; the
condition that every state of a run meets; and when an instruction's own effect takes place. -/
namespace Sys2Proof
open Sys2Proof.Machine

/-- A run of n steps from a state that ends in a next state. -/
def SafeRun (n : Nat) (s : State) : Prop := ∃ t, Sys2Proof.core.run n s = .next t

/-- Memory is in its canonical form, and no access that never returns has left a part of its effect. -/
def Inv (s : State) : Prop := Memory.wf s.mem = true ∧ s.hung = false

/-- The lanes of an instruction's traps: the whole mask for an instruction as a whole, else those under the guard. -/
def issueMask (i : Instr) (th : Thread) : Mask := if i.cls = .whole then th.mask else th.active i.guard

/-- The current thread issues instruction `i` and none of the checks of R267 stands against it: `th` is that thread, it lives and
does not wait; the instruction is legal, also by the value that a cpyt's length register holds (R382), and stands at no entry point that
a hypervisor may not have there (R56); its guard and mask let it execute (R258), its mode permits it (R56), its registers are allocated (R38), none that it reads is tagged (R405) or poisoned (R117), and no earlier operation or late flag holds it
(R200, R366). -/
structure Ready (i : Instr) (s : State) (th : Thread) : Prop where
  here : s.thread s.cur = some th
  lives : th.exited = false
  awake : th.wait = .none
  opened : th.latch.closed = false
  legal : legalIn i th = true
  entered : entryFails i th = false
  valued : valueCheck i s s.cur th = none
  runs : executes i th = true
  permitted : privFails i th = false
  allocated : rangeTrap th (i.opds th.latch.px) = none
  untagged : (if th.uck = true ∧ th.mode = .user then taggedRead th (issueOpds i th) else none) = none
  free : opPending s s.cur th (issueOpds i th) = false
  unheld : lateWaits s i s.cur th = false
  settled : lateAwaited i th = 0
  clean : poisonTrap i th (issueMask i th) (th.active i.guard) = none

/-- The instruction has its effect and its unit retires: the thread is `th'` but for what retirement does (R296). -/
def Retires (i : Instr) (s : State) (th' : Thread) : Prop := exec i s = .next (s.setThread s.cur (retire th'))

end Sys2Proof
end

