-- ==== Sys2Proof/Certificates/Slice0/Obligations.lean ====
section
/-! DEFINITION. The statements for the provers: first, family by family, what the rows compute, written a second time from the
rules of the spec without the machine's meanings (Sys2Proof.Claims), then the obligations. -/
namespace Sys2Proof
open Sys2Proof.Machine

namespace Claims

/-! ## What the scalar instructions compute, written from R284-R288 -/

/-- Sum or difference of w-bit values: wrapping, or clamped to the signed range with the flag sat (R236, R285). -/
def addSat (sub sat : Bool) (w : Nat) (x y : BitVec w) : BitVec w × Flags :=
  let r : Int := if sub then x.toInt - y.toInt else x.toInt + y.toInt
  if sat && decide (2 ^ (w - 1) ≤ r) then (BitVec.ofInt w (2 ^ (w - 1) - 1), flSat)
  else if sat && decide (r < -2 ^ (w - 1)) then (BitVec.ofInt w (-2 ^ (w - 1)), flSat)
  else (if sub then x - y else x + y, 0)

/-- The low half of a product: wrapping, or clamped (R284). -/
def mulSat (sat : Bool) (x y : Word) : Word × Flags :=
  let r : Int := x.toInt * y.toInt
  if sat && decide (2 ^ 31 ≤ r) then (0x7FFF_FFFF, flSat)
  else if sat && decide (r < -2 ^ 31) then (0x8000_0000, flSat)
  else (x * y, 0)

/-- The high half of a product (R284). -/
def mulHigh (signed : Bool) (x y : Word) : Word :=
  if signed then (x.signExtend 64 * y.signExtend 64).extractLsb' 32 32
  else (x.setWidth 64 * y.setWidth 64).extractLsb' 32 32

/-- Shifts by the low eight bits of a count (R284). -/
def shl (w : Nat) (x : BitVec w) (n : Nat) : BitVec w := if w ≤ n % 256 then 0 else x <<< (n % 256)
def shr (signed : Bool) (w : Nat) (x : BitVec w) (n : Nat) : BitVec w :=
  if signed then x.sshiftRight (n % 256) else if w ≤ n % 256 then 0 else x >>> (n % 256)

/-- Minimum and maximum (R284). -/
def least (signed : Bool) (x y : Word) : Word := if (if signed then x.sle y else x.ule y) then x else y
def greatest (signed : Bool) (x y : Word) : Word := if (if signed then y.sle x else y.ule x) then x else y

/-- Quotient, remainder and flags (R286). -/
def quotRem (signed : Bool) (a b : Word) : Word × Word × Flags :=
  if b = 0 then (0xFFFF_FFFF, a, flIdz)
  else if signed ∧ a = 0x8000_0000 ∧ b = 0xFFFF_FFFF then (a, 0, flIov)
  else if signed then (a.sdiv b, a.srem b, 0)
  else (a / b, a % b, 0)

/-- A bit field extracted, zero- or sign-extended (R284). -/
def fieldOf (signed : Bool) (a : Word) (pos wid : Nat) : Word :=
  let x : BitVec wid := a.extractLsb' pos wid
  if signed then x.signExtend 32 else x.setWidth 32

/-- A bit field inserted: bit i comes from the source inside the field, else from the old value (R284). -/
def insertOf (a old : Word) (pos wid : Nat) : Word :=
  let m : Word := BitVec.ofNat 32 (2 ^ wid - 1)
  (old &&& ~~~(m <<< pos)) ||| ((a &&& m) <<< pos)

/-- Set bits, leading zeros, trailing zeros (R284). -/
def countOf (k : CntKind) (a : Word) : Word :=
  match k with
  | .pop => BitVec.ofNat 32 ((List.range 32).filter (fun i => a.getLsbD i)).length
  | .clz => BitVec.ofNat 32 ((List.range 32).takeWhile (fun i => !a.getLsbD (31 - i))).length
  | .ctz => BitVec.ofNat 32 ((List.range 32).takeWhile (fun i => !a.getLsbD i)).length

/-- The thread with the result of a T32 form written, and the flags. -/
def threeS (th : Thread) (d a b : BitVec 5) (g : Word → Word → Word × Flags) : Thread × Flags :=
  let x := th.latch.px
  let r := g (th.sv (x.a a)) (th.sv (x.b b))
  (th.setS (x.d d) r.1, r.2)

/-- The same for a T64 form: words, or pairs with .d. -/
def regS (th : Thread) (f : T64) (g : (w : Nat) → BitVec w → BitVec w → BitVec w × Flags) : Thread × Flags :=
  if f.dbl then
    let r := g 64 (th.sp f.a.toNat) (th.sp f.b.toNat)
    (th.setSp f.d.toNat r.1, r.2)
  else
    let r := g 32 (th.sv f.a.toNat) (th.sv f.b.toNat)
    (th.setS f.d.toNat r.1, r.2)

/-- A T64 shift: the count is one register (R285). -/
def shiftS (th : Thread) (f : T64) (g : (w : Nat) → BitVec w → Nat → BitVec w) : Thread × Flags :=
  let n := (th.sv f.b.toNat).toNat
  if f.dbl then (th.setSp f.d.toNat (g 64 (th.sp f.a.toNat) n), 0) else (th.setS f.d.toNat (g 32 (th.sv f.a.toNat) n), 0)

/-- A long form: registers; a word immediate; the pair immediate of sadd.d, sign-extended. -/
def longS (th : Thread) (f : SForm) (g : (w : Nat) → Bool → BitVec w → BitVec w → BitVec w × Flags) : Thread × Flags :=
  match f with
  | .reg f => regS th f (fun w => g w (f.sat th.latch.px))
  | .imm d a y =>
    let r := g 32 th.latch.px.sat (th.sv a.toNat) y
    (th.setS d.toNat r.1, r.2)
  | .immD d a y =>
    let r := g 64 th.latch.px.sat (th.sp a.toNat) (y.signExtend 64)
    (th.setSp d.toNat r.1, r.2)

/-- One source and an immediate or nothing: I32 and W32 forms. -/
def oneS (th : Thread) (d a : BitVec 5) (g : Word → Word × Flags) : Thread × Flags :=
  let r := g (th.sv (th.latch.px.a a))
  (th.setS (th.latch.px.d d) r.1, r.2)

/-- The scalar arithmetic and constant instructions: the thread with the results written, and the flags raised
(R284-R288). -/
def scalarEffect (th : Thread) (i : Instr) : Option (Thread × Flags) :=
  let px := th.latch.px
  match i with
  | .saddT32 d a b => some (threeS th d a b (addSat false px.sat 32))
  | .saddT64 f => some (longS th f (fun w sat => addSat false sat w))
  | .ssubT32 d a b => some (threeS th d a b (addSat true px.sat 32))
  | .ssubT64 f => some (regS th f (addSat true (f.sat px)))
  | .sandT32 d a b => some (threeS th d a b (fun x y => (x &&& y, 0)))
  | .sandT64 f => some (longS th f (fun _ _ x y => (x &&& y, 0)))
  | .sorT32 d a b => some (threeS th d a b (fun x y => (x ||| y, 0)))
  | .sorT64 f => some (longS th f (fun _ _ x y => (x ||| y, 0)))
  | .sxorT32 d a b => some (threeS th d a b (fun x y => (x ^^^ y, 0)))
  | .sxorT64 f => some (longS th f (fun _ _ x y => (x ^^^ y, 0)))
  | .sshlT32 d a b => some (threeS th d a b (fun x y => (shl 32 x y.toNat, 0)))
  | .sshlT64 f => some (shiftS th f shl)
  | .sshrT32 ar d a b => some (threeS th d a b (fun x y => (shr ar 32 x y.toNat, 0)))
  | .sshrT64 ar f => some (shiftS th f (shr ar))
  | .smulT32 d a b => some (threeS th d a b (mulSat px.sat))
  | .smulT64 (.reg f) => some (let r := mulSat (f.sat px) (th.sv f.a.toNat) (th.sv f.b.toNat); (th.setS f.d.toNat r.1, r.2))
  | .smulT64 (.imm d a y) => some (let r := mulSat px.sat (th.sv a.toNat) y; (th.setS d.toNat r.1, r.2))
  | .smulT64 (.hi sg f) => some (th.setS f.d.toNat (mulHigh sg (th.sv f.a.toNat) (th.sv f.b.toNat)), 0)
  | .sminST32 d a b => some (threeS th d a b (fun x y => (least true x y, 0)))
  | .sminUT32 d a b => some (threeS th d a b (fun x y => (least false x y, 0)))
  | .sminT64 sg (.reg f) => some (th.setS f.d.toNat (least sg (th.sv f.a.toNat) (th.sv f.b.toNat)), 0)
  | .sminT64 sg (.imm d a y) => some (th.setS d.toNat (least sg (th.sv a.toNat) y), 0)
  | .smaxST32 d a b => some (threeS th d a b (fun x y => (greatest true x y, 0)))
  | .smaxUT32 d a b => some (threeS th d a b (fun x y => (greatest false x y, 0)))
  | .smaxT64 sg (.reg f) => some (th.setS f.d.toNat (greatest sg (th.sv f.a.toNat) (th.sv f.b.toNat)), 0)
  | .smaxT64 sg (.imm d a y) => some (th.setS d.toNat (greatest sg (th.sv a.toNat) y), 0)
  | .sdiv sg f =>
    let r := quotRem sg (th.sv f.a.toNat) (th.sv f.b.toNat)
    some ((th.setS f.d.toNat r.1).setS f.c.toNat r.2.1, r.2.2)
  | .sbf .extractU f => some (th.setS f.d.toNat (fieldOf false (th.sv f.a.toNat) f.b.toNat f.c.toNat), 0)
  | .sbf .extractS f => some (th.setS f.d.toNat (fieldOf true (th.sv f.a.toNat) f.b.toNat f.c.toNat), 0)
  | .sbf .insert f => some (th.setS f.d.toNat (insertOf (th.sv f.a.toNat) (th.sv f.d.toNat) f.b.toNat f.c.toNat), 0)
  | .scnt k f => some (th.setS f.d.toNat (countOf k (th.sv f.a.toNat)), 0)
  | .sset false d _ y => some (th.setS d.toNat y, 0)
  | .sset true d _ y => some (th.setSp d.toNat (y.signExtend 64), 0)
  | .saddi imm a d => some (oneS th d a (fun x => addSat false px.sat 32 x (imm.signExtend 32)))
  | .sandi imm a d => some (oneS th d a (fun x => (x &&& imm.signExtend 32, 0)))
  | .sori imm a d => some (oneS th d a (fun x => (x ||| imm.signExtend 32, 0)))
  | .sshli imm a d => some (oneS th d a (fun x => (x <<< imm.toNat, 0)))
  | .sshri ar imm a d => some (oneS th d a (fun x => (if ar then x.sshiftRight imm.toNat else x >>> imm.toNat, 0)))
  | .slh imm d => some (th.setS (px.d d) (imm ++ (0#12)), 0)
  | .spch imm d => some (th.setS (px.d d) (BitVec.ofNat 32 th.own + (imm ++ (0#12))), 0)
  | _ => none

end Claims
end Sys2Proof

def Obligations.ScalarInstructionsWriteTheirResult : Prop :=
  ∀ (i : Sys2Proof.Instr) (s : Sys2Proof.Machine.State) (th : Sys2Proof.Machine.Thread) (r : Sys2Proof.Machine.Thread × Sys2Proof.Machine.Flags),
    Sys2Proof.Ready i s th → Sys2Proof.Claims.scalarEffect th i = some r → r.2 &&& Sys2Proof.Machine.enabled th = 0 →
    Sys2Proof.Retires i s (Sys2Proof.Machine.addFlags r.1 r.2)

namespace Sys2Proof.Claims
open Sys2Proof.Machine

/-! ## What the vector integer instructions compute in a lane, written from R314-R323 -/

/-- An element function: x, y, z to the result and the flags it raises. -/
abbrev ElemOp := (e : Nat) → BitVec e → BitVec e → BitVec e → BitVec e × Flags

/-- An exact result brought to e bits: wrapped, or clamped to the range of the suffix with the flag sat (R316). -/
def toElem (u sat : Bool) (e : Nat) (r : Int) : BitVec e × Flags :=
  let hi : Int := if u then 2 ^ e - 1 else 2 ^ (e - 1) - 1
  let lo : Int := if u then 0 else -2 ^ (e - 1)
  if sat && decide (hi < r) then (BitVec.ofInt e hi, flSat)
  else if sat && decide (r < lo) then (BitVec.ofInt e lo, flSat)
  else (BitVec.ofInt e r, 0)

/-- An element as a number: unsigned or signed. -/
def num (u : Bool) {e : Nat} (x : BitVec e) : Int := if u then x.toNat else x.toInt

def vAdd (u sat : Bool) : ElemOp := fun e x y _ => toElem u sat e (num u x + num u y)
def vSub (u sat : Bool) : ElemOp := fun e x y _ => toElem u sat e (num u x - num u y)
def vMul (u sat : Bool) : ElemOp := fun e x y _ => toElem u sat e (num u x * num u y)
def vMad (u sat : Bool) : ElemOp := fun e x y z => toElem u sat e (num u x * num u y + num u z)
def vAvg (u : Bool) : ElemOp := fun e x y _ => toElem u false e ((num u x + num u y + 1) / 2)
def vAnd : ElemOp := fun _ x y _ => (x &&& y, 0)
def vOr : ElemOp := fun _ x y _ => (x ||| y, 0)
def vXor : ElemOp := fun _ x y _ => (x ^^^ y, 0)
def vAndn : ElemOp := fun _ x y _ => (x &&& ~~~y, 0)
def vShl : ElemOp := fun _ x y _ => (x <<< (y.toNat % 256), 0)
def vShr (signed : Bool) : ElemOp := fun _ x y _ => (if signed then x.sshiftRight (y.toNat % 256) else x >>> (y.toNat % 256), 0)
def vRot : ElemOp := fun e x y _ => (x.rotateLeft (y.toNat % 256 % e), 0)
def vMin (u : Bool) : ElemOp := fun _ x y _ => (if num u x ≤ num u y then x else y, 0)
def vMax (u : Bool) : ElemOp := fun _ x y _ => (if num u y ≤ num u x then x else y, 0)
def vAbsd (u : Bool) : ElemOp := fun e x y _ => (BitVec.ofNat e (num u x - num u y).natAbs, 0)
def vClamp (u : Bool) : ElemOp := fun e x y z => if num u z < num u y then (z, 0) else vMin u e (vMax u e x y z).1 z z

/-- An element function on the elements of a lane: one word, two halves, four bytes or one pair (R314). -/
def elements (wd : BitVec 2) (g : ElemOp) (x y z : DWord) : DWord × Flags :=
  let at' := fun (e i : Nat) => g e (x.extractLsb' (e * i) e) (y.extractLsb' (e * i) e) (z.extractLsb' (e * i) e)
  match wd.toNat with
  | 0 => ((at' 32 0).1.setWidth 64, (at' 32 0).2)
  | 1 => (((at' 16 1).1 ++ (at' 16 0).1).setWidth 64, (at' 16 0).2 ||| (at' 16 1).2)
  | 2 => (((at' 8 3).1 ++ (at' 8 2).1 ++ (at' 8 1).1 ++ (at' 8 0).1).setWidth 64,
      (at' 8 0).2 ||| (at' 8 1).2 ||| (at' 8 2).2 ||| (at' 8 3).2)
  | _ => at' 64 0

/-- The thread with results written in the lanes `m`, and the flags that those lanes raise. -/
def inLanes (th : Thread) (m : Mask) (p : Bool) (d : Nat) (g : Nat → DWord × Flags) : Thread × Flags :=
  (setVx th p d m (fun L => (g L).1), (lanesOf m).foldl (fun a L => a ||| (g L).2) 0)

/-- Values without flags. -/
def quiet (g : Nat → DWord) (L : Nat) : DWord × Flags := (g L, 0)

/-- A T32 integer form. -/
def vec32 (th : Thread) (bs : Bool) (wd : BitVec 2) (b a d : BitVec 5) (g : ElemOp) : Thread × Flags :=
  let x := th.latch.px
  let p := wd == 3
  inLanes th th.mask p (x.d d) (fun L => elements wd g (vsrc th p (x.a a) L) (bsrcOf th bs p (x.b b) L) 0)

/-- An I32 form: y is the immediate (R318). -/
def vecImm (th : Thread) (a d : BitVec 5) (y : Word) (g : ElemOp) : Thread × Flags :=
  let x := th.latch.px
  inLanes th th.mask false (x.d d) (fun L => elements 0 g (vsrc th false (x.a a) L) (y.setWidth 64) 0)

/-- A T64 form with its guard, of up to three sources. -/
def vec64 (th : Thread) (wd : BitVec 2) (f : T64) (g : ElemOp) : Thread × Flags :=
  let p := wd == 3
  inLanes th (th.active (f.guard, f.gneg)) p f.d.toNat (fun L =>
    elements wd g (vsrc th p f.a.toNat L) (bsrcOf th f.bs p f.b.toNat L) (vsrc th p f.c.toNat L))

/-- A long form: T64, or I64 whose y is the immediate (R319). -/
def vecLong (th : Thread) (f : VForm) (g : Bool → ElemOp) : Thread × Flags :=
  match f with
  | .reg wd f => vec64 th wd f (g (f.sat th.latch.px))
  | .imm d a y => inLanes th th.mask false d.toNat (fun L =>
      elements 0 (g th.latch.px.sat) (vsrc th false a.toNat L) (y.setWidth 64) 0)

/-- Lanes of a function that has no flags: with register numbers resolved and the guard. -/
def vecFn (th : Thread) (i : Instr) (p : Bool) (d : Nat) (g : Nat → DWord) : Thread × Flags :=
  inLanes th (th.active i.guard) p d (quiet g)

/-- Quotient, remainder and flags in each lane (R320). -/
def vecDiv (th : Thread) (u : Bool) (f : T64) : Thread × Flags :=
  let m := th.active (f.guard, f.gneg)
  let r := fun L => quotRem (!u) (th.lane f.a.toNat L) (lo32 (bsrcOf th f.bs false f.b.toNat L))
  ((th.setV f.d.toNat m (fun L => (r L).1)).setV f.c.toNat m (fun L => (r L).2.1), (lanesOf m).foldl (fun a L => a ||| (r L).2.2) 0)

/-- Byte i of vbyte (R315). -/
def pickByte (a b c : Word) (i : Nat) : Byte :=
  if c.getLsbD (4 * i + 3) then 0 else (b ++ a).extractLsb' (8 * (c.extractLsb' (4 * i) 3).toNat) 8

/-- The vector integer instructions of R315, R318, R319 and R320. -/
def vectorEffect (th : Thread) (i : Instr) : Option (Thread × Flags) :=
  let px := th.latch.px
  let word := fun (f : Word → Word) (a L : Nat) => (f (th.lane a L)).setWidth 64
  match i with
  | .vaddT32 bs wd u b a d => some (vec32 th bs wd b a d (vAdd u px.sat))
  | .vaddI32 imm a d => some (vecImm th a d (imm.signExtend 32) (vAdd false px.sat))
  | .vaddT64 u f => some (vecLong th f (fun sat => vAdd u sat))
  | .vsubT32 bs wd u b a d => some (vec32 th bs wd b a d (vSub u px.sat))
  | .vsubT64 u f => some (vecLong th f (fun sat => vSub u sat))
  | .vmulT32 bs wd u b a d => some (vec32 th bs wd b a d (vMul u px.sat))
  | .vmulI32 imm a d => some (vecImm th a d (imm.signExtend 32) (vMul false px.sat))
  | .vmulT64 u f => some (vecLong th f (fun sat => vMul u sat))
  | .vavgT32 bs wd u b a d => some (vec32 th bs wd b a d (vAvg u))
  | .vavgT64 u f => some (vecLong th f (fun _ => vAvg u))
  | .vandT32 bs wd b a d => some (vec32 th bs wd b a d vAnd)
  | .vandI32 imm a d => some (vecImm th a d (imm.signExtend 32) vAnd)
  | .vandT64 f => some (vecLong th f (fun _ => vAnd))
  | .vorT32 bs wd b a d => some (vec32 th bs wd b a d vOr)
  | .vorI32 imm a d => some (vecImm th a d (imm.signExtend 32) vOr)
  | .vorT64 f => some (vecLong th f (fun _ => vOr))
  | .vxorT32 bs wd b a d => some (vec32 th bs wd b a d vXor)
  | .vxorI32 imm a d => some (vecImm th a d (imm.signExtend 32) vXor)
  | .vxorT64 f => some (vecLong th f (fun _ => vXor))
  | .vandnT32 bs wd b a d => some (vec32 th bs wd b a d vAndn)
  | .vandnT64 f => some (vecLong th f (fun _ => vAndn))
  | .vshlT32 bs wd b a d => some (vec32 th bs wd b a d vShl)
  | .vshlI32 imm a d => some (vecImm th a d (imm.setWidth 32) vShl)
  | .vshlT64 f => some (vecLong th f (fun _ => vShl))
  | .vshrUT32 bs wd b a d => some (vec32 th bs wd b a d (vShr false))
  | .vshrST32 bs wd b a d => some (vec32 th bs wd b a d (vShr true))
  | .vshrUI32 imm a d => some (vecImm th a d (imm.setWidth 32) (vShr false))
  | .vshrSI32 imm a d => some (vecImm th a d (imm.setWidth 32) (vShr true))
  | .vshrT64 ar f => some (vecLong th f (fun _ => vShr ar))
  | .vrotT32 bs wd b a d => some (vec32 th bs wd b a d vRot)
  | .vrotT64 f => some (vecLong th f (fun _ => vRot))
  | .vminT32 bs wd u b a d => some (vec32 th bs wd b a d (vMin u))
  | .vminT64 u f => some (vecLong th f (fun _ => vMin u))
  | .vmaxT32 bs wd u b a d => some (vec32 th bs wd b a d (vMax u))
  | .vmaxT64 u f => some (vecLong th f (fun _ => vMax u))
  | .vabsdT32 bs wd u b a d => some (vec32 th bs wd b a d (vAbsd u))
  | .vabsdT64 u f => some (vecLong th f (fun _ => vAbsd u))
  | .vaddaT32 bs b a d => some (vecFn th i true (px.d d) (fun L =>
      th.lanep (px.a a) L + (lo32 (bsrcOf th bs false (px.b b) L)).signExtend 64))
  | .vaddaT64 (.reg _ f) => some (vecFn th i true f.d.toNat (fun L =>
      th.lanep f.a.toNat L + (lo32 (bsrcOf th f.bs false f.b.toNat L)).signExtend 64))
  | .vaddaT64 (.imm d a y) => some (vecFn th i true d.toNat (fun L => th.lanep a.toNat L + y.signExtend 64))
  | .vbrevT32 a d => some (vecFn th i false (px.d d) (word BitVec.reverse (px.a a)))
  | .vbrevT64 _ f => some (vecFn th i false f.d.toNat (word BitVec.reverse f.a.toNat))
  | .vcntPopT32 a d => some (vecFn th i false (px.d d) (word (countOf .pop) (px.a a)))
  | .vcntClzT32 a d => some (vecFn th i false (px.d d) (word (countOf .clz) (px.a a)))
  | .vcntCtzT32 a d => some (vecFn th i false (px.d d) (word (countOf .ctz) (px.a a)))
  | .vcntT64 k _ f => some (vecFn th i false f.d.toNat (word (countOf k) f.a.toNat))
  | .vmad u wd f => some (vec64 th wd f (vMad u (f.sat px)))
  | .vclamp u wd f => some (vec64 th wd f (vClamp u))
  | .vshf _ f => some (vecFn th i false f.d.toNat (fun L =>
      (lo32 ((th.lane f.a.toNat L ++ th.lane f.c.toNat L) >>> ((bsrcOf th f.bs false f.b.toNat L).toNat % 32))).setWidth 64))
  | .vbf .extractU _ f => some (vecFn th i false f.d.toNat (word (fun a => fieldOf false a f.b.toNat f.c.toNat) f.a.toNat))
  | .vbf .extractS _ f => some (vecFn th i false f.d.toNat (word (fun a => fieldOf true a f.b.toNat f.c.toNat) f.a.toNat))
  | .vbf .insert _ f => some (vecFn th i false f.d.toNat (fun L =>
      (insertOf (th.lane f.a.toNat L) (th.lane f.d.toNat L) f.b.toNat f.c.toNat).setWidth 64))
  | .vbyte _ f => some (vecFn th i false f.d.toNat (fun L =>
      let g := pickByte (th.lane f.a.toNat L) (th.lane f.b.toNat L) (th.lane f.c.toNat L)
      (g 3 ++ g 2 ++ g 1 ++ g 0).setWidth 64))
  | .vset dbl d _ y => some (vecFn th i dbl d.toNat (fun _ => y.signExtend 64))
  | .vdiv u f => some (vecDiv th u f)
  | .vmulhi u f => some (vecFn th i false f.d.toNat (fun L =>
      (mulHigh (!u) (th.lane f.a.toNat L) (lo32 (bsrcOf th f.bs false f.b.toNat L))).setWidth 64))
  | .vmulw u f => some (vecFn th i true f.d.toNat (fun L =>
      let x := th.lane f.a.toNat L
      let y := lo32 (bsrcOf th f.bs false f.b.toNat L)
      if u then x.setWidth 64 * y.setWidth 64 else x.signExtend 64 * y.signExtend 64))
  | _ => none

/-- A predicate with the bits of the lanes `m` replaced (R312). -/
def predLanes (th : Thread) (n : Nat) (m bits : Mask) : Mask := (th.kbits n &&& ~~~m) ||| (bits &&& m)

/-- The source lane of vswz (R323). -/
def swizzle (k n L : Nat) : Nat :=
  match k with
  | 0 => if L < n then L else L - n
  | 1 => if 96 ≤ L + n then L else L + n
  | 2 => if 96 ≤ Nat.xor L n then L else Nat.xor L n
  | _ => (L + n) % 96

/-- Selects, moves and permutes of R322 and R323. -/
def moveEffect (th : Thread) (i : Instr) : Option (Thread × Flags) :=
  let px := th.latch.px
  let bit := fun (n L : Nat) => (th.kbits n).getLsbD L
  let swz := fun (k : Nat) (n : BitVec 7) (a d : BitVec 5) =>
    some (vecFn th i false (px.d d) (fun L => vsrc th false (px.a a) (swizzle k n.toNat L)))
  match i with
  | .vselT32 neg n b a d => some (vecFn th i false (px.d d) (fun L =>
      if bit n.toNat L = neg then vsrc th false (px.b b) L else vsrc th false (px.a a) L))
  | .vselT64 f => some (vecFn th i f.dbl f.d.toNat (fun L =>
      if bit f.c.toNat L = f.mb 30 then bsrcOf th f.bs f.dbl f.b.toNat L else vsrc th f.dbl f.a.toNat L))
  | .vbcastT32 a d => some (vecFn th i false (px.d d) (fun _ => (th.sv (px.a a)).setWidth 64))
  | .vbcastT64 f => some (vecFn th i f.dbl f.d.toNat (fun _ => if f.dbl then th.sp f.a.toNat else (th.sv f.a.toNat).setWidth 64))
  | .vextrT32 n a d => some (th.setS (px.d d) (th.lane (px.a a) n.toNat), 0)
  | .vextrT64 f => some (if f.dbl then th.setSp f.d.toNat (th.lanep f.a.toNat f.c.toNat)
      else th.setS f.d.toNat (th.lane f.a.toNat f.c.toNat), 0)
  | .vinsT32 n a d => some (setVx th false (px.d d) (th.mask &&& (1#96 <<< n.toNat)) (fun _ => (th.sv (px.a a)).setWidth 64), 0)
  | .vinsT64 f => some (setVx th f.dbl f.d.toNat (th.active i.guard &&& (1#96 <<< f.c.toNat))
      (fun _ => if f.dbl then th.sp f.a.toNat else (th.sv f.a.toNat).setWidth 64), 0)
  | .vlidT32 d => some (vecFn th i false (px.d d) (fun L => BitVec.ofNat 64 L))
  | .vlidT64 f => some (vecFn th i false f.d.toNat (fun L => BitVec.ofNat 64 L))
  | .vkvT32 n d => some (vecFn th i false (px.d d) (fun L => if bit n.toNat L then 0xFFFF_FFFF else 0))
  | .vkvT64 f => some (vecFn th i false f.d.toNat (fun L => if bit f.c.toNat L then 0xFFFF_FFFF else 0))
  | .vpermT32 b a d => some (vecFn th i false (px.d d) (fun L =>
      if (th.lane (px.b b) L).toNat < 96 then vsrc th false (px.a a) (th.lane (px.b b) L).toNat else 0))
  | .vpermT64 f => some (vecFn th i f.dbl f.d.toNat (fun L =>
      if (th.lane f.b.toNat L).toNat < 96 then vsrc th f.dbl f.a.toNat (th.lane f.b.toNat L).toNat else 0))
  | .vswzUpT32 n a d => swz 0 n a d
  | .vswzDnT32 n a d => swz 1 n a d
  | .vswzXorT32 n a d => swz 2 n a d
  | .vswzRotT32 n a d => swz 3 n a d
  | .vswzT64 k f => some (vecFn th i f.dbl f.d.toNat (fun L => vsrc th f.dbl f.a.toNat (swizzle k.toNat f.c.toNat L)))
  | _ => none

end Sys2Proof.Claims

namespace Sys2Proof.Claims
open Sys2Proof.Machine

/-! ## Predicates, the mask, reductions and the small services -/

/-- The conditions of scmp (R289). -/
def scalarCond (c : BitVec 3) (x y : Word) : Bool :=
  match c.toNat with
  | 0 => x == y
  | 1 => x != y
  | 2 => x.slt y
  | 3 => !x.slt y
  | 4 => x.ult y
  | _ => !x.ult y

/-- Bits of three consecutive scalar registers, the first lowest (R290). -/
def tripleOf (th : Thread) (n : Nat) : Mask := th.sv (n + 2) ++ th.sv (n + 1) ++ th.sv n

/-- Three consecutive scalar registers written with the thirds of a mask. -/
def putTriple (th : Thread) (n : Nat) (m : Mask) : Thread :=
  ((th.setS n (m.extractLsb' 0 32)).setS (n + 1) (m.extractLsb' 32 32)).setS (n + 2) (m.extractLsb' 64 32)

/-- Scalar compares and selects, predicate and mask moves (R289, R290). -/
def maskEffect (th : Thread) (i : Instr) : Option Thread :=
  let px := th.latch.px
  let narrowed := fun (m : Mask) => if th.nib then m &&& 1#96 else m
  match i with
  | .scmp c b a p => some (th.setK p.toNat (if scalarCond c (th.sv (px.a a)) (th.sv (px.b b)) then BitVec.allOnes 96 else 0))
  | .ssel neg n b a d =>
    let cond := if th.nib then (th.kbits n.toNat).getLsbD 0 else decide (∃ L : Fin 96, th.mask.getLsbD L = true ∧ (th.kbits n.toNat).getLsbD L = true)
    some (th.setS (px.d d) (if cond = neg then th.sv (px.b b) else th.sv (px.a a)))
  | .kop f r q p =>
    let x := th.kbits q.toNat
    let y := th.kbits r.toNat
    some (th.setK p.toNat (match f.toNat with
      | 0 => x &&& y | 1 => x ||| y | 2 => x ^^^ y | 3 => x &&& ~~~y | 4 => ~~~x | _ => x))
  | .kopKs a p => some (th.setK p.toNat (tripleOf th (px.a a)))
  | .kopSk q d => some (putTriple th (px.d d) (narrowed (th.kbits q.toNat)))
  | .msplit neg q d =>
    some ((putTriple th (px.d d) th.mask).setMask (th.mask &&& (if neg then ~~~(th.kbits q.toNat) else th.kbits q.toNat)))
  | .mjoin a => some (th.setMask (tripleOf th (px.a a)))
  | _ => none

/-- The conditions of vcmp (R321). -/
def laneCond {w : Nat} (c : Nat) (x y : BitVec w) : Bool :=
  match c with
  | 0 => x == y
  | 1 => x != y
  | 2 => x.slt y
  | 3 => x.sle y
  | 4 => y.slt x
  | 5 => y.sle x
  | 6 => x.ult y
  | 7 => x.ule y
  | 8 => y.ult x
  | _ => y.ule x

/-- The lanes in which a comparison of words, or of pairs, holds. -/
def whereHolds (p : Bool) (c : Nat) (x y : Nat → DWord) : Mask :=
  maskOf (fun L => if p then laneCond c (x L) (y L) else laneCond c (lo32 (x L)) (lo32 (y L)))

/-- Vector compares, carries, match and votes: what they write (R315, R321, R324, R373). -/
def predicateEffect (th : Thread) (i : Instr) : Option Thread :=
  let px := th.latch.px
  let m := th.active i.guard
  let carry := fun (f : T64) (sub : Bool) =>
    let r := fun L => let x : Int := (th.lane f.a.toNat L).toNat
                      let y : Int := (lo32 (bsrcOf th f.bs false f.b.toNat L)).toNat
                      let k : Int := if (th.kbits f.c.toNat).getLsbD L then 1 else 0
                      if sub then x - y - k else x + y + k
    setKlanes (th.setV f.d.toNat m (fun L => BitVec.ofInt 32 (r L))) f.c.toNat m
      (maskOf (fun L => if sub then decide (r L < 0) else decide (2 ^ 32 ≤ r L)))
  match i with
  | .vcmpT32 bs wd c b a p => some (setKlanes th p.toNat m
      (whereHolds (wd == 3) c.toNat (vsrc th (wd == 3) (px.a a)) (bsrcOf th bs (wd == 3) (px.b b))))
  | .vcmpT64 wd c f =>
    let t := whereHolds (wd == 3) c.toNat (vsrc th (wd == 3) f.a.toNat) (bsrcOf th f.bs (wd == 3) f.b.toNat)
    let k := th.kbits f.c.toNat
    some (setKlanes th f.d.toNat m (match f.m 30 29 with | 1 => t &&& k | 2 => t ||| k | _ => t))
  | .vaddc _ f => some (carry f false)
  | .vsubb _ f => some (carry f true)
  | .match_ f =>
    let same := fun L => m &&& maskOf (fun l => th.lane f.a.toNat l == th.lane f.a.toNat L)
    let d := f.d.toNat
    some ((((th.setV d m (fun L => (same L).extractLsb' 0 32)).setV (d + 1) m (fun L => (same L).extractLsb' 32 32)).setV (d + 2) m
      (fun L => (same L).extractLsb' 64 32)).setK f.c.toNat
      (maskOf (fun L => m.getLsbD L && (List.range L).all (fun l => !(same L).getLsbD l))))
  | .mvote f =>
    let word := fun L => if f.bs then th.lane f.c.toNat L else th.sv f.c.toNat
    let first := (lanesOf m).headD 0
    some (th.setK f.d.toNat (maskOf (fun L => m.getLsbD L && word L != word first)))
  | _ => none

/-- The operation of a reduction without saturation, on w-bit values (R325). -/
def reduceOp (op : RedOp) {w : Nat} (x y : BitVec w) : BitVec w :=
  match op with
  | .addS | .addU => x + y
  | .minS => if x.sle y then x else y
  | .minU => if x.ule y then x else y
  | .maxS => if y.sle x then x else y
  | .maxU => if y.ule x then x else y
  | .and => x &&& y
  | .or => x ||| y
  | .xor => x ^^^ y

/-- The active values combined one after the other. -/
def reduceAll {w : Nat} (op : RedOp) (xs : List (BitVec w)) : BitVec w :=
  match xs with
  | [] => 0
  | x :: r => r.foldl (reduceOp op) x

/-- Running sums of the active lanes (R326). -/
def runningSum (x : Nat → Word) (m : Mask) (exc : Bool) (L : Nat) : Word :=
  (((List.range L).filter (fun l => m.getLsbD l)).map x).sum + (if exc then 0 else x L)

/-- Reductions without saturation and scans (R325, R326). -/
def reduceEffect (th : Thread) (i : Instr) : Option Thread :=
  let m := th.active i.guard
  match i with
  | .vred op f =>
    if f.sat th.latch.px = true ∧ (op = .addS ∨ op = .addU) then none
    else if f.dbl then some (th.setSp f.d.toNat (reduceAll op ((lanesOf m).map (fun L => th.lanep f.a.toNat L))))
    else some (th.setS f.d.toNat (reduceAll op ((lanesOf m).map (fun L => th.lane f.a.toNat L))))
  | .vscan exc f => some (th.setV f.d.toNat m (runningSum (fun L => th.lane f.a.toNat L) m exc))
  | _ => none

/-- The services of a gang that only write registers (R295, R298, R299). -/
def serviceEffect (s : State) (th : Thread) (i : Instr) : Option Thread :=
  match i with
  | .loopCnt f => some (th.setS f.d.toNat (match th.loops with | l :: _ => l.left | [] => 0))
  | .rdtick false f => some (th.setSp f.d.toNat (BitVec.ofNat 64 s.tick))
  | .rdtick true f =>
    let n := max (clkCount s th.quill) th.clkLow
    some ({ th with clkLow := n }.setSp f.d.toNat (BitVec.ofNat 64 n))
  | .inkcal f => some (th.setS f.d.toNat (calendar (s.tick % 2 ^ 64) (th.sv f.a.toNat).toNat))
  | .mbx f => some (th.setS f.d.toNat (mailbox s th f.c.toNat))
  | .fsmov .rd f => some (th.setS f.d.toNat th.fstat)
  | .fsmov .wr f => some { th with fstat := th.sv f.a.toNat &&& (if th.nib then 0x0000_03FF else 0x03FF_03FF) }
  | .fsmov .clr f => some { th with fstat := th.fstat &&& ~~~(th.sv f.a.toNat &&& 0x0000_03FF) }
  | .mfp f =>
    if pregPoison th f.c.toNat then some (th.putS f.d.toNat { val := lo32 (pregRead s th f.c.toNat), poison := true })
    else some (th.setSx (pregWide f.c.toNat) f.d.toNat (pregRead s th f.c.toNat))
  | _ => none

end Sys2Proof.Claims

namespace Sys2Proof.Claims
open Sys2Proof.Machine

/-! ## Floating-point and exact arithmetic: formats, lanes and rounding modes around the arithmetic of 09 (R344-R360) -/

/-- The rounding code in force: the instruction's own, else an rmode prefix's, else nearest-even (R263). -/
def roundingOf (th : Thread) (own : Option (BitVec 3)) : RM :=
  match own with
  | some c => RM.ofCode c
  | none => match th.latch.px.rm with
    | some c => RM.ofCode c
    | none => .rne

/-- The rounding field of a T64 form, in force when modifier [27] is set. -/
def ownRounding (f : T64) : Option (BitVec 3) := if f.mb 27 then some (BitVec.ofNat 3 (f.m 26 24)) else none

/-- Element results of a lane: one of 32 or 64 bits, or two halves (R344). -/
def floatLane (fmt : FFmt) (g : Nat → Nat → Nat → FRes) (x y z : DWord) : DWord × Flags :=
  match fmt with
  | .f64 => let r := g x.toNat y.toNat z.toNat; (BitVec.ofNat 64 r.bits, r.flags)
  | .f32 => let r := g (lo32 x).toNat (lo32 y).toNat (lo32 z).toNat; (BitVec.ofNat 64 r.bits, r.flags)
  | _ =>
    let h := fun (x : DWord) (i : Nat) => (x.extractLsb' (16 * i) 16).toNat
    let lo := g (h x 0) (h y 0) (h z 0)
    let hi := g (h x 1) (h y 1) (h z 1)
    (BitVec.ofNat 64 (lo.bits + 2 ^ 16 * hi.bits), lo.flags ||| hi.flags)

/-- Flags of the lanes of a mask. -/
def lanesFlags (m : Mask) (g : Nat → Flags) : Flags := (lanesOf m).foldl (fun a L => a ||| g L) 0

/-- A value and its error written in two registers, or two pairs (R357, R358). -/
def withError (th : Thread) (m : Mask) (wide : Bool) (d : Nat) (g : Nat → PairRes) : Thread × Flags :=
  (setVx (setVx th wide d m (fun L => BitVec.ofNat 64 (g L).v)) wide (d + if wide then 2 else 1) m (fun L => BitVec.ofNat 64 (g L).e),
   lanesFlags m (fun L => (g L).flags))

/-- A double word: the value in register n, the error in register n + 1. -/
def doubleWord (th : Thread) (scalar : Bool) (n L : Nat) : Nat × Nat :=
  if scalar then ((th.sv n).toNat, (th.sv (n + 1)).toNat) else ((th.lane n L).toNat, (th.lane (n + 1) L).toNat)

/-- The five functions of R347 on registers d, a, b; under a pairx prefix the error goes with the value. -/
def floatArith (th : Thread) (m : Mask) (fmt : FFmt) (op : Nat) (bs : Bool) (rm : RM) (sat : Bool) (d a b : Nat) : Thread × Flags :=
  let wide := fmt == .f64
  match th.latch.px.pairMode with
  | 0 => inLanes th m wide d (fun L => floatLane fmt (fun x y _ => match op with
      | 0 => fAdd (fmtOf fmt) rm sat x y
      | 1 => fSub (fmtOf fmt) rm sat x y
      | 2 => fMul (fmtOf fmt) rm sat x y
      | 3 => fMinMax (fmtOf fmt) false x y
      | _ => fMinMax (fmtOf fmt) true x y) (vsrc th wide a L) (bsrcOf th bs wide b L) 0)
  | 2 => withError th m wide d (fun L =>
      let x := doubleWord th false a L
      let y := doubleWord th bs b L
      dwOp rm sat op false x.1 x.2 y.1 y.2)
  | _ => withError th m wide d (fun L =>
      fPair (if wide then Fmt.f64 else Fmt.f32) rm sat op (vsrc th wide a L).toNat (bsrcOf th bs wide b L).toNat)

/-- A T32 form. -/
def float32 (th : Thread) (i : Instr) (fmt : FFmt) (op : Nat) (bs : Bool) (b a d : BitVec 5) : Thread × Flags :=
  let x := th.latch.px
  floatArith th (th.active i.guard) fmt op bs (roundingOf th none) x.sat (x.d d) (x.a a) (x.b b)

/-- A T64 form. -/
def float64 (th : Thread) (i : Instr) (fmt : FFmt) (op : Nat) (f : T64) : Thread × Flags :=
  floatArith th (th.active i.guard) fmt op f.bs (roundingOf th (ownRounding f)) (f.sat th.latch.px) f.d.toNat f.a.toNat f.b.toNat

/-- A T64 function of up to three elements. -/
def floatFn (th : Thread) (i : Instr) (fmt : FFmt) (f : T64) (g : RM → Bool → Nat → Nat → Nat → FRes) : Thread × Flags :=
  let wide := fmt == .f64
  inLanes th (th.active i.guard) wide f.d.toNat (fun L =>
    floatLane fmt (g (roundingOf th (ownRounding f)) (f.sat th.latch.px)) (vsrc th wide f.a.toNat L) (bsrcOf th f.bs wide f.b.toNat L)
      (vsrc th wide f.c.toNat L))

/-- The floating-point instructions of R346-R352 and R355. -/
def floatEffect (th : Thread) (i : Instr) : Option (Thread × Flags) :=
  let half := fun (bf : Bool) => if bf then FFmt.bf16 else FFmt.f16
  match i with
  | .vfaddF32T32 bs b a d => some (float32 th i .f32 0 bs b a d)
  | .vfaddPackedT32 bs bf b a d => some (float32 th i (half bf) 0 bs b a d)
  | .vfaddT64 fmt f => some (float64 th i fmt 0 f)
  | .vfsubF32T32 bs b a d => some (float32 th i .f32 1 bs b a d)
  | .vfsubPackedT32 bs bf b a d => some (float32 th i (half bf) 1 bs b a d)
  | .vfsubT64 fmt f => some (float64 th i fmt 1 f)
  | .vfmulF32T32 bs b a d => some (float32 th i .f32 2 bs b a d)
  | .vfmulPackedT32 bs bf b a d => some (float32 th i (half bf) 2 bs b a d)
  | .vfmulT64 fmt f => some (float64 th i fmt 2 f)
  | .vfminF32T32 bs b a d => some (float32 th i .f32 3 bs b a d)
  | .vfminPackedT32 bs bf b a d => some (float32 th i (half bf) 3 bs b a d)
  | .vfminT64 fmt f => some (float64 th i fmt 3 f)
  | .vfmaxF32T32 bs b a d => some (float32 th i .f32 4 bs b a d)
  | .vfmaxPackedT32 bs bf b a d => some (float32 th i (half bf) 4 bs b a d)
  | .vfmaxT64 fmt f => some (float64 th i fmt 4 f)
  | .vfma fmt f => some (floatFn th i fmt f (fun rm sat a b c => fFma (fmtOf fmt) rm sat (f.mb 29) (f.mb 30) a b c))
  | .vfsgn fmt f => some (floatFn th i fmt f (fun _ _ a b _ => ⟨fSgn (fmtOf fmt) (f.m 30 29) a b, 0⟩))
  | .vfdiv fmt f => some (floatFn th i fmt f (fun rm sat a b _ => fDiv (fmtOf fmt) rm sat a b))
  | .vfsqrt fmt f => some (floatFn th i fmt f (fun rm sat a _ _ => fSqrt (fmtOf fmt) rm sat a))
  | .vfrcp fmt f => some (floatFn th i fmt f (fun rm sat a _ _ => fRcp (fmtOf fmt) rm sat a))
  | .vfrnd fmt f => some (floatFn th i fmt f (fun rm _ a _ _ => fRnd (fmtOf fmt) rm a))
  | .vfclass fmt f => some (inLanes th (th.active i.guard) false f.d.toNat (fun L =>
      floatLane fmt (fun a _ _ => ⟨fClass (fmtOf fmt) a, 0⟩) (vsrc th (fmt == .f64) f.a.toNat L) 0 0))
  | .vfdot2 bf f => some (inLanes th (th.active i.guard) false f.d.toNat (fun L =>
      let a := th.lane f.a.toNat L
      let b := lo32 (bsrcOf th f.bs false f.b.toNat L)
      let h := fun (x : Word) (i : Nat) => (x.extractLsb' (16 * i) 16).toNat
      let r := fDot2 (fmtOf (half bf)) (roundingOf th (ownRounding f)) (f.sat th.latch.px) (h a 0) (h b 0) (h a 1) (h b 1)
        (th.lane f.c.toNat L).toNat
      (BitVec.ofNat 64 r.bits, r.flags)))
  | .vfcmp wide cond f =>
    let m := th.active i.guard
    let fmt := if wide then Fmt.f64 else Fmt.f32
    let r := fun L => fCmp fmt cond.toNat (vsrc th wide f.a.toNat L).toNat (bsrcOf th f.bs wide f.b.toNat L).toNat
    let k := th.kbits f.c.toNat
    let t := maskOf (fun L => (r L).1)
    some (setKlanes th f.d.toNat m (match f.m 30 29 with | 1 => t &&& k | 2 => t ||| k | _ => t), lanesFlags m (fun L => (r L).2))
  | _ => none

/-- A number in a conversion's source format, converted to the destination format (R240, R353). -/
def converted (src dst : CvtFmt) (rm : RM) (sat : Bool) (x : Nat) : FRes :=
  match src, dst with
  | .flt f, .flt g => fToF f g rm sat x
  | .int sg n, .flt g => intToF g rm sat (if sg then (BitVec.ofNat n x).toInt else x)
  | .flt f, .int sg n => let r := fToInt f rm sg n x; ⟨(BitVec.ofInt n r.1).toNat, r.2⟩
  | .int _ _, .int _ _ => ⟨x, 0⟩

/-- Element e of a lane replaced (R354). -/
def replaceElem (n e : Nat) (old x : Nat) : DWord :=
  BitVec.ofNat 64 (old % 2 ^ (n * e) + x % 2 ^ n * 2 ^ (n * e) + old / 2 ^ (n * (e + 1)) * 2 ^ (n * (e + 1)))

/-- A conversion in the lanes: a narrow side takes element e of its register (R354). -/
def convertLanes (th : Thread) (i : Instr) (src dst : BitVec 4) (e : Nat) (rm : RM) (sat : Bool) (a d : Nat) : Thread × Flags :=
  let sf := cvtFmt src.toNat
  let df := cvtFmt dst.toNat
  let sw := sf.bits == 64
  let dw := df.bits == 64
  inLanes th (th.active i.guard) dw d (fun L =>
    let av := (vsrc th sw a L).toNat
    let x := if sf.bits < 32 then av / 2 ^ (sf.bits * e) % 2 ^ sf.bits else av % 2 ^ sf.bits
    let r := converted sf df rm sat x
    (if df.bits < 32 then replaceElem df.bits e (th.lane d L).toNat r.bits else BitVec.ofNat 64 r.bits, r.flags))

/-- Conversions, block formats and double words (R353-R359). -/
def exactEffect (th : Thread) (i : Instr) : Option (Thread × Flags) :=
  let px := th.latch.px
  let m := th.active i.guard
  match i with
  | .vcvtT32 e src dst a d => some (convertLanes th i src dst e.toNat (roundingOf th none) px.sat (px.a a) (px.d d))
  | .vcvtT64 src dst f => some (convertLanes th i src dst (f.m 31 30) (roundingOf th (ownRounding f)) (f.sat px) f.a.toNat f.d.toNat)
  | .vbxpk f =>
    let p := bxP (f.m 31 30)
    let block := fun j => bxPack p ((List.range 16).map (fun i => if m.getLsbD (16 * j + i) then (th.lane f.a.toNat (16 * j + i)).toNat else 0))
    let bytes := (List.range 6).flatMap (fun j => toBytes (2 * p + 4) (block j).1)
    some (th.setV f.d.toNat m (fun L => BitVec.ofNat 32 (ofBytes ((bytes.drop (4 * L)).take 4))),
      lanesFlags m (fun L => (block (L / 16)).2))
  | .vbxex f =>
    let p := bxP (f.m 31 30)
    let bytes := (List.range 96).flatMap (fun L => toBytes 4 (th.lane f.a.toNat L).toNat)
    let g := match f.c.toNat with | 2 => Fmt.f16 | 3 => Fmt.bf16 | _ => Fmt.f32
    let r := fun L => match bxElem p (ofBytes ((bytes.drop ((2 * p + 4) * (L / 16))).take (2 * p + 4))) (L % 16) with
      | some v => saturate g (f.sat px) (roundFV g (roundingOf th (ownRounding f)) v)
      | none => ⟨g.nanBits, 0⟩
    some (th.setV f.d.toNat m (fun L => BitVec.ofNat 32 (r L).bits), lanesFlags m (fun L => (r L).flags))
  | .vdwadd f | .vdwmul f =>
    some (withError th m false f.d.toNat (fun L =>
      let x := doubleWord th false f.a.toNat L
      let b := lo32 (bsrcOf th f.bs false f.b.toNat L)
      let y := if f.dbl then doubleWord th f.bs f.b.toNat L else (b.toNat, if b.msb then 0x8000_0000 else 0)
      dwOp (roundingOf th (ownRounding f)) (f.sat px) (match i with | .vdwadd _ => 0 | _ => 2) (f.mb 30) x.1 x.2 y.1 y.2))
  | .vdwnorm f =>
    some (withError th m false f.d.toNat (fun L =>
      let x := doubleWord th false f.a.toNat L
      let rm := roundingOf th (ownRounding f)
      match firstNan Fmt.f32 Fmt.f32 [x.1, x.2] with
      | some r => ⟨r.bits, 0, r.flags⟩
      | none => let z := dwValue rm x.1 x.2; errorOf Fmt.f32 z (deliver Fmt.f32 rm (f.sat px) z)))
  | .vcred k f =>
    let g := if k = .f64 then Fmt.f64 else Fmt.f32
    let wide := k == .f64
    let leaf := fun L => match k with
      | .f32 => ((th.lane f.a.toNat L).toNat, 0, (0 : Flags))
      | .dw => ((th.lane f.a.toNat L).toNat, (th.lane (f.a.toNat + 1) L).toNat, 0)
      | .f64 => ((th.lanep f.a.toNat L).toNat, 0, 0)
    let r := match laneTree (credCombine g) ((List.range 96).map (fun L => if m.getLsbD L then some (leaf L) else none)) with
      | some x => credFinal g (roundingOf th (ownRounding f)) (f.sat px) x
      | none => ⟨0, 0, 0⟩
    some ((th.setSx wide f.d.toNat (BitVec.ofNat 64 r.v)).setSx wide (f.d.toNat + if wide then 2 else 1) (BitVec.ofNat 64 r.e), r.flags)
  | _ => none

end Sys2Proof.Claims

namespace Sys2Proof.Claims
open Sys2Proof.Machine

/-! ## Transfers, traps and the control of gangs -/

/-- Rows that are instructions of a unit: not the prefixes, not the rows of words that do not execute, not the events. -/
def isUnit (i : Instr) : Bool :=
  match i with
  | .xreg _ _ _ | .rmode _ _ _ | .pairx _ | .cpol _ _ => false
  | .illegalInstruction | .instructionFetchFault | .seginvalWrite | .tflcntWrite | .statusDepthWrite => false
  | _ => !isEvent i

/-- A precise trap at the unit of thread `th`, with nothing else changed; a domain-disabled trap for a poisoned context descriptor has
entered that in the error log (R131). -/
def Traps (i : Instr) (s : State) (th : Thread) (cause : Nat) (set : Mask) (val : DWord) (syn : Word) : Prop :=
  exec i s = .next (trapThread (trapBase s th cause) s.cur th { cause := cause, orig := 0, set := set, pc := th.pcO, val := val, syn := syn })

/-- The unit cannot go on yet: it has no effect, and executes again at a later turn of its thread. -/
def StandsBy (i : Instr) (s : State) (th : Thread) : Prop :=
  exec i s = .next (s.setThread s.cur { th with latch := { th.latch with kept := true } })

/-- The thread after a taken transfer: the segment entry is read where the segment changes (R57); a b, jr or ljmp drops the
levels whose body does not hold the target (R297). -/
def landed (s : State) (th : Thread) (h : BitVec 16) (o : Nat) (pop : Bool) : Thread :=
  let inside := fun (l : Level) => l.handle == h && decide (l.start ≤ o) && decide (o ≤ l.stop)
  { th with pcH := h, pcO := o, atVec := 0, seg := if h = th.pcH then th.seg else readSeg s h.toNat th.vmid th.asid
            segFresh := if h = th.pcH then th.segFresh else false
            loops := if pop then th.loops.dropWhile (fun l => !inside l) else th.loops
            latch := Latch.empty, wait := .none, dlvd := [] }

/-- A transfer: the thread with its link written, the target's segment and offset, and whether levels pop (R291-R293). -/
def transferOf (th : Thread) (i : Instr) : Option (Thread × BitVec 16 × Int × Bool) :=
  let near := fun (o : BitVec 21) => (th.own : Int) + 4 * o.toInt
  let far := fun (k : JmpKind) (a : BitVec 8) (y : Word) => match k with
    | .abs => (th.pcH, (y.toNat : Int))
    | .reg => (th.pcH, (th.sv a.toNat).toNat + y.toInt)
    | .seg => ((th.sv (a.toNat + 1)).setWidth 16, (th.sv a.toNat).toNat + y.toInt)
  match i with
  | .b off _ _ => some (th, th.pcH, near off, true)
  | .call off _ _ => some (th.setS 31 (BitVec.ofNat 32 (th.own + 4)), th.pcH, near off, false)
  | .jr a => some (th, th.pcH, (th.sv a.toNat).toNat, true)
  | .jrL a d => some (th.setS d.toNat (BitVec.ofNat 32 (th.own + 4)), th.pcH, (th.sv a.toNat).toNat, false)
  | .ljmp k _ a y => some (th, (far k a y).1, (far k a y).2, true)
  | .lcall k d a y =>
    some ((th.setS d.toNat (BitVec.ofNat 32 (th.own + 8))).setS (d.toNat + 1) (th.pcH.setWidth 32), (far k a y).1, (far k a y).2, false)
  | _ => none

/-- The frame that a trap pushes (R402). -/
def frameOf (th : Thread) (e : Entry) : Frame :=
  let r := if e.cause = 0x38 then th.rfault else none
  { pc := BitVec.ofNat 64 (th.pcH.toNat * 2 ^ 32 + e.pc % 2 ^ 32), mask := th.mask, pois := th.maskPoison
    cause := BitVec.ofNat 32 ((match th.mode with | .user => 0 | .sup => 1 | .hyp => 2) * 2 ^ 30 + e.orig * 2 ^ 16 + e.cause)
    val := e.val, syn := e.syn
    rdom := match r with | some x => x.addr | none => 0
    rinfo := match r with | some x => BitVec.ofNat 32 (x.count.toNat * 2 ^ 16 + x.cls.toNat * 2 ^ 11 + x.peer.toNat) | none => 0
    levels := th.loops }

/-- What entry to a trap leaves in the thread: a frame of the receiving mode, the trapping set as mask, no loop levels, and the
entry vector of the mode as program counter (R402). -/
structure Entered (s : State) (th th' : Thread) (m : Mode) (e : Entry) : Prop where
  frames : (m = .sup → th'.sup = frameOf th e :: th.sup ∧ th'.hyp = th.hyp) ∧ (m = .hyp → th'.hyp = frameOf th e :: th.hyp ∧ th'.sup = th.sup)
  mode : th'.mode = m
  mask : 3 ≤ th.s.length → th'.mask = e.set
  pc : th'.pc = (if m = .sup then th.svec else th.hvec) &&& 0xFFFF_FFFF_FFFF#64
  seg : th'.seg = if th'.pcH = th.pcH then th.seg else readSeg s th'.pcH.toNat th.vmid th.asid
  loops : th'.loops = []
  record : th'.rfault = if e.cause = 0x38 then none else th.rfault
  vectors : ∀ n, th'.vreg n = th.vreg n
  scalars : ∀ n, 3 ≤ n → th'.s[n]? = th.s[n]?
  banks : th'.bankS = th.bankS ∧ th'.bankH = th.bankH
  predicates : th'.k = th.k
  status : th'.fstat = th.fstat ∧ th'.uck = th.uck ∧ th'.take = th.take ∧ th'.svec = th.svec ∧ th'.hvec = th.hvec
  queue : th'.mq = th.mq

/-- The group of each cause (R396). -/
def causeGroups : List (Nat × Nat) :=
  (List.range 11).map (fun n => (n + 1, 0)) ++ (0x0C :: (List.range 9).map (fun n => n + 0x10)).map (fun c => (c, 1)) ++
  [(0x20, 2), (0x28, 3), (0x29, 3), (0x30, 4), (0x38, 5), (0x40, 6), (0x41, 6), (0x42, 6), (0x43, 6), (0x44, 6)]

/-- The mode that receives a trap (R399): from hypervisor mode the hypervisor; else a syscall the supervisor, an hcall the hypervisor, a
cause of group g the hypervisor where the take bit g of hstatus is set and the supervisor where it is clear. -/
def Receives (th : Thread) (c : Nat) (m : Mode) : Prop :=
  (th.mode = .hyp → m = .hyp) ∧
  (th.mode ≠ .hyp → (c = 0x50 ∧ m = .sup) ∨ (c = 0x51 ∧ m = .hyp) ∨
    ∃ g, (c, g) ∈ causeGroups ∧ m = (if th.take.getLsbD g then .hyp else .sup))

/-- What a return from a trap leaves: mask, mode, levels and program counter of the frame, which is popped (R308). -/
structure Returned (s : State) (th th' : Thread) (f : Frame) (m : Mode) : Prop where
  frames : (th.mode = .sup → th'.sup = th.sup.tail ∧ th'.hyp = th.hyp) ∧ (th.mode = .hyp → th'.hyp = th.hyp.tail ∧ th'.sup = th.sup)
  mode : th'.mode = m
  mask : 3 ≤ th.s.length → th'.mask = f.mask ∧ th'.maskPoison = f.pois
  pc : th'.pc = f.pc &&& 0xFFFF_FFFF_FFFF#64
  seg : th'.seg = if th'.pcH = th.pcH then th.seg else readSeg s th'.pcH.toNat th.vmid th.asid
  loops : th'.loops = f.levels
  vectors : ∀ n, th'.vreg n = th.vreg n
  scalars : ∀ n, 3 ≤ n → th'.s[n]? = th.s[n]?
  predicates : th'.k = th.k
  status : th'.fstat = th.fstat ∧ th'.uck = th.uck ∧ th'.take = th.take

/-- The frames of the executing mode. -/
def ownFrames (th : Thread) : List Frame := match th.mode with | .user => [] | .sup => th.sup | .hyp => th.hyp

/-! ## Loops, barriers, the decision queue, ordered sections, phases -/

/-- The thread goes on at an offset of its segment without a transfer. -/
def goesTo (th : Thread) (o : Nat) : Thread := { th with pcO := o, latch := Latch.empty, wait := .none, dlvd := [], atVec := 0 }

/-- The thread waits; its unit retires when the wait ends. -/
def waits (th : Thread) (w : Wait) : Thread := { th with wait := w, wend := th.nextO, latch := Latch.empty }

/-- The state with the thread retired. -/
def andRetires (s : State) (t : Nat) (th : Thread) : State := s.setThread t (retire th)

/-- A loop level is pushed; a count of zero skips the body and closes the levels that end with it (R297). -/
def loopEffect (s : State) (th : Thread) (imm : Bool) (f : T64) : Option State :=
  let n : Word := if imm then BitVec.ofNat 32 (f.a.toNat + 256 * f.md.toNat) else th.sv f.a.toNat
  let start := th.own + 8
  let stop := start + 4 * (f.b.toNat + 256 * f.c.toNat) - 4
  let level : Level := { handle := th.pcH, start := start, stop := stop, left := n }
  if n = 0 then
    let c := closeCheck th.loops th.pcH stop
    if c.2 < 2 ^ 32 then some (s.setThread s.cur { goesTo th c.2 with loops := c.1 }) else none
  else if th.loops.length < 4 then some (s.setThread s.cur { goesTo th start with loops := level :: th.loops })
  else none

/-- Arrivals, pushes, pops and sections (R203, R204, R206, R302-R304). -/
def gangEffect (s : State) (th : Thread) (g : Gang) (i : Instr) : Option State :=
  let t := s.cur
  match i with
  | .barGang f =>
    if allPerformed th 1 then
      some ((s.setGang th.gang { g with bars := g.bars ++ [(f.c.toNat, t)] }).setThread t (waits th (.bar f.c.toNat)))
    else none
  | .barFol _ => match g.fgang, allPerformed th 2 with
    | some n, true =>
      some ({ s with fgangs := s.fgangs.change n (fun x => { x with arrived := x.arrived ++ [t] }) }.setThread t (waits th .fol))
    | _, _ => none
  | .dqpush f =>
    let w := th.sv f.a.toNat
    if dqHeld s g + pendingPushes th < 64 then some (andRetires s t (pushWord th w)) else some (s.setThread t (waits th (.push w)))
  | .dqpop f =>
    if g.nib.isSome ∧ allPerformed th 1 then
      match dqWord g th with
      | some w => some (andRetires s t { th.setS f.d.toNat w with dqpos := th.dqpos + 1 })
      | none => if nibClosed s g then none else some (s.setThread t (waits th (.pop f.d.toNat)))
    else none
  | .ordbeg f =>
    let key := th.sv f.a.toNat
    if g.held = none ∧ g.frontier ≤ key.toNat then
      let g1 := { g with frontier := key.toNat }
      if mayEnter (s.setGang th.gang g1) th.gang g1 key then
        some (andRetires ((s.setGang th.gang { g1 with held := some (t, key) }).modQuill th.quill cqClear) t th)
      else some ((s.setGang th.gang g1).setThread t (waits th (.ordbeg key)))
    else if g.held ≠ none then some (s.setThread t (waits th (.ordheld key (th.active i.guard))))
    else none
  | .ordend f =>
    let key := th.sv f.a.toNat
    match g.held with
    | none => some (andRetires (s.setGang th.gang { g with frontier := max g.frontier (key.toNat + 1) }) t th)
    | some (w, k) =>
      if w = t ∧ k = key ∧ allPerformed th 3 then
        some (andRetires (s.setGang th.gang { g with held := none, frontier := key.toNat + 1 }) t th)
      else none
  | .ordrel _ =>
    match g.held with
    | some (w, k) =>
      if w = t then
        if allPerformed th 3 then some (andRetires (s.setGang th.gang { g with held := none, frontier := k.toNat + 1 }) t th) else none
      else some (andRetires s t th)
    | none => some (andRetires s t th)
  | .clkdiv f =>
    some (andRetires (s.setGang th.gang { g with clkreq := setAt g.clkreq (f.m 25 24) (some f.c.toNat), divSet := true }) t th)
  | .phase f =>
    let th1 := { th with phase := some f.c }
    let s1 := s.setThread t th1
    some (andRetires (match commonPhase (lastPhases s1 g) with | some p => crossPhase s1 th.gang p | none => s1) t th1)
  | .ipf .pf _ => some (andRetires s t th)
  | .ipf .pin f =>
    let ls := (ipfLines s th f).map (fun l => (th.pcH.toNat, l))
    some (andRetires (ls.foldl (fun s p =>
      if pinned s th.quill < 512 then s.modGang th.gang (fun g => if g.pins.contains p then g else { g with pins := g.pins ++ [p] })
      else s) s) t th)
  | .ipf .unpin f =>
    let ls := (ipfLines s th f).map (fun l => (th.pcH.toNat, l))
    some (andRetires (s.setGang th.gang { g with pins := g.pins.filter (fun p => !ls.contains p) }) t th)
  | _ => none

/-- Where gang control traps, with the cause and its value (R204, R206, R303, R304): a key behind the frontier, the end of a section that this
warp does not hold under that key, a pop without a nib or from a queue that has closed empty, a folio barrier outside a folio gang. -/
def gangTrap (s : State) (th : Thread) (g : Gang) (i : Instr) : Option (Nat × DWord) :=
  match i with
  | .ordbeg f => if g.held = none ∧ (th.sv f.a.toNat).toNat < g.frontier then some (0x43, (th.sv f.a.toNat).setWidth 64) else none
  | .ordend f => match g.held with
    | some (w, k) => if w ≠ s.cur ∨ k ≠ th.sv f.a.toNat then some (0x43, (th.sv f.a.toNat).setWidth 64) else none
    | none => none
  | .dqpop _ =>
    if g.nib = none then some (0x41, 0)
    else if allPerformed th 1 = true ∧ dqWord g th = none ∧ nibClosed s g = true then some (0x40, 0) else none
  | .barFol _ => if g.fgang = none then some (0x42, 0) else none
  | _ => none

/-! ## Privileged registers (R310) -/

/-- What mtp writes into the thread (R310, R400, R404). -/
def privEffect (th : Thread) (n : Nat) (x : DWord) : Option Thread :=
  let depth := fun (fs : List Frame) (k : Nat) => if k ≤ fs.length then fs.drop (fs.length - k) else List.replicate (k - fs.length) Frame.zero ++ fs
  let onFrame := fun (m : Mode) (k : Nat) => match th.framesOf m with
    | fr :: r => some (th.setFrames m (frameWrite fr k x :: r))
    | [] => some th
  if n = 0x22 then some { th with svec := x &&& 0xFFFF_FFFF_FFFF#64 }
  else if n = 0x23 then some { th with hvec := x &&& 0xFFFF_FFFF_FFFF#64 }
  else if n = 0x20 then
    if x.toNat % 4 = 3 then none else some { th with uck := x.getLsbD 6, sup := depth th.sup (x.toNat % 4) }
  else if n = 0x21 then
    if x.toNat % 4 = 3 then none else some { th with take := x.extractLsb' 16 7, hyp := depth th.hyp (x.toNat % 4) }
  else if n = 0x28 then if th.framesOf th.mode ≠ [] ∧ 4 < x.toNat % 8 then none else onFrame th.mode 0x28
  else if n = 0x38 then if th.framesOf .sup ≠ [] ∧ 4 < x.toNat % 8 then none else onFrame .sup 0x28
  else if n < 9 ∨ (0x29 ≤ n ∧ n ≤ 0x30) then onFrame th.mode n
  else if (0x10 ≤ n ∧ n ≤ 0x18) ∨ (0x39 ≤ n ∧ n ≤ 0x40) then onFrame .sup (n - 0x10)
  else none

/-- The value that mtp writes: a pair or one register. -/
def privValue (th : Thread) (f : T64) : DWord := if pregWide f.c.toNat then th.sp f.a.toNat else (th.sv f.a.toNat).setWidth 64

end Sys2Proof.Claims

open Sys2Proof.Machine Sys2Proof.Claims Sys2Proof in
/-- A transfer lands at its target with its link written (R291-R293, R297); one to an unaligned offset, or outside 32 bits, traps at
the transfer and writes no link (R55, R253). That the trap takes the activity mask and names the target's offset is the model's reading
(log 46): R396 gives cause 0x11 the set F or M and the address. -/
def Obligations.TransfersLandAtTheirTargetOrTrap : Prop :=
  ∀ (i : Instr) (s : State) (th th' : Thread) (h : BitVec 16) (o : Int) (pop : Bool),
    Ready i s th → transferOf th i = some (th', h, o, pop) →
    (o % 4 = 0 → 0 ≤ o → o < 2 ^ 32 → exec i s = .next (s.setThread s.cur (landed s th' h o.toNat pop))) ∧
    (o % 4 ≠ 0 → Traps i s th 0x11 th.mask (BitVec.ofInt 64 o) 0) ∧
    (o % 4 = 0 → (o < 0 ∨ 2 ^ 32 ≤ o) → Traps i s th 0x18 th.mask (BitVec.ofInt 64 o) 0)

open Sys2Proof.Machine Sys2Proof.Claims Sys2Proof in
/-- A loop instruction pushes a level, or skips its body when the count is zero; a fifth level traps (R295, R296). -/
def Obligations.LoopsPushALevelOrSkip : Prop :=
  ∀ (imm : Bool) (f : T64) (s : State) (th : Thread), Ready (.loop imm f) s th →
    (∀ t, loopEffect s th imm f = some t → exec (.loop imm f) s = .next t) ∧
    ((if imm then BitVec.ofNat 32 (f.a.toNat + 256 * f.md.toNat) else th.sv f.a.toNat) ≠ 0 → 4 ≤ th.loops.length →
      Traps (.loop imm f) s th 0x06 th.mask 0 0)

open Sys2Proof.Machine Sys2Proof.Claims Sys2Proof in
/-- Barrier arrivals, decision-queue pushes and pops, ordered sections, clkdiv and prefetches; and where gang control traps, with nothing
changed (R204, R206, R303, R304). -/
def Obligations.GangControlHasItsEffect : Prop :=
  ∀ (i : Instr) (s : State) (th : Thread) (g : Gang), Ready i s th → s.gang th.gang = some g →
    (∀ t, gangEffect s th g i = some t → exec i s = .next t) ∧
    (∀ c v, gangTrap s th g i = some (c, v) → Traps i s th c (th.active i.guard) v 0)

open Sys2Proof.Machine Sys2Proof.Claims Sys2Proof in
def Obligations.PrivilegedRegisterWritesReachTheThread : Prop :=
  ∀ (f : T64) (s : State) (th th' : Thread), Ready (.mtp f) s th → privEffect th f.c.toNat (privValue th f) = some th' →
    Retires (.mtp f) s th'

open Sys2Proof.Machine Sys2Proof.Claims Sys2Proof in
/-- A trap goes to the mode that R399 names and saves the thread in a frame there (R397-R402). Where that mode holds two frames it goes to
the hypervisor as a frame overflow with the first cause in orig; where the hypervisor holds two frames too, every thread of the gang ends and
the grid records the overflow (R401). A trap of the nib is an engine fault of the nib's class with the cause as its index (R407, R408). -/
def Obligations.TrapEntrySavesTheThreadAndVectors : Prop :=
  ∀ (s : State) (t : Nat) (th : Thread) (e : Entry) (m : Mode),
    (Receives th e.cause m → receiver th.mode th.take e.cause = m) ∧
    (th.nib = false → receiver th.mode th.take e.cause = m →
      ((if m = .sup then th.sup else th.hyp).length < 2 → ∃ th', trapThread s t th e = s.setThread t th' ∧ Entered s th th' m e) ∧
      (m = .sup → 2 ≤ th.sup.length → th.hyp.length < 2 → ∃ th', trapThread s t th e = s.setThread t th' ∧
        Entered s th th' .hyp { e with cause := 0x58, orig := e.cause, syn := 0 }) ∧
      (∀ g, (m = .sup → 2 ≤ th.sup.length) → 2 ≤ th.hyp.length → s.gang th.gang = some g → let u := trapThread s t th e
        (∀ n x, n ∈ g.warps ++ g.nib.toList → u.thread n = some x → x.exited = true) ∧
        (∀ n, n ∉ g.warps ++ g.nib.toList → u.thread n = s.thread n) ∧
        u.grids.find g.grid = (s.grids.find g.grid).map (fun x => { x with overflow := true }))) ∧
    (th.nib = true → (s.quill th.quill).efs.stop = false → (s.quill th.quill).fault = none → let u := trapThread s t th e
      (u.quill th.quill).halted = true ∧ u.mem = s.mem ∧ (u.quill th.quill).fault = some
        { stream := 3, cls := 0x1F, seq := 0, index := e.cause, addr := e.val,
          syn := if e.cause = 0x20 then some (e.syn, th.vmid, th.asid) else none, pa := none, tick := s.tick })

open Sys2Proof.Machine Sys2Proof.Claims Sys2Proof in
def Obligations.TrapReturnRestoresTheFrame : Prop :=
  ∀ (i : Instr) (s : State) (th : Thread) (f : Frame) (m : Mode), (i = .tretT32 ∨ ∃ w, i = .tretT64 w) → Ready i s th →
    (ownFrames th).head? = some f →
    (m = .user ∧ f.cause.toNat / 2 ^ 30 = 0 ∨ m = .sup ∧ f.cause.toNat / 2 ^ 30 = 1 ∨
      m = .hyp ∧ f.cause.toNat / 2 ^ 30 = 2 ∧ th.mode = .hyp) →
    ∃ th', exec i s = .next (s.setThread s.cur th') ∧ Returned s th th' f m

open Sys2Proof.Machine Sys2Proof.Claims Sys2Proof in
def Obligations.CallsToThePrivilegedModesTrapAfterTheUnit : Prop :=
  ∀ (i : Instr) (s : State) (th : Thread) (c : Nat) (svc : BitVec 8), Ready i s th →
    (c = 0x50 ∧ (i = .syscallT32 svc ∨ ∃ f : T64, i = .syscallT64 f ∧ f.md = svc) ∨
     c = 0x51 ∧ (i = .hcallT32 svc ∨ ∃ f : T64, i = .hcallT64 f ∧ f.md = svc)) →
    exec i s = .next (trapThread (s.setThread s.cur (retire th)) s.cur (retire th)
      { cause := c, orig := 0, set := th.active i.guard, pc := (retire th).pcO, val := svc.setWidth 64, syn := 0 })

open Sys2Proof.Machine Sys2Proof.Claims Sys2Proof in
/-- exit ends its thread and changes no other thread and no memory (R216, R309); it waits for its domain stores, takes the remote-fault trap
where one was refused (R160), and the abandoned-section trap inside its section (R406); halt ends every thread of the gang and marks its grid
(R309). -/
def Obligations.ExitAndHaltEndThreads : Prop :=
  (∀ (i : Instr) (s : State) (th : Thread), (i = .exitT32 ∨ ∃ f, i = .exitT64 f) → Ready i s th → domStoresDone th = true →
    th.rfault = none → (∀ g k, s.gang th.gang = some g → g.held ≠ some (s.cur, k)) →
    ∃ t x, exec i s = .next t ∧ t.thread s.cur = some x ∧ x.exited = true ∧ x.sup = [] ∧ x.hyp = [] ∧ x.loops = [] ∧
      (∀ n, n ≠ s.cur → t.thread n = s.thread n) ∧ t.mem = s.mem ∧ t.grids = s.grids) ∧
  (∀ (i : Instr) (s : State) (th : Thread), (i = .exitT32 ∨ ∃ f, i = .exitT64 f) → Ready i s th →
    (domStoresDone th = false → StandsBy i s th) ∧
    (domStoresDone th = true → th.rfault ≠ none → Traps i s th 0x38 (th.active i.guard) 0 0) ∧
    (∀ g k, domStoresDone th = true → th.rfault = none → s.gang th.gang = some g → g.held = some (s.cur, k) →
      Traps i s th 0x44 (th.active i.guard) (k.setWidth 64) 0)) ∧
  (∀ (f : T64) (s : State) (th : Thread) (g : Gang), Ready (.halt f) s th → s.gang th.gang = some g →
    ∃ t, exec (.halt f) s = .next t ∧
      (∀ n x, n ∈ g.warps ++ g.nib.toList → t.thread n = some x → x.exited = true) ∧
      (∀ n, n ∉ g.warps ++ g.nib.toList → t.thread n = s.thread n) ∧
      t.grids.find g.grid = (s.grids.find g.grid).map (fun x => { x with halt := true }))

open Sys2Proof.Machine Sys2Proof.Claims Sys2Proof in
/-- The checks of R267, each with its cause. A unit that is not legal in its thread traps with cause 0x01 whatever its guard, its mode
and its operands (R205, R271, R282); that this holds also of what the executing unit alone makes illegal, dqpush in a warp and what the nib may
not execute, is log 45, the model's reading, and so is which register a register-range trap names (log 41). The first unit at a hypervisor entry point traps in a segment that may hold no
hypervisor code, one that acts on lanes where a lane is active: where it executes nothing, it only retires and the next unit stands there
(R56, R397; log 12, the model's reading); a cpyt whose row length is no multiple of its element size is illegal before that, whatever the
mask holds (R382, R397). A legal unit whose guard or mask lets nothing execute only retires (R258, R281, R313). Where entries or accesses that it awaits have still to
return the unit waits, and where one raised an enabled flag it takes the arithmetic trap in its place, and those flags are no longer pending (R366; the set is log 97, the model's
reading, and which pending flags a trap clears log 47). -/
def Obligations.ChecksTrapInTheirOrder : Prop :=
  ∀ (i : Instr) (s : State) (th : Thread), isUnit i = true → s.thread s.cur = some th → th.exited = false → th.wait = .none →
    th.latch.closed = false →
    (legalIn i th = false → Traps i s th 0x01 th.mask (illegalVal i th.latch) 0) ∧
    (legalIn i th = true →
      (valueCheck i s s.cur th = none → (th.atVec = 2 ∨ th.atVec = 3) → (∀ e, th.seg = some e → e.hyp = false) →
        (i.cls = .whole ∨ executes i th = true) → Traps i s th 0x02 th.mask (latchWords th.latch) 0) ∧
      (∀ x y f, i = .cpyt x y f → f.a.toNat + 4 < th.s.length → opPending s s.cur th (Opd.rs (f.a.toNat + 4) 1) = false →
        (th.sreg (f.a.toNat + 4)).poison = false → ((th.sv (f.a.toNat + 4)).toNat % 65536 + 1) % 2 ^ (f.m 27 24) ≠ 0 →
        Traps i s th 0x01 th.mask (latchWords th.latch) 0) ∧
      (entryFails i th = false → valueCheck i s s.cur th = none →
        (executes i th = false → exec i s = .next (s.setThread s.cur (passOver th)) ∧ (entryShut th = false → passOver th = retire th)) ∧
        (executes i th = true →
          (privFails i th = true → Traps i s th 0x02 th.mask (latchWords th.latch) 0) ∧
          (privFails i th = false → ∀ f n, rangeTrap th (i.opds th.latch.px) = some (f, n) →
            Traps i s th 0x04 (if i.threadWide then th.active i.guard else th.mask) (BitVec.ofNat 64 (f * 256 + n)) 0) ∧
          (privFails i th = false → rangeTrap th (i.opds th.latch.px) = none → opPending s s.cur th (issueOpds i th) = false →
            th.uck = true → th.mode = .user → ∀ n, taggedRead th (issueOpds i th) = some n →
            Traps i s th 0x05 (th.active i.guard) (BitVec.ofNat 64 n) 0) ∧
          (privFails i th = false → rangeTrap th (i.opds th.latch.px) = none → opPending s s.cur th (issueOpds i th) = false →
            (if th.uck = true ∧ th.mode = .user then taggedRead th (issueOpds i th) else none) = none →
            (lateWaits s i s.cur th = true → StandsBy i s th) ∧
            (lateWaits s i s.cur th = false → lateAwaited i th ≠ 0 → exec i s = .next (trapThread s s.cur
              { th with late := th.late.filter (fun l => !awaits i th l) }
              { cause := 0x30, orig := 0, set := if i.threadWide then th.active i.guard else th.mask, pc := th.pcO
                val := (lateAwaited i th).setWidth 64, syn := 0 }))))))

namespace Sys2Proof.Claims
open Sys2Proof.Machine

/-! ## Memory instructions: the accesses that enter the queues (R327-R338) -/

/-- What a memory instruction asks for: the checks of an access, the accesses, how they enter the queue. -/
structure MemForm where
  kind : OpKind
  check : LaneReq → Chk
  reqs : List LaneReq
  acq : Option Nat
  rel : Option Nat
  fin : Fin

/-- Bytes of a datum (R255). -/
def byteSize (sz : BitVec 3) : Nat := [1, 2, 4, 8, 1, 2, 16].getD sz.toNat 16

/-- The low bytes of consecutive registers. -/
def datum (sz : BitVec 3) (reg : Nat → Word) : List Byte := ((List.range 4).flatMap (fun i => toBytes 4 (reg i).toNat)).take (byteSize sz)

/-- An access of a lane. -/
def asks (L : Nat) (base addr : DWord) (n : Nat) (data : List Byte) : LaneReq :=
  { lane := L, base := base, addr := addr, size := n, data := data, cmp := [] }

/-- The address of an access: a pair and an offset, or 32 bits of scratchpad (R329). -/
def place (scr : Bool) (a : Word) (p off : DWord) : DWord × DWord :=
  if scr then ((a + lo32 off).setWidth 64, (a + lo32 off).setWidth 64) else (p, p + off)

/-- A load or store of the vector forms: one access a lane. -/
def vectorForm (s : State) (th : Thread) (m : Mask) (st scr : Bool) (sz : BitVec 3) (d a : Nat) (off : DWord) (code : Nat)
    (ord : Option Nat) : MemForm :=
  { kind := if st then .store else .load
    check := if scr then checkScr s th code else checkGlobal s th (if st then .store else .load)
    reqs := (lanesOf m).map (fun L => let x := place scr (th.lane a L) (th.lanep a L) off
      asks L x.1 x.2 (byteSize sz) (if st then datum sz (fun i => th.lane (d + i) L) else []))
    acq := if st then none else ord
    rel := if st then ord else none
    fin := if st then .none else .vload sz.toNat d }

/-- A scalar load or store: one access for the thread. -/
def scalarForm (s : State) (th : Thread) (st scr : Bool) (sz : BitVec 3) (d a : Nat) (off : DWord) (code : Nat)
    (ord : Option Nat) : MemForm :=
  { kind := if st then .store else .load
    check := if scr then checkScr s th code else checkGlobal s th (if st then .store else .load)
    reqs := let x := place scr (th.sv a) (th.sp a) off
      [asks 0 x.1 x.2 (byteSize sz) (if st then datum sz (fun i => th.sv (d + i)) else [])]
    acq := if st then none else ord
    rel := if st then ord else none
    fin := if st then .none else .sload sz.toNat (th.bankNum d) }

/-- An atomic access: operand and, for cas, comparand (R333). -/
def atomAsks (L : Nat) (a : DWord) (wide : Bool) (op : AtomOp) (b c : DWord) : LaneReq :=
  let n := if wide then 8 else 4
  { lane := L, base := a, addr := a, size := n, data := toBytes n b.toNat, cmp := if op = .cas then toBytes n c.toNat else [] }

/-- The memory instructions that have entries in the queues. -/
def memForm (s : State) (th : Thread) (i : Instr) : Option MemForm :=
  let x := th.latch.px
  let m := th.active i.guard
  let o16 := fun (f : T64) => (f.c ++ f.b).signExtend 64
  let ord := fun (f : T64) => if f.mb 28 then some (f.m 31 29) else none
  match i with
  | .sldM32 sz imm a d => some (scalarForm s th false false sz (x.d d) (x.a a) (imm.signExtend 64) 0 none)
  | .sstM32 sz imm a d => some (scalarForm s th true false sz (x.d d) (x.a a) (imm.signExtend 64) 0 none)
  | .vldM32 sz imm a d => some (vectorForm s th m false false sz (x.d d) (x.a a) (imm.signExtend 64) 0 none)
  | .vstM32 sz imm a d => some (vectorForm s th m true false sz (x.d d) (x.a a) (imm.signExtend 64) 0 none)
  | .pldM32 sz imm a d => some (vectorForm s th m false true sz (x.d d) (x.a a) (imm.signExtend 64) 0 none)
  | .pstM32 sz imm a d => some (vectorForm s th m true true sz (x.d d) (x.a a) (imm.signExtend 64) 0 none)
  | .sldT64 scr sz f => some (scalarForm s th false scr sz f.d.toNat f.a.toNat (o16 f) (f.m 27 25) (ord f))
  | .sstT64 scr sz f => some (scalarForm s th true scr sz f.d.toNat f.a.toNat (o16 f) (f.m 27 25) (ord f))
  | .vldT64 sz f => some (vectorForm s th m false false sz f.d.toNat f.a.toNat (o16 f) 0 (ord f))
  | .vstT64 sz f => some (vectorForm s th m true false sz f.d.toNat f.a.toNat (o16 f) 0 (ord f))
  | .pldT64 sz f => some (vectorForm s th m false true sz f.d.toNat f.a.toNat (o16 f) (f.m 27 25) (ord f))
  | .pstT64 sz f => some (vectorForm s th m true true sz f.d.toNat f.a.toNat (o16 f) (f.m 27 25) (ord f))
  | .vatom scr wide op f =>
    let val := fun (n L : Nat) => if wide then th.lanep n L else (th.lane n L).setWidth 64
    some { kind := .atomic op wide, check := if scr then checkScr s th 0 else checkGlobal s th .atomic
           reqs := (lanesOf m).map (fun L => atomAsks L (if scr then (th.lane f.a.toNat L).setWidth 64 else th.lanep f.a.toNat L) wide op
             (val f.b.toNat L) (val f.c.toNat L))
           acq := if f.mb 27 then some (f.m 31 29) else none, rel := if f.mb 28 then some (f.m 31 29) else none
           fin := if f.mb 26 then .none else .vatom f.d.toNat wide }
  | .satom scr wide op f =>
    let val := fun (n : Nat) => if wide then th.sp n else (th.sv n).setWidth 64
    some { kind := .atomic op wide, check := if scr then checkScr s th 0 else checkGlobal s th .atomic
           reqs := [atomAsks 0 (if scr then (th.sv f.a.toNat).setWidth 64 else th.sp f.a.toNat) wide op (val f.b.toNat) (val f.c.toNat)]
           acq := if f.mb 27 then some (f.m 31 29) else none, rel := if f.mb 28 then some (f.m 31 29) else none
           fin := if f.mb 26 then .none else .satom (th.bankNum f.d.toNat) wide }
  | .xld f =>
    let p := th.xpat.getD f.c.toNat Pat.zero
    -- field e mod nf of period e div nf: first bit of the stream, width, sign
    let nf := fieldN p.hdr.toNat 8 5 + 1
    let per := fieldN p.hdr.toNat 0 8
    let at' := fun (L : Nat) =>
      let e := (th.sv f.b.toNat).toNat + L
      let g := (p.fields.getD (e % nf) 0).toNat
      (e / nf * per + fieldN g 0 8, fieldN g 8 5 + 1, bitN g 15)
    if per = 0 then none
    else some { kind := .load, check := checkGlobal s th .load
                reqs := (lanesOf m).flatMap (fun L => (List.range (((at' L).1 % 8 + (at' L).2.1 + 7) / 8)).map (fun k =>
                  asks L (th.sp f.a.toNat) (th.sp f.a.toNat + BitVec.ofNat 64 ((at' L).1 / 8 + k)) 1 []))
                acq := none, rel := none
                fin := .xload f.d.toNat ((lanesOf m).map (fun L => (L, (at' L).1 % 8, (at' L).2.1, (at' L).2.2))) }
  | _ => none

/-- The accesses of a form all of whose checks pass, lower lanes of a store giving way where a higher one covers them (R141). -/
def accesses (f : MemForm) : List Acc :=
  let as := f.reqs.flatMap (fun r => match f.check r with | .ok ps => partsOf r ps | _ => [])
  if f.kind = .store then dropCovered as else as

/-- The checks pass, and no request to a peer would exceed the outstanding limit (R29, R175). -/
def MemForm.passes (s : State) (th : Thread) (f : MemForm) : Prop :=
  (∀ r ∈ f.reqs, ∃ ps, f.check r = .ok ps) ∧
  (let n := (domLines ((accesses f).filter (fun a => a.ph == .pend))).length
   n = 0 ∨ quillOut s th.quill + pendingLines s th.quill + n ≤ 1024)

/-- A check that fails. -/
def isBad (c : Chk) : Bool := match c with | .bad _ _ _ => true | _ => false

/-- The scalar forms, whose one access stands for the whole thread. -/
def oneAccess (i : Instr) : Bool :=
  match i with
  | .sldM32 _ _ _ _ | .sstM32 _ _ _ _ | .sldT64 _ _ _ | .sstT64 _ _ _ | .satom _ _ _ _ => true
  | _ => false

/-- The memory instructions that address the scratchpad (R327, R333). -/
def inScratch (i : Instr) : Bool :=
  match i with
  | .sldT64 scr _ _ | .sstT64 scr _ _ => scr
  | .vatom scr _ _ _ | .satom scr _ _ _ => scr
  | .pldM32 _ _ _ _ | .pstM32 _ _ _ _ | .pldT64 _ _ | .pstT64 _ _ => true
  | _ => false

/-- The gang whose allocation a scratchpad address names for a thread: its own, or another member of its folio gang on the quill of the
folio that bits [22:20] give (R34, R35). -/
def addresses (s : State) (th : Thread) (a : Nat) (g : Gang) : Prop :=
  a / 2 ^ 24 % 256 = 0 ∧
  if a / 2 ^ 23 % 2 = 0 then a / 2 ^ 20 % 8 = 0 ∧ s.gang th.gang = some g
  else ∃ own k fg m, s.gang th.gang = some own ∧ own.fgang = some k ∧ s.fgangs.find k = some fg ∧ m ∈ fg.members ∧
    s.gang m = some g ∧ g.quill = own.quill / 8 * 8 + a / 2 ^ 20 % 8

/-- The fault class with which a page refuses an access (R67, R78): 3 read-permission, 4 write-permission, 6 privilege. -/
def refusedClass (k : OpKind) (m : Mode) (l : Leaf) : Option Nat :=
  let allowed := match k with
    | .load => l.r
    | .store => l.w
    | .atomic _ _ => l.r && l.w
    | _ => true
  if !allowed then some (if k = .load then 3 else 4)
  else if m = .user ∧ l.user = false then some 6
  else none

/-- An atomic. -/
def isAtomic (k : OpKind) : Bool := match k with | .atomic _ _ => true | _ => false

/-- The cause with which the kind of its memory refuses an access (R41, R42): a write of the inkwell, an atomic to host memory or device
registers, a device-register access of another size than 4 or 8 bytes. -/
def refusedKind (k : OpKind) (kind size : Nat) : Option Nat :=
  if kind = 1 ∧ k ≠ .load then some 0x16
  else if (isAtomic k = true ∧ (kind = 3 ∨ kind = 4)) ∨ (kind = 4 ∧ size ≠ 4 ∧ size ≠ 8) then some 0x15
  else none

/-- What the checks say of an access (R26-R28, R35): misaligned, beyond the scratchpad's allocations, or within them. -/
structure ScratchVerdict (s : State) (th : Thread) (r : LaneReq) (c : Chk) : Prop where
  aligned : r.addr.toNat % r.size ≠ 0 → c = .bad 0x11 r.addr 0
  outside : r.addr.toNat % r.size = 0 → (∀ g, addresses s th r.addr.toNat g → g.scrRun.len * 32768 < r.addr.toNat % 2 ^ 20 + r.size) →
    c = .bad 0x12 r.addr 0
  inside : r.addr.toNat % r.size = 0 → (∃ g, addresses s th r.addr.toNat g) →
    (∀ g, addresses s th r.addr.toNat g → r.addr.toNat % 2 ^ 20 + r.size ≤ g.scrRun.len * 32768) → ∃ ps, c = .ok ps

/-- What the checks say of a global access (R26-R28, R41-R43, R67): not canonical, misaligned, domain space disabled, refused by its page, by
the kind of its memory, or let through. -/
structure GlobalVerdict (s : State) (th : Thread) (k : OpKind) (r : LaneReq) (c : Chk) : Prop where
  canonical : 2 ^ 56 ≤ r.addr.toNat ∨ r.addr.getLsbD 55 ≠ r.base.getLsbD 55 → c = .bad 0x10 r.addr 0
  aligned : r.addr.toNat < 2 ^ 56 → r.addr.getLsbD 55 = r.base.getLsbD 55 → r.addr.toNat % r.size ≠ 0 → c = .bad 0x11 r.addr 0
  domain : r.addr.toNat < 2 ^ 56 → r.addr.getLsbD 55 = r.base.getLsbD 55 → r.addr.toNat % r.size = 0 → 2 ^ 55 ≤ r.addr.toNat →
    (domEnabled s (dieOf th.quill) th.vmid th.asid = false → c = .bad 0x14 r.addr 0) ∧
    (domEnabled s (dieOf th.quill) th.vmid th.asid = true → ∃ ps, c = .ok ps)
  local' : r.addr.getLsbD 55 = r.base.getLsbD 55 → r.addr.toNat % r.size = 0 → r.addr.toNat < 2 ^ 55 →
    ∀ l pa, quillFind s th.quill false th.vmid th.asid r.addr.toNat = some (l, pa) →
      (∀ n, refusedClass k th.mode l = some n → ∃ y : Word, c = .bad 0x20 r.addr y ∧ y.toNat % 32 = n) ∧
      (refusedClass k th.mode l = none → ∀ n, refusedKind k l.kind r.size = some n → c = .bad n r.addr 0) ∧
      (refusedClass k th.mode l = none → refusedKind k l.kind r.size = none → ∃ ps, c = .ok ps)

/-! ## Marks, arrival words, patterns, the table unit, prefetches -/

/-- Earlier accesses of the kinds a mark names have performed at its scope (R150). -/
def markReady (th : Thread) (form sc : Nat) : Bool :=
  th.mq.all (fun o => o.performed sc || (form == 4 && !o.isStore) || ((form == 1 || form == 3) && !o.isLoad))

/-- A mark: it retires, with the quill's copies dropped when later loads are ordered at die scope or wider (R150, R151), or its
thread waits. -/
def markEffect (s : State) (th : Thread) (form sc : Nat) : State :=
  if markReady th form sc then
    andRetires (if form ≠ 2 ∧ form ≠ 4 ∧ 2 ≤ sc then s.modQuill th.quill cqClear else s) s.cur th
  else s.setThread s.cur (waits th (.mark form sc))

/-- The four words of an arrival word after an arrival of b bytes (R102). -/
def arrived (x : AWord) (b : Nat) : List Byte :=
  let n := x.count + b
  let top := if n ≥ 2 ^ 32 then x.top ||| 4 else x.top
  let n := if n ≥ 2 ^ 32 then 2 ^ 32 - 1 else n
  if x.target = 0 then toBytes 4 0 ++ toBytes 4 n ++ toBytes 4 x.gen.toNat ++ toBytes 4 (top ||| 8)
  else toBytes 4 x.target ++ toBytes 4 (n % x.target) ++ toBytes 4 (x.gen.toNat + n / x.target) ++
    toBytes 4 (if n > x.target then top ||| 2 else top)

/-- The place of an aligned arrival word of the gang's own or a far scratchpad (R103). -/
def wordAt (s : State) (th : Thread) (a : Word) : Option (Nat × Nat) :=
  if a.toNat % 16 = 0 then scrPlace s th.gang a.toNat 16 0 else none

/-- Patterns, arrivals, waits for arrivals and the table unit (R102, R105, R336, R340, R341, R362). -/
def arrivalEffect (s : State) (th : Thread) (i : Instr) : Option State :=
  let t := s.cur
  match i with
  | .arrive f => match wordAt s th (th.sv f.a.toNat) with
    | some (g, p) =>
      if allPerformed th (max (f.m 31 29) 1) ∧ (4 ≤ f.m 31 29 → domStoresDone th ∧ th.rfault = none) ∧ scrPoisoned s g p 16 = false then
        some (andRetires (scrWrite s g p (arrived (awRead s g p) (th.sv f.b.toNat).toNat)) t th)
      else none
    | none => none
  | .arwait f => match wordAt s th (th.sv f.a.toNat) with
    | some (g, p) =>
      if loadReady th (awLoad th g p).1 (awLoad th g p).2 ∧ scrPoisoned s g p 16 = false then
        let x := awRead s g p
        let done := decide ((x.gen - th.sv f.b.toNat).toNat < 2 ^ 31)
        let acq := if f.mb 28 then some (f.m 31 29) else none
        let th1 := if f.mb 26 then th.setS f.d.toNat (if f.mb 27 then (if done then 1 else 0) else x.gen) else th
        if done then some (andRetires (acquire s th.quill acq) t th1)
        else if f.mb 27 then some (andRetires s t th1)
        else some (s.setThread t (waits th (.arwait (g, p) (th.sv f.b.toNat) acq (if f.mb 26 then some f.d.toNat else none))))
      else none
    | none => none
  | .xpatSet f =>
    let p : Pat := { hdr := th.sv f.a.toNat, fields := (List.range 16).map (fun j =>
      (th.sv (f.a.toNat + 1 + j / 2)).extractLsb' (16 * (j % 2)) 16) }
    if p.valid then some (andRetires s t { th with xpat := setAt th.xpat f.c.toNat p }) else none
  | .xpatGet f =>
    let p := th.xpat.getD f.c.toNat Pat.zero
    some (andRetires s t ((List.range 8).foldl (fun th k => th.setS (f.d.toNat + 1 + k) (p.fields.getD (2 * k + 1) 0 ++ p.fields.getD (2 * k) 0))
      (th.setS f.d.toNat p.hdr)))
  | .vtbl k f =>
    let w := fun (i : Nat) => (th.sv (f.b.toNat + i)).toNat
    let n := w 1 % 65536
    let rc := w 1 / 65536 % 8
    let size := if k = .quad then 12 * n else 4 * (n + 1)
    match scrPlace s th.gang (w 0) size 0 with
    | some (g, off) =>
      if w 1 < 2 ^ 19 ∧ n ≠ 0 ∧ rc < 6 ∧ w 0 % 4 = 0 then
        let ls := (lanesOf (th.active i.guard)).map (fun L => (L, (th.lane f.a.toNat L).toNat))
        let as := ls.flatMap (fun l => (tblReads k (w 2) (w 3) n l.2).map (fun e =>
          ({ lane := l.1, tgt := .scr g (rotate rc (off + 4 * e)), size := 4, data := [], cmp := [], got := [], ph := .pend,
             poison := false, req := none, und := [] } : Acc)))
        let rm := match ownRounding f with | some c => c.toNat | none => match th.latch.px.rm with | some c => c.toNat | none => 0
        some (andRetires s t (pushOp th .load as none none (.table k f.d.toNat rm (f.sat th.latch.px) (w 2) (w 3) n ls)))
      else none
    | none => none
  | .vpf scalar f =>
    let off := (f.c ++ f.b).signExtend 64
    let rs := if scalar then [asks 0 (th.sp f.a.toNat) (th.sp f.a.toNat + off) 1 []]
      else (lanesOf (th.active i.guard)).map (fun L => asks L (th.lanep f.a.toNat L) (th.lanep f.a.toNat L + off) 1 [])
    let cs := rs.map (fun r => (r.lane, checkGlobal s th .load r))
    if cs.any (fun c => match c.2 with | .miss _ => true | _ => false) then none
    else some (andRetires (if f.mb 24 then s else (prefetchLines cs).foldl (fun s l =>
      if homeStopped s (l * 128) ∨ bankShut s (l * 128) ∨ poisoned s (l * 128) 128 then s
      else s.modQuill th.quill (fun x => { x with cq := x.cq.put l (fillLine s th.quill l) })) s) t th)
  | _ => none

end Sys2Proof.Claims

open Sys2Proof.Machine Sys2Proof.Claims Sys2Proof in
/-- A load, store, atomic or extracting load whose checks pass enters its thread's queues and retires; nothing else changes. A release of
domain or system scope first waits for the thread's domain stores, and where one was refused it takes the remote-fault trap and performs
nothing (R160). -/
def Obligations.MemoryInstructionsEnterTheirQueue : Prop :=
  ∀ (i : Instr) (s : State) (th : Thread) (f : MemForm), Ready i s th → memForm s th i = some f → f.passes s th →
    ((∀ sc, f.rel = some sc → 4 ≤ sc → domStoresDone th = true ∧ th.rfault = none) →
      Retires i s (pushOp th f.kind (accesses f) f.acq f.rel f.fin)) ∧
    (∀ sc, f.rel = some sc → 4 ≤ sc →
      (domStoresDone th = false → StandsBy i s th) ∧
      (domStoresDone th = true → th.rfault ≠ none → Traps i s th 0x38 (th.active i.guard) 0 0))

open Sys2Proof.Machine Sys2Proof.Claims Sys2Proof in
/-- The first lane that fails a check gives the cause, and every lane that fails one is in the trapping set (R29, R397); what each check
says of an access, written out from the rules of addresses, alignment, scratchpad ranges, permissions and kinds (R26-R28, R35, R41, R42,
R67). That an atomic to the inkwell is an inkwell write is the model's choice (log 66). -/
def Obligations.MemoryChecksTrapForTheFirstLane : Prop :=
  (∀ (i : Instr) (s : State) (th : Thread) (f : MemForm) (r : LaneReq) (c : Nat) (v : DWord) (y : Word),
    Ready i s th → memForm s th i = some f → (∀ q ∈ f.reqs, ∀ va, f.check q ≠ .miss va) →
    f.reqs.find? (fun q => isBad (f.check q)) = some r → f.check r = .bad c v y →
    Traps i s th c (if oneAccess i then th.active i.guard
      else maskOf (fun L => f.reqs.any (fun q => q.lane == L && isBad (f.check q)))) v y) ∧
  (∀ (i : Instr) (s : State) (th : Thread) (f : MemForm) (r : LaneReq), memForm s th i = some f → r ∈ f.reqs →
    (inScratch i = true → ScratchVerdict s th r (f.check r)) ∧
    (inScratch i = false → GlobalVerdict s th f.kind r (f.check r)))

open Sys2Proof.Machine Sys2Proof.Claims Sys2Proof in
/-- Marks (R150-R152). One of domain or system scope first waits for the thread's domain stores, and where one was refused it takes the
remote-fault trap (R160). -/
def Obligations.MarksRetireOrWait : Prop :=
  ∀ (i : Instr) (s : State) (th : Thread) (form sc : Nat), Ready i s th →
    ((∃ f c, i = .markT32 f c ∧ form = f.toNat ∧ sc = c.toNat) ∨ (∃ f, i = .markT64 f ∧ form = f.m 28 26 ∧ sc = f.m 31 29)) →
    ((4 ≤ sc → domStoresDone th = true ∧ th.rfault = none) → exec i s = .next (markEffect s th form sc)) ∧
    (4 ≤ sc → domStoresDone th = false → StandsBy i s th) ∧
    (4 ≤ sc → domStoresDone th = true → th.rfault ≠ none → Traps i s th 0x38 (th.active i.guard) 0 0)

open Sys2Proof.Machine Sys2Proof.Claims Sys2Proof in
/-- Arrivals, waits for them, patterns, the table unit and prefetches. An arrival is a release: one of domain or system scope takes the
remote-fault trap where a domain store of the thread was refused (R103, R160). -/
def Obligations.ArrivalsPatternsAndTablesHaveTheirEffect : Prop :=
  (∀ (i : Instr) (s t : State) (th : Thread), Ready i s th → arrivalEffect s th i = some t → exec i s = .next t) ∧
  (∀ (f : T64) (s : State) (th : Thread) (w : Nat × Nat), Ready (.arrive f) s th → wordAt s th (th.sv f.a.toNat) = some w →
    allPerformed th (max (f.m 31 29) 1) = true → 4 ≤ f.m 31 29 → domStoresDone th = true → th.rfault ≠ none →
    Traps (.arrive f) s th 0x38 (th.active (Instr.arrive f).guard) 0 0)

namespace Sys2Proof.Claims
open Sys2Proof.Machine

/-! ## Texture, matrix and engine instructions as they issue (R364-R395) -/

/-- A texture instruction: its function, its operands, the channel of tex4. -/
def texForm (i : Instr) : Option (Nat × T64 × Nat) :=
  match i with
  | .tex f => some (0, f, 0)
  | .texl f => some (1, f, 0)
  | .texg f => some (2, f, 0)
  | .texf f => some (3, f, 0)
  | .tex4 f => some (4, f, f.m 31 30)
  | _ => none

/-- The eight words of the texture descriptor at s(b). -/
def texWords (th : Thread) (f : T64) : List Word := (List.range 8).map (fun k => th.sv (f.b.toNat + k))

/-- A texel that a lane may go on with: border, not resident, or an access of memory. -/
def texelGoes (c : TexChk) : Bool := match c with | .border => true | .absent => true | .read _ _ => true | _ => false

/-- The sample that a texture instruction puts into the queue when each of its texels goes, one access for each single-copy atomic part
(R142), and its quill has room for the requests to peers (R175, R391-R395). -/
def texSample (s : State) (th : Thread) (m : Mask) (fn : Nat) (f : T64) (ch : Nat) (dw : Option Nat) : Option Thread :=
  let ws := texWords th f
  let x := texDesc ws
  let lanes := (lanesOf m).map (fun L =>
    let p := lanePlan fn x th f.a.toNat L
    (L, p, p.texels.map (checkTexel s th x (fn == 3) dw)))
  if lanes.all (fun l => l.2.2.all texelGoes) then
    let accs := lanes.flatMap (fun l => l.2.2.flatMap (fun c => match c with
      | .read ps _ => ps.map (fun p => ({ lane := l.1, tgt := p.1, size := p.2, data := [], cmp := [], got := [], ph := .pend, poison := false,
                                          req := none, und := [] } : Acc))
      | _ => []))
    let n := (domLines accs).length
    let codes := lanes.map (fun l => (l.1, l.2.1.how :: l.2.1.wts.length :: (l.2.1.wts ++ l.2.2.map TexChk.code), dw.getD 16))
    if n = 0 ∨ quillOut s th.quill + pendingLines s th.quill + n ≤ 1024 then
      some (pushOp th .load accs none none (.texture fn ch f.d.toNat ws codes))
    else none
  else none

/-- Width and height of a level, and the pitch of its rows (R389). -/
def texSize (s : State) (th : Thread) (f : T64) (dw : Option Nat) : Thread :=
  let x := texDesc (texWords th f)
  let k := (th.sv f.a.toNat).toNat
  let dim := fun (n : Nat) => if k ≥ 32 then 1 else max 1 (n / 2 ^ k)
  (th.setS f.d.toNat (BitVec.ofNat 32 ((dim x.h - 1) * 65536 + (dim x.w - 1)))).setS (f.d.toNat + 1)
    (BitVec.ofNat 32 (levelPitch (texUnit s x dw) x k).1)

/-- An entry with the fields every entry of the matrix queue has. -/
def entry (s : State) (th : Thread) (m : Mask) (fn : Nat) : MEnt :=
  { tid := s.cur, gang := th.gang, fn := fn, mask := m, rm := 0, sat := false, s32 := false, fmt := 0, n := 0, d := 0, a := 0,
    regs := [], aDesc := none, bDesc := [], ser := th.ser, seq := 0, snap := [], owed := none }

/-- The 256 words of a granule in three vector registers, the first register lowest (R377). -/
def granuleWords (th : Thread) (b : Nat) : List Word := (List.range 256).map (fun w => th.lane (b + w / 96) (w % 96))

/-- The granules that an accumulator instruction names: byte offset and number. -/
def granules (th : Thread) (i : Instr) : List (Nat × Nat) :=
  match i with
  | .aclr f | .amax f => [((th.sv f.a.toNat).toNat, f.c.toNat + 1)]
  | .ald f | .ast f | .aadd f | .acvt f | .abx f => [((th.sv f.a.toNat).toNat, 1)]
  | .acpy f => [((th.sv f.a.toNat).toNat, f.c.toNat + 1), ((th.sv f.d.toNat).toNat, f.c.toNat + 1)]
  | .mma _ _ f => [((th.sv f.d.toNat).toNat, (16 * (f.m 28 24 + 1) + 31) / 32)]
  | _ => []

/-- Aligned and within the allocation (R28, R37). -/
def granulesFit (g : Gang) (l : List (Nat × Nat)) : Bool :=
  l.all (fun x => x.1 % 1024 == 0 && decide (x.1 + 1024 * x.2 ≤ 16384 * g.accRun.len))

/-- The entry that an accumulator instruction or an mma puts into the matrix queue (R369, R377, R378). -/
def matrixEntry (s : State) (th : Thread) (i : Instr) : Option MEnt :=
  let px := th.latch.px
  let e := fun (n : Nat) (a : BitVec 8) (fn : Nat) => { entry s th (th.active i.guard) fn with a := (th.sv a.toNat).toNat, n := n }
  let rm := fun (f : T64) => match ownRounding f with | some c => c.toNat | none => match px.rm with | some c => c.toNat | none => 0
  let words := fun (x : BitVec 8) => (List.range 4).map (fun k => th.sv (x.toNat + k))
  match i with
  | .aclr f => some (e (f.c.toNat + 1) f.a 0)
  | .ald f => some { e 1 f.a 1 with d := f.d.toNat }
  | .ast f => some { e 1 f.a 2 with regs := granuleWords th f.b.toNat }
  | .aadd f => some { e 1 f.a 3 with regs := granuleWords th f.b.toNat, s32 := f.mb 29, rm := rm f, sat := f.sat px }
  | .acvt f => some { e 1 f.a 4 with d := f.d.toNat, fmt := f.m 30 30, rm := rm f, sat := f.sat px }
  | .acpy f => some { e (f.c.toNat + 1) f.a 5 with d := (th.sv f.d.toNat).toNat }
  | .amax f => some { e (f.c.toNat + 1) f.a 6 with d := f.d.toNat, s32 := f.mb 29 }
  | .abx f => some { e 1 f.a 7 with d := f.d.toNat, fmt := f.m 30 29 }
  | .mma as z f =>
    let w := (voteRef th (th.active i.guard) f).toNat
    some { entry s th (th.active i.guard) (if z then 17 else 16) with
      fmt := w, n := 16 * (f.m 28 24 + 1), d := (th.sv f.d.toNat).toNat
      regs := if as then [] else (List.range (2 * slabA w)).map (fun j => th.lane (f.a.toNat + j / 96) (j % 96))
      aDesc := if as then some (words f.a) else none, bDesc := words f.b }
  | _ => none

/-- What an mma needs beside its granules: one valid format word in all active lanes, descriptors and registers that pass their
checks (R371, R372). -/
def mmaFit (s : State) (th : Thread) (i : Instr) : Prop :=
  match i with
  | .mma as _ f =>
    let m := th.active i.guard
    let w := (voteRef th m f).toNat
    (∀ L, L < 96 → m.getLsbD L = true → presented th f L = voteRef th m f) ∧ fmtValid w = true ∧
    (if as then descBad s th m f.a.toNat (slabA w) 8 else aRegsBad th f.a.toNat (slabA w)) = none ∧
    descBad s th m f.b.toNat (slabB w) (16 * (f.m 28 24 + 1)) = none
  | _ => True

/-- An engine command: its stream, its function, its spaces, its operands. -/
def engForm (i : Instr) : Option (Stream × Nat × BitVec 2 × BitVec 2 × T64) :=
  match i with
  | .cpy dst src f => some (.copy, 0, dst, src, f)
  | .cpyt dst src f => some (.copy, cmdCpyt, dst, src, f)
  | .gat dst src f => some (.gather, cmdGat, dst, src, f)
  | .sct dst src f => some (.gather, cmdSct, dst, src, f)
  | .cfill dst src f => some (.copy, cmdCfill, dst, src, f)
  | .rred dst src f => some (.copy, cmdRred, dst, src, f)
  | _ => none

/-- The command that joins the stream: the eight words of its block at s(a) (R381). -/
def engEntry (s : State) (th : Thread) (cmd : Nat) (dst src : BitVec 2) (f : T64) (seq : Nat) : EngCmd :=
  let w := fun k => th.sv (f.a.toNat + k)
  { seq := seq, tid := s.cur, gang := th.gang, cmd := cmd, dst := dst.toNat, src := src.toNat, scope := f.m 31 29, op := f.m 27 24,
    pol := match th.latch.px.c with | some (_, p) => p.toNat | none => 3
    mode := th.mode, asid := th.asid, vmid := th.vmid
    srcA := w 1 ++ w 0, dstA := w 3 ++ w 2, rows := (w 4).toNat / 65536 + 1, len := (w 4).toNat % 65536 + 1
    sstr := (w 5).toInt, dstr := (w 6).toInt
    idx := if cmd = cmdGat ∨ cmd = cmdSct then (th.sv f.b.toNat).toNat else 0
    aw := if f.mb 28 then some (w 7).toNat else none, ser := th.ser, started := false, e := 0, buf := [], wrote := [], taint := [] }

/-- Commands of a thread in its quill's streams. -/
def outstanding (s : State) (q t : Nat) : Nat := (((s.quill q).copy.cmds ++ (s.quill q).gather.cmds).filter (fun c => c.tid == t)).length

end Sys2Proof.Claims

open Sys2Proof.Machine Sys2Proof.Claims Sys2Proof in
/-- Samples whose texels all go enter the load queue; texq writes the level's size (R389-R395). That the page of a block texture's base names
the format of all its pages is the model's reading (log 53). -/
def Obligations.TextureSamplesEnterTheLoadQueue : Prop :=
  (∀ (i : Instr) (s : State) (th th' : Thread) (fn ch : Nat) (f : T64) (dw : Option Nat), Ready i s th → texForm i = some (fn, f, ch) →
    texDescBad (texWords th f) = false → baseFormat s th (texDesc (texWords th f)) = .ok dw →
    texSample s th (th.active i.guard) fn f ch dw = some th' → Retires i s th') ∧
  (∀ (f : T64) (s : State) (th : Thread) (dw : Option Nat), Ready (.texq f) s th → texDescBad (texWords th f) = false →
    baseFormat s th (texDesc (texWords th f)) = .ok dw → Retires (.texq f) s (texSize s th f dw))

open Sys2Proof.Machine Sys2Proof.Claims Sys2Proof in
/-- Accumulator instructions and mma join the matrix queue of their quill while fewer than sixteen entries wait in it (R364). -/
def Obligations.MatrixInstructionsJoinTheirQueue : Prop :=
  ∀ (i : Instr) (s : State) (th : Thread) (g : Gang) (e : MEnt), Ready i s th → s.gang th.gang = some g →
    matrixEntry s th i = some e → granulesFit g (granules th i) = true → mmaFit s th i →
    ((s.quill th.quill).mx.filter (fun m => m.owed.isNone)).length < 16 →
    exec i s = .next (andRetires (s.setQuill th.quill { s.quill th.quill with
      mx := (s.quill th.quill).mx ++ [{ e with seq := (s.quill th.quill).mxSeq }], mxSeq := (s.quill th.quill).mxSeq + 1 }) s.cur th)

open Sys2Proof.Machine Sys2Proof.Claims Sys2Proof in
/-- Engine commands join their stream while it holds fewer than thirty-two; edrain and ecnt see those of their thread (R379, R386). -/
def Obligations.EngineCommandsJoinTheirStream : Prop :=
  (∀ (i : Instr) (s : State) (th : Thread) (st : Stream) (cmd : Nat) (dst src : BitVec 2) (f : T64), Ready i s th →
    engForm i = some (st, cmd, dst, src, f) → engBad s th (th.active i.guard) cmd dst.toNat src.toNat f = none →
    ((s.quill th.quill).stream st).cmds.length < 32 →
    exec i s = .next (andRetires (s.setQuill th.quill ((s.quill th.quill).setStream st
      { seq := ((s.quill th.quill).stream st).seq + 1
        cmds := ((s.quill th.quill).stream st).cmds ++ [engEntry s th cmd dst src f ((s.quill th.quill).stream st).seq] })) s.cur th)) ∧
  (∀ (f : T64) (s : State) (th : Thread), Ready (.ecnt f) s th →
    Retires (.ecnt f) s (th.setS f.d.toNat (BitVec.ofNat 32 (outstanding s th.quill s.cur)))) ∧
  (∀ (f : T64) (s : State) (th : Thread), Ready (.edrain f) s th →
    (outstanding s th.quill s.cur = 0 → exec (.edrain f) s = .next (andRetires
      (if 2 ≤ f.m 31 29 then s.modQuill th.quill (fun x => { x with cq := [] }) else s) s.cur th)) ∧
    (outstanding s th.quill s.cur ≠ 0 → exec (.edrain f) s = .next (s.setThread s.cur (waits th (.edrain (f.m 31 29))))))

namespace Sys2Proof.Claims
open Sys2Proof.Machine

/-! ## Words, units and steps -/

/-- Rows that words encode: units and prefixes. -/
def hasWords (i : Instr) : Bool :=
  match i with
  | .xreg _ _ _ | .rmode _ _ _ | .pairx _ | .cpol _ _ => true
  | _ => isUnit i

/-- The instructions of units that only compute. -/
def computed (th : Thread) (i : Instr) : Option (Thread × Flags) :=
  (scalarEffect th i).orElse (fun _ => (vectorEffect th i).orElse (fun _ => (floatEffect th i).orElse (fun _ => exactEffect th i)))

/-- A node of a saturating reduction: the clamped sum, with the flags of both sides (R249, R325). -/
def satNode (u : Bool) (w : Nat) (a b : Nat × Flags) : Nat × Flags :=
  let r := toElem u true w (num u (BitVec.ofNat w a.1) + num u (BitVec.ofNat w b.1))
  (r.1.toNat, r.2 ||| a.2 ||| b.2)

/-- The state in which the next turn takes place: time has passed (R17) and the turn has left the agenda. -/
def turned (s : State) (dt : Nat) (r : List Turn) : State := { passTime s dt with agenda := r }

/-- Where the descriptor of the context that a shoot-down names stands, in the table at ctxtab (R60). -/
def shootDesc (s : State) (x : DWord) : Nat := s.xl.ctxtab.toNat / 2 ^ 16 % 2 ^ 36 * 65536 + 8 * (x.toNat / 2 ^ 44 % 1024)

/-- A shoot-down that its thread may not ask for (R82): outside hypervisor mode, an operation that requires it, another guest, or a
context whose descriptor is not poisoned, is valid and names another guest. -/
def shootForbidden (s : State) (th : Thread) (x : DWord) : Prop :=
  let d := ofBytes (s.bytes (shootDesc s x) 8)
  th.mode ≠ .hyp ∧ (2 ≤ x.toNat / 2 ^ 61 ∨ x.toNat / 2 ^ 54 % 64 ≠ th.vmid ∨
    (poisoned s (shootDesc s x) 8 = false ∧ d % 2 = 1 ∧ d / 2 ^ 10 % 64 ≠ th.vmid))

/-- A shoot-down with the operation and operands of a value joins the queue of the hub (R82, R84). -/
def joinShoots (s : State) (t x : Nat) : State :=
  let h : Shoot := { who := some t, op := x / 2 ^ 61 % 8, vmid := x / 2 ^ 54 % 64, asid := x / 2 ^ 44 % 1024, addr := x % 2 ^ 39, removed := false }
  { s with xl := { s.xl with shoots := s.xl.shoots ++ [h] } }

end Sys2Proof.Claims

open Sys2Proof.Machine Sys2Proof.Claims Sys2Proof in
/-- Words written out from the encoding tables decode to what they stand for; the last is a prefix word of a reserved class (bits [1:0] = 11,
class 7) and is no instruction (R261). -/
def Obligations.TableWordsDecode : Prop :=
  decode 0x0004_1182 0 = some (.vaddT32 false 0 false 2 1 3) ∧
  decode 0x2A29_281D 0x1020_002B = some (.vmad false 0 { d := 0x28, a := 0x29, b := 0x2A, c := 0x2B, md := 0x10, hint := 0, gneg := false, guard := 0 }) ∧
  decode 0x4020_2438 0 = some (.vldM32 2 16 2 8) ∧
  decode 0x04C0_0048 0 = some (.markT32 2 3) ∧
  decode 0xFFFF_85A0 0 = some (.b (BitVec.ofInt 21 (-16)) true 3) ∧
  decode 0x1234_528C 0 = some (.slh 0x12345 5) ∧
  decode 0x0403_0011 0x0001_0000 = some (.loop true { d := 0, a := 3, b := 4, c := 0, md := 0, hint := 0, gneg := false, guard := 0 }) ∧
  decode 0x0000_0023 0 = some (.xreg 0 0 1) ∧
  decode 0x0000_001F 0 = none

open Sys2Proof.Machine Sys2Proof.Claims Sys2Proof in
/-- The bytes of a well-formed instruction decode to it, and to no more bytes than its own. -/
def Obligations.EncodedInstructionsDecodeBack : Prop :=
  ∀ (i : Instr) (x : Px) (rest : List Byte), i.wf x = true → hasWords i = true →
    encode i ≠ [] ∧ decodeBytes ((encode i).flatMap (fun w => toBytes 4 w.toNat) ++ rest) = some (i, rest)

open Sys2Proof.Machine Sys2Proof.Claims Sys2Proof in
/-- Words that decode are the words of the instruction they decode to: each word has one meaning. -/
def Obligations.DecodedWordsEncodeBack : Prop :=
  ∀ (w0 w1 : Word) (i : Instr), decode w0 w1 = some i → encode i = if twoWords w0 then [w0, w1] else [w0]

open Sys2Proof.Machine Sys2Proof.Claims Sys2Proof in
/-- A step at which a thread has its turn runs the instruction that its words decode to; a unit that waits is run again without a fetch,
and not before a resource that it found full has room (R406); a user-mode warp under a throttle issues its unit only in a control clock
that is open to its context, which it then uses, while a trap is never held back (R484). -/
def Obligations.StepRunsTheDecodedUnit : Prop :=
  ∀ (s : State) (t dt : Nat) (r : List Turn) (th : Thread) (w0 : Word) (i : Instr), let u := turned s dt r
    s.agenda = { dt := dt, act := .thread t } :: r → s.thread t = some th → canRun u th = true → th.segFresh = false →
    (th.latch.kept = false → fetchWord u th th.pcO = .word w0 →
      (wordClass w0 = .short → decode w0 0 = some i →
        step s = issueUnit u t th (exec i (inUnit u t th { Latch.empty with w0 := w0 }))) ∧
      (∀ w1, wordClass w0 = .long → fetchWord u th (th.pcO + 4) = .word w1 → decode w0 w1 = some i →
        step s = issueUnit u t th (exec i (inUnit u t th { Latch.empty with w0 := w0, w1 := w1 }))) ∧
      (∀ w1 p, wordClass w0 = .pre → decode w0 0 = some p → p.prefixOk = true →
        fetchWord u th (th.pcO + 4) = .word w1 → wordClass w1 = .short → decode w1 0 = some i →
        isInstruction [w0] i = true → i.isTransfer = false → p.modifies i = true →
        step s = issueUnit u t th (match exec p (inUnit u t th { Latch.empty with w0 := w1 }) with
          | .next x => exec i x
          | o => o))) ∧
    (th.latch.kept = true → (∀ r, th.latch.full = some r → roomFull u th.quill r = false) → decode th.latch.w0 th.latch.w1 = some i →
      step s = issueUnit u t th (exec i (inUnit u t th { th.latch with kept := false, full := none }))) ∧
    (∀ r, th.latch.kept = true → th.latch.full = some r → roomFull u th.quill r = true → step s = .next u) ∧
    (∀ o, limited u th = false → issueUnit u t th o = o) ∧
    (∀ x, limited u th = true → (∀ y, x.thread t = some y → y.latch.kept = false) → onlyTrapped u t th x = false →
      issueUnit u t th (.next x) = .next (if clockOpen u th = true then useClock u th x else u)) ∧
    (∀ x, limited u th = true → onlyTrapped u t th x = true → issueUnit u t th (.next x) = .next x)

open Sys2Proof.Machine Sys2Proof.Claims Sys2Proof in
/-- A fetched word is the little-endian word of memory at the translated address, and what stands against a fetch; of a page that is not
of the device-register kind (log 68), on a die that has not stopped and in a bank whose refresh window is closed. -/
def Obligations.FetchReadsALittleEndianWord : Prop :=
  ∀ (s : State) (th : Thread) (o : Nat),
    (th.seg = none → fetchWord s th o = .bad 0x17 (th.pcH.setWidth 64) 0) ∧
    (∀ e, th.seg = some e → e.limit ≤ o → fetchWord s th o = .bad 0x18 (BitVec.ofNat 64 o) 0) ∧
    (∀ e l pa, th.seg = some e → o < e.limit → e.base + o < 2 ^ 55 → translate s th .fetch th.mode (e.base + o) = .hit l pa →
      homeStopped s pa = false → bankShut s pa = false → l.kind ≠ 4 →
      (poisoned s pa 4 = true → fetchWord s th o = .bad 0x29 (BitVec.ofNat 64 o) 0) ∧
      (poisoned s pa 4 = false → fetchWord s th o =
        .word (Memory.get s.mem (pa + 3) ++ Memory.get s.mem (pa + 2) ++ Memory.get s.mem (pa + 1) ++ Memory.get s.mem pa)))

open Sys2Proof.Machine Sys2Proof.Claims Sys2Proof in
/-- A step whose turn is a row that is not an instruction runs that row with its input, and every step answers a next state. -/
def Obligations.StepRunsTheScheduledEventAndAlwaysAnswers : Prop :=
  (∀ (s t : State) (dt : Nat) (r : List Turn) (i : Instr) (x : Input),
    s.agenda = { dt := dt, act := .event i x } :: r → isEvent i = true → s.pow.trips = 0 →
    exec i { turned s dt r with inp := x } = .next t → t.hung = false → step s = .next t) ∧
  (∀ s : State, ∃ t, step s = .next t)

open Sys2Proof.Machine Sys2Proof.Claims Sys2Proof in
/-- What reset leaves: the invariant, and the values that the field maps give. -/
def Obligations.ResetMeetsTheInvariantAndTheFieldMaps : Prop :=
  Sys2Proof.Inv State.reset ∧ State.reset.ticks = 0 ∧ regRead State.reset 0x0100_0000 8 = 0x0000_0001_0000_0000 ∧
  regRead State.reset 0x0100_0100 8 = 1 ∧
  (∀ n, n < 7 → regRead State.reset (0x0100_0108 + 8 * n) 8 = 0) ∧
  (∀ h, h < 4 → ∀ n, n < 9 → regRead State.reset (0x2000_0000 + 0x100 * h + 8 * n) 8 = 0) ∧
  State.reset.thread = fun _ => none

open Sys2Proof.Machine Sys2Proof.Claims Sys2Proof in
/-- Every step keeps the invariant. -/
def Obligations.EveryStepKeepsTheInvariant : Prop := ∀ s t : State, Sys2Proof.Inv s → step s = .next t → Sys2Proof.Inv t

open Sys2Proof.Machine Sys2Proof.Claims Sys2Proof in
/-- CloseCheck: levels that end with the unit count down; the first with passes left sends the thread to its start (R296). -/
def Obligations.RetirementClosesLoopLevels : Prop :=
  ∀ (th : Thread), let e := th.nextO - 4
    (th.loops = [] → (retire th).pcO = e + 4 ∧ (retire th).loops = []) ∧
    (∀ l r, th.loops = l :: r →
      (¬(l.handle = th.pcH ∧ l.stop = e) → (retire th).pcO = e + 4 ∧ (retire th).loops = th.loops) ∧
      (l.handle = th.pcH → l.stop = e → 1 < l.left.toNat →
        (retire th).pcO = l.start ∧ (retire th).loops = { l with left := l.left - 1 } :: r) ∧
      (l.handle = th.pcH → l.stop = e → l.left.toNat ≤ 1 →
        (retire th).pcO = (retire { th with loops := r }).pcO ∧ (retire th).loops = (retire { th with loops := r }).loops)) ∧
    (retire th).pcH = th.pcH ∧ (retire th).wait = .none ∧ (retire th).latch = Latch.empty

open Sys2Proof.Machine Sys2Proof.Claims Sys2Proof in
/-- What the register files hold after a write: lanes, banks, predicates, k0 (R86-R91, R403). -/
def Obligations.RegisterFilesKeepTheirRules : Prop :=
  ∀ (th : Thread) (n m : Nat) (w : Word) (lanes : Mask) (f : Nat → Word) (k : Mask) (L : Nat),
    (n < th.v.length → L < 96 → (th.setV n lanes f).lane n L = if lanes.getLsbD L then f L else th.lane n L) ∧
    (n ≠ m → (th.setV n lanes f).lane m L = th.lane m L) ∧
    (th.banked n = false → n < th.s.length → (th.setS n w).sv n = w) ∧
    (n ≠ m → (th.setS n w).sv m = th.sv m) ∧
    (th.nib = false → th.mode ≠ .user → 8 ≤ n → n < 16 → (th.setS n w).s = th.s) ∧
    th.kbits 0 = BitVec.allOnes 96 ∧
    (1 ≤ n → n < th.k.length → th.nib = false → (th.setK n k).kbits n = k)

open Sys2Proof.Machine Sys2Proof.Claims Sys2Proof in
/-- Memory reads back what was written, leaves every other byte alone, and keeps its canonical form. -/
def Obligations.MemoryReadsBackItsWrites : Prop :=
  ∀ (m : List Host.Cell) (a b : Nat) (bs : List Byte),
    (∀ i, i < bs.length → Memory.get (Memory.write m a bs) (a + i) = bs.getD i 0) ∧
    (b < a ∨ a + bs.length ≤ b → Memory.get (Memory.write m a bs) b = Memory.get m b) ∧
    (Memory.wf m = true → Memory.wf (Memory.write m a bs) = true)

open Sys2Proof.Machine Sys2Proof.Claims Sys2Proof in
/-- The vector integer instructions (R315-R320), and selects, moves and permutes (R322, R323). -/
def Obligations.VectorIntegerAndMoveInstructionsWriteTheirLanes : Prop :=
  (∀ (i : Instr) (s : State) (th : Thread) (r : Thread × Flags), Ready i s th → vectorEffect th i = some r →
    r.2 &&& enabled th = 0 → Retires i s (addFlags r.1 r.2)) ∧
  (∀ (i : Instr) (s : State) (th : Thread) (r : Thread × Flags), Ready i s th → moveEffect th i = some r → Retires i s r.1)

open Sys2Proof.Machine Sys2Proof.Claims Sys2Proof in
/-- Floating-point arithmetic (R346-R352, R355), conversions, block formats, double words and the credited sum (R353-R360). -/
def Obligations.FloatingPointAndExactInstructionsWriteTheirLanes : Prop :=
  ∀ (i : Instr) (s : State) (th : Thread) (r : Thread × Flags), Ready i s th → floatEffect th i = some r ∨ exactEffect th i = some r →
    r.2 &&& enabled th = 0 → Retires i s (addFlags r.1 r.2)

open Sys2Proof.Machine Sys2Proof.Claims Sys2Proof in
/-- Scalar compares and selects, predicate and mask moves (R289, R290); loop counts, clocks, calendar, mailbox, fstat and privileged
reads (R295, R298, R299, R310). That rdtick.clk gives the larger of the quill's count and the thread's last reading is the model's reading
of R5 and R298 (log 56). -/
def Obligations.PredicateMovesAndStateReadsHaveTheirEffect : Prop :=
  ∀ (i : Instr) (s : State) (th th' : Thread), Ready i s th → maskEffect th i = some th' ∨ serviceEffect s th i = some th' → Retires i s th'

open Sys2Proof.Machine Sys2Proof.Claims Sys2Proof in
/-- Lane compares, carries, match, votes, reductions and scans (R315, R321, R324-R326, R373). -/
def Obligations.ComparesVotesAndReductionsHaveTheirEffect : Prop :=
  (∀ (i : Instr) (s : State) (th th' : Thread), Ready i s th → predicateEffect th i = some th' → Retires i s th') ∧
  (∀ (i : Instr) (s : State) (th th' : Thread), Ready i s th → reduceEffect th i = some th' → Retires i s th') ∧
  (∀ (u : Bool) (f : T64) (s : State) (th : Thread) (r : Nat × Flags),
    let i := Instr.vred (if u then .addU else .addS) f
    Ready i s th → f.sat th.latch.px = true →
    laneTree (satNode u (if f.dbl then 64 else 32)) ((List.range 96).map (fun L =>
      if (th.active i.guard).getLsbD L then some ((vsrc th f.dbl f.a.toNat L).toNat, (0 : Flags)) else none)) = some r →
    r.2 &&& enabled th = 0 → Retires i s (addFlags (th.setSx f.dbl f.d.toNat (BitVec.ofNat 64 r.1)) r.2))

open Sys2Proof.Machine Sys2Proof.Claims Sys2Proof in
/-- A flag whose enable bit is set: the results are written, the unit is complete, and the arithmetic trap follows it (R242). -/
def Obligations.EnabledFlagsTrapAfterTheUnit : Prop :=
  ∀ (i : Instr) (s : State) (th : Thread) (r : Thread × Flags), Ready i s th → computed th i = some r →
    r.2 &&& enabled th ≠ 0 →
    ∃ set : Mask, set &&& th.active i.guard = set ∧ (th.active i.guard ≠ 0 → set ≠ 0) ∧
      exec i s = .next (trapThread (s.setThread s.cur (retire (addFlags r.1 r.2))) s.cur (retire (addFlags r.1 r.2))
        { cause := 0x30, orig := 0, set := set, pc := (retire (addFlags r.1 r.2)).pcO, val := (r.2 &&& enabled th).setWidth 64, syn := 0 })

open Sys2Proof.Machine Sys2Proof.Claims Sys2Proof in
/-- The segment table, seginval and xinvc (R52, R57, R82-R84). That seginval has nothing to do but to wait for the thread's stores is the model's
choice (log 23), and so are what a shoot-down removes with an entry (log 10), that an invalid descriptor names no guest (log 84), and that a
poisoned one is logged and names none (log 61). -/
def Obligations.TranslationRegisterWritesHaveTheirEffect : Prop :=
  ∀ (f : T64) (s : State) (th : Thread), Ready (.mtp f) s th → let x := privValue th f
    (f.c = 0x24 → exec (.mtp f) s = .next (andRetires { s with xl := { s.xl with segtab := x &&& 0x000F_FFFF_FFF0_FFFF#64 } } s.cur th)) ∧
    (f.c = 0x25 → th.mq.all (fun o => !o.isStore || o.performed 3) = true → exec (.mtp f) s = .next (andRetires s s.cur th)) ∧
    (f.c = 0x26 →
      (5 ≤ x.toNat / 2 ^ 61 → Traps (.mtp f) s th 0x01 th.mask (latchWords th.latch) 0) ∧
      (x.toNat / 2 ^ 61 < 5 → shootForbidden s th x → Traps (.mtp f) s th 0x02 th.mask (latchWords th.latch) 0) ∧
      (x.toNat / 2 ^ 61 < 5 → ¬shootForbidden s th x → th.mq.all (fun o => !o.isStore || o.performed 3) = true →
        let s0 := if th.mode ≠ .hyp ∧ poisoned s (shootDesc s x) 8 = true then logPoison s 8 (shootDesc s x) else s
        exec (.mtp f) s = .next (joinShoots (s0.setThread s.cur (waits th .shootdown)) s.cur x.toNat)))

open Sys2Proof.Machine Sys2Proof.Claims Sys2Proof in
/-- Prefixes take their place in the unit; orphaned and illegal ones trap; so do words that are no instruction and units
whose fetch faults (R54, R261-R266, R271, R401). -/
def Obligations.PrefixesAndUnitsThatDoNotDecode : Prop :=
  ∀ (s : State) (th : Thread), s.thread s.cur = some th → th.exited = false → th.wait = .none → th.latch.closed = false →
    (∀ i f, ((∃ b a d, i = .xreg b a d ∧ f = fun q : Px => { q with x := some (d, a, b) }) ∨
        (∃ m o t, i = .rmode m o t ∧ f = fun q : Px => { q with r := some (m, o, t) }) ∨
        (∃ m, i = .pairx m ∧ f = fun q : Px => { q with p := some m }) ∨
        (∃ e p, i = .cpol e p ∧ f = fun q : Px => { q with c := some (e, p) })) →
      (th.latch.orphan = none → i.prefixOk = true → exec i s = .next (s.setThread s.cur
        { th with latch := { th.latch with px := f th.latch.px, n := th.latch.n + 1 } })) ∧
      (th.latch.orphan = none → i.prefixOk = false → Traps i s th 0x01 th.mask (th.latch.w1 ++ th.latch.w0) 0) ∧
      (∀ r nx, th.latch.orphan = some (r, nx) → exec i s = .next (trapThread s s.cur th
        { cause := 0x03, orig := 0, set := th.mask, pc := th.pcO + 4 * th.latch.n, val := nx ++ BitVec.ofNat 32 r, syn := 0 }))) ∧
    Traps .illegalInstruction s th 0x01 th.mask (th.latch.w1 ++ th.latch.w0) 0 ∧
    (∀ c v y, th.latch.fetch = some (c, v, y) → c ≠ 0x29 → (th.seg = none → poisoned s (segAddr s th.pcH.toNat) 16 = false) →
      (th.atVec = 0 ∨ th.atVec = 3 → Traps .instructionFetchFault s th c th.mask v y) ∧
      (th.atVec = 1 ∨ th.atVec = 2 → th.nib = false → exec .instructionFetchFault s = .next (vectorFault s s.cur th
        { cause := c, orig := 0, set := th.mask, pc := th.pcO, val := v, syn := y })))

namespace Sys2Proof.Claims
open Sys2Proof.Machine

/-! ## The steps that are not instructions: memory, walks, wakes, shoot-downs, matrix entries, engines -/

/-- The row answers a next state with a property. -/
def Answers (i : Instr) (s : State) (p : State → Prop) : Prop := ∃ u, exec i s = .next u ∧ p u

/-- Nothing stands still, nothing is poisoned, and no access of the row under way fails to return. -/
def sound (s : State) : Prop := s.pow.trips = 0 ∧ s.st.poison = [] ∧ s.hung = false

/-- The unit of a waiting thread retires (R296). -/
def resumed (th : Thread) : Thread := retireAt th th.wend

/-- The registers of a loaded datum (R255). -/
def loadedWords (sz : BitVec 3) (bs : List Byte) : List Word :=
  let w := fun (i : Nat) => BitVec.ofNat 32 (ofBytes ((bs.drop (4 * i)).take 4))
  match sz.toNat with
  | 3 => [w 0, w 1]
  | 4 => [(BitVec.ofNat 8 (ofBytes bs)).signExtend 32]
  | 5 => [(BitVec.ofNat 16 (ofBytes bs)).signExtend 32]
  | 6 => [w 0, w 1, w 2, w 3]
  | _ => [w 0]

/-- The bytes that a load of an access sees on a quill (R146). -/
def seen (s : State) (q : Nat) (a : Acc) : Option (List Byte) :=
  match a.tgt with
  | .mem k pol pa _ _ _ _ => if l1Held k pol then some (heldBytes s q pa a.size) else if k < 4 then some (s.bytes pa a.size) else none
  | .scr g p => some (scrRead s g p a.size)
  | _ => none

/-- The entry of a thread whose only access is next, with nothing else of the thread or its engines in the way. -/
structure LastAccess (s : State) (t : Nat) (th : Thread) (o : MemOp) (a : Acc) : Prop where
  here : s.thread t = some th
  lives : th.exited = false
  runs : (s.quill th.quill).halted = false
  sole : o.accs = [a]
  unique : ∀ p, p ∈ th.mq → p.ser = o.ser → p = o
  pending : a.ph = .pend
  undelivered : o.dlv = false
  apart : touched s t o.ser th.quill a = []
  unpoisoned : ∀ g p, a.tgt = .scr g p → scrPoisoned s g p a.size = false

/-- The new value of an atomic (R334). -/
def atomValue (op : AtomOp) (w : Nat) (x b c : BitVec w) : BitVec w :=
  match op with
  | .add => x + b
  | .minS => if x.sle b then x else b
  | .minU => if x.ule b then x else b
  | .maxS => if x.sle b then b else x
  | .maxU => if x.ule b then b else x
  | .and => x &&& b
  | .or => x ||| b
  | .xor => x ^^^ b
  | .xchg => b
  | .cas => if x = c then b else x
  | .zmin => if x.ule b then x else b
  | .fadd => BitVec.ofNat w (fAdd Fmt.f32 .rne false x.toNat b.toNat).bits

/-- The value of an atomic's home as `n` bits hold it. -/
def bitsOf (n : Nat) (bs : List Byte) : BitVec n := BitVec.ofNat n (ofBytes bs)

/-- The lanes of an atomic at one address perform one after another in ascending order: the value after some of them (R141, R334). -/
def afterLanes (op : AtomOp) (n : Nat) (old : BitVec n) (as : List Acc) : BitVec n :=
  as.foldl (fun x a => atomValue op n x (bitsOf n a.data) (bitsOf n a.cmp)) old

/-- A vector atomic all of whose lanes `as` name one place, next of its thread's atomics and with nothing of its engines in the way. -/
structure LanesAtomic (s : State) (t : Nat) (th : Thread) (o : MemOp) (as : List Acc) (tgt : Tgt) (op : AtomOp) (wide : Bool) (d : Nat) : Prop where
  here : s.thread t = some th
  lives : th.exited = false
  next : th.mq.find? (fun o => (match o.kind with | .atomic _ _ => true | _ => false) && !o.accs.all (fun a => a.ph.final)) = some o
  unique : ∀ p, p ∈ th.mq → p.ser = o.ser → p = o
  accs : o.accs = as ∧ as ≠ []
  what : o.kind = .atomic op wide ∧ o.fin = .vatom d wide ∧ o.dlv = false
  room : d + (if wide then 2 else 1) ≤ th.v.length
  lanes : (as.map (fun a => a.lane)).Pairwise (· < ·) ∧ ∀ a, a ∈ as → a.lane < 96
  place : ∀ a, a ∈ as → a.tgt = tgt ∧ a.ph = .pend ∧ atomReady th o a = true ∧ touched s t o.ser th.quill a = []
  form : ∀ a, a ∈ as → a.size = (if wide then 8 else 4) ∧ a.data.length = a.size ∧ a.cmp.length ≤ a.size

/-- The registers that the lanes of such an atomic receive: each the value that it found; no other lane or register changes. -/
def lanesReceive (th x : Thread) (as : List Acc) (op : AtomOp) (wide : Bool) (d n : Nat) (old : BitVec n) : Prop :=
  (∀ i a j, as[i]? = some a → j < (if wide then 2 else 1) →
    x.lane (d + j) a.lane = (afterLanes op n old (as.take i)).extractLsb' (32 * j) 32) ∧
  (∀ r L, L < 96 → (r < d ∨ d + (if wide then 2 else 1) ≤ r ∨ ∀ a, a ∈ as → a.lane ≠ L) → x.lane r L = th.lane r L) ∧
  x.s = th.s ∧ x.k = th.k ∧ x.bankS = th.bankS ∧ x.bankH = th.bankH

/-- Entries that a shoot-down removes (R82). -/
def shotDown (h : Shoot) (e : TlbEnt) : Bool :=
  match h.op with
  | 0 => e.vmid == h.vmid && (e.asid.isNone || e.asid == some h.asid) && e.page == h.addr * 65536 / 2 ^ e.size
  | 1 => e.vmid == h.vmid && e.asid == some h.asid
  | 2 | 3 => e.vmid == h.vmid
  | _ => true

/-- Descriptors and pointers of a walk cache that a shoot-down removes: of the context (op 0 on the address's path alone, op 1 with
its descriptor), of the guest (op 2 all, op 3 the stage-2 pointers on the path), or all (R82). -/
def shotWalk (h : Shoot) (e : WcEnt) : Bool :=
  let path := e.level != 3 && e.tag == h.addr * 65536 / 2 ^ (16 + 13 * e.level)
  match h.op with
  | 0 => e.vmid == h.vmid && e.asid == some h.asid && path
  | 1 => e.vmid == h.vmid && e.asid == some h.asid
  | 2 => e.vmid == h.vmid
  | 3 => e.vmid == h.vmid && e.asid.isNone && path
  | _ => true

/-- The rows of the five operations of a shoot-down. -/
def shootRow (n : Nat) : Instr :=
  match n with
  | 0 => .xinvcAddress
  | 1 => .xinvcContext
  | 2 => .xinvcGuest
  | 3 => .xinvcGuestPhysical
  | _ => .xinvcAll

/-- A word of the accumulator of a gang. -/
def accAt (s : State) (g i : Nat) : Word := match s.gang g with | some x => (x.acc.find i).getD 0 | none => 0

/-- The exact sum of element (i, n) of a dense integer mma (R374). -/
def mmaSum (w : Nat) (a b : List Byte) (i n : Nat) : Int :=
  let v := fun (f : Nat) (x : Byte) => if f = 5 then x.toInt else (x.toNat : Int)
  ((List.range 64).map (fun k => v (fmtA w) (a.getD (64 * i + k) 0) * v (fmtB w) (b.getD (64 * n + k) 0))).sum

end Sys2Proof.Claims

open Sys2Proof.Machine Sys2Proof.Claims Sys2Proof in
/-- Stores quill-perform into the pending list or their scratchpad, pushes become visible, pending stores home-perform
(R145-R148, R169, R206). -/
def Obligations.StoresQuillPerformThenHomePerform : Prop :=
  (∀ (s : State) (t ser n : Nat) (th : Thread) (o : MemOp) (a : Acc), s.thread t = some th →
    th.mq.find? (fun o => o.ser == ser) = some o → o.kind = .store → o.accs[n]? = some a → a.ph = .pend → storeReady th o a = true →
    touched s t o.ser th.quill a = [] → s.inp.n1 = t → s.inp.n2 = ser → s.inp.n3 = n →
    (∀ k pol pa v c va sz, a.tgt = .mem k pol pa v c va sz → Answers .storeQuillPerform s (fun u => u.mem = s.mem ∧
      (u.quill th.quill).pq = (s.quill th.quill).pq ++
        [{ tid := t, ser := ser, acc := n, kind := k, pol := pol, pa := pa, data := a.data, vis := l1Held k pol, vmid := v, asid := c,
           va := va, red := none }] ∧
      (u.quill th.quill).cq = (if l1Held k pol then (s.quill th.quill).cq.change (pa / 128) (fun l => overlay l (pa / 128) pa a.data)
        else if k = 3 ∨ k = 4 then (s.quill th.quill).cq else (s.quill th.quill).cq.del (pa / 128)))) ∧
    (∀ g p x, a.tgt = .scr g p → s.gang g = some x → x.ended = false → Answers .storeQuillPerform s (fun u => u.mem = s.mem ∧
      scrRead u g p a.data.length = a.data))) ∧
  (∀ (s : State) (th : Thread) (o : MemOp) (a : Acc) (g : Gang), s.thread s.inp.n1 = some th →
    th.mq.find? (fun o => o.ser == s.inp.n2) = some o → o.kind = .push → o.accs = [a] → s.inp.n3 = 0 → a.ph = .pend →
    storeReady th o a = true → s.gang th.gang = some g → a.data.length = 4 →
    Answers .storeQuillPerform s (fun u => ∃ g', u.gang th.gang = some g' ∧ g'.dqBase + g'.dq.length = g.dqBase + g.dq.length + 1 ∧
      (∀ w x, w ∈ liveWarps s g → s.thread w = some x → x.dqpos = g.dqBase + g.dq.length → dqWord g' x = some (BitVec.ofNat 32 (ofBytes a.data))))) ∧
  (∀ (s : State) (e : PEnt), let q := s.inp.n1
    sound s → (s.quill q).pq[s.inp.n2]? = some e → oldestFor (s.quill q).pq s.inp.n2 = true → e.kind < 4 → e.red = none →
    Answers .storeHomePerform s (fun u => u.mem = Memory.write s.mem e.pa e.data ∧ (u.quill q).pq = (s.quill q).pq.eraseIdx s.inp.n2))

open Sys2Proof.Machine Sys2Proof.Claims Sys2Proof in
/-- A load delivers the bytes that its quill sees, an atomic returns the old value and leaves the new one, in memory and in the scratchpad; the
lanes of a vector atomic at one address perform in ascending order, each finding what the one before it left (R141, R146, R149, R334). An
atomic waits for the stores of its own thread and for the visible ones of its quill to the same bytes, and for no others. -/
def Obligations.LoadsAndAtomicsDeliverTheirValues : Prop :=
  (∀ (s : State) (th : Thread) (o : MemOp) (a : Acc) (bs : List Byte) (sz : BitVec 3) (d : Nat), sound s →
    LastAccess s s.inp.n1 th o a → s.inp.n2 = 0 → oldestLoad th = some o → o.kind = .load → loadReady th o a = true →
    bankBusy s th.quill a.tgt = false → seen s th.quill a = some bs → a.size = byteSize sz →
    (o.fin = .sload sz.toNat d → d + (loadedWords sz bs).length ≤ th.s.length → th.s.length ≤ 256 →
      Answers .loadTakeValue s (fun u => u.mem = s.mem ∧ ∃ x, u.thread s.inp.n1 = some x ∧
        (∀ i w, (loadedWords sz bs)[i]? = some w → x.s[d + i]? = some { val := w, poison := false }) ∧
        (∀ n, (n < d ∨ d + (loadedWords sz bs).length ≤ n) → x.s[n]? = th.s[n]?) ∧
        x.v = th.v ∧ x.k = th.k ∧ x.bankS = th.bankS ∧ x.bankH = th.bankH)) ∧
    (o.fin = .vload sz.toNat d → d + (loadedWords sz bs).length ≤ th.v.length → a.lane < 96 →
      Answers .loadTakeValue s (fun u => u.mem = s.mem ∧ ∃ x, u.thread s.inp.n1 = some x ∧
        (∀ i w, (loadedWords sz bs)[i]? = some w → x.lane (d + i) a.lane = w) ∧
        (∀ n, (n < d ∨ d + (loadedWords sz bs).length ≤ n) → x.lane n a.lane = th.lane n a.lane) ∧
        (∀ n L, L < 96 → L ≠ a.lane → x.lane n L = th.lane n L) ∧
        x.s = th.s ∧ x.k = th.k ∧ x.bankS = th.bankS ∧ x.bankH = th.bankH))) ∧
  (∀ (s : State) (th : Thread) (o : MemOp) (a : Acc) (op : AtomOp) (wide : Bool) (d k pol pa v c va sz : Nat), sound s →
    LastAccess s s.inp.n1 th o a → s.inp.n2 = 0 →
    th.mq.find? (fun o => (match o.kind with | .atomic _ _ => true | _ => false) && !o.accs.all (fun a => a.ph.final)) = some o →
    o.kind = .atomic op wide → o.fin = .satom d wide → atomReady th o a = true → a.tgt = .mem k pol pa v c va sz →
    a.size = (if wide then 8 else 4) → a.data.length = a.size → a.cmp.length ≤ a.size →
    (∀ e, e ∈ (s.quill th.quill).pq → e.tid = s.inp.n1 ∨ e.vis = true → pa + a.size ≤ e.pa ∨ e.pa + e.data.length ≤ pa) →
    d + (if wide then 2 else 1) ≤ th.s.length → th.s.length ≤ 256 →
    let n := if wide then 64 else 32
    let old := BitVec.ofNat n (ofBytes (s.bytes pa a.size))
    Answers .atomicPerform s (fun u =>
      u.mem = Memory.write s.mem pa (toBytes a.size (atomValue op n old (BitVec.ofNat n (ofBytes a.data)) (BitVec.ofNat n (ofBytes a.cmp))).toNat) ∧
      ∃ x, u.thread s.inp.n1 = some x ∧
        (∀ i, i < (if wide then 2 else 1) → x.s[d + i]? = some { val := old.extractLsb' (32 * i) 32, poison := false }) ∧
        (∀ i, (i < d ∨ d + (if wide then 2 else 1) ≤ i) → x.s[i]? = th.s[i]?) ∧
        x.v = th.v ∧ x.k = th.k ∧ x.bankS = th.bankS ∧ x.bankH = th.bankH)) ∧
  (∀ (s : State) (th : Thread) (o : MemOp) (a : Acc) (op : AtomOp) (wide : Bool) (d g p : Nat) (x : Gang),
    LastAccess s s.inp.n1 th o a → s.inp.n2 = 0 →
    th.mq.find? (fun o => (match o.kind with | .atomic _ _ => true | _ => false) && !o.accs.all (fun a => a.ph.final)) = some o →
    o.kind = .atomic op wide → o.fin = .satom d wide → atomReady th o a = true → a.tgt = .scr g p → s.gang g = some x → x.ended = false →
    a.size = (if wide then 8 else 4) → a.data.length = a.size → a.cmp.length ≤ a.size →
    d + (if wide then 2 else 1) ≤ th.s.length → th.s.length ≤ 256 →
    let n := if wide then 64 else 32
    let old := bitsOf n (scrRead s g p a.size)
    Answers .atomicPerform s (fun u => u.mem = s.mem ∧
      scrRead u g p a.size = toBytes a.size (atomValue op n old (bitsOf n a.data) (bitsOf n a.cmp)).toNat ∧
      ∃ x, u.thread s.inp.n1 = some x ∧
        (∀ i, i < (if wide then 2 else 1) → x.s[d + i]? = some { val := old.extractLsb' (32 * i) 32, poison := false }) ∧
        (∀ i, (i < d ∨ d + (if wide then 2 else 1) ≤ i) → x.s[i]? = th.s[i]?) ∧ x.v = th.v ∧ x.k = th.k)) ∧
  (∀ (s : State) (th : Thread) (o : MemOp) (as : List Acc) (tgt : Tgt) (op : AtomOp) (wide : Bool) (d : Nat), sound s →
    LanesAtomic s s.inp.n1 th o as tgt op wide d → s.inp.n2 < as.length →
    let n := if wide then 64 else 32
    let m := if wide then 8 else 4
    (∀ k pol pa v c va sz, tgt = .mem k pol pa v c va sz →
      (∀ e, e ∈ (s.quill th.quill).pq → e.tid = s.inp.n1 ∨ e.vis = true → pa + m ≤ e.pa ∨ e.pa + e.data.length ≤ pa) →
      Answers .atomicPerform s (fun u => u.mem = Memory.write s.mem pa (toBytes m (afterLanes op n (bitsOf n (s.bytes pa m)) as).toNat) ∧
        ∃ x, u.thread s.inp.n1 = some x ∧ lanesReceive th x as op wide d n (bitsOf n (s.bytes pa m)))) ∧
    (∀ g p y, tgt = .scr g p → s.gang g = some y → y.ended = false → scrPoisoned s g p m = false →
      Answers .atomicPerform s (fun u => u.mem = s.mem ∧
        scrRead u g p m = toBytes m (afterLanes op n (bitsOf n (scrRead s g p m)) as).toNat ∧
        ∃ x, u.thread s.inp.n1 = some x ∧ lanesReceive th x as op wide d n (bitsOf n (scrRead s g p m)))))

open Sys2Proof.Machine Sys2Proof.Claims Sys2Proof in
/-- Lines fill with home values under the quill's pending bytes and drop alone; of the misses that wait, those that hold handlers up start
their walk first, and otherwise the oldest does; a walk satisfies every miss that it covers, or delivers its class (R75, R76, R106, R107,
R146). When a walk takes place, and what its walk cache holds, is the model's choice (logs 10, 11). -/
def Obligations.LinesFillAndDropAndWalksComplete : Prop :=
  (∀ s : State, sound s → s.inp.n2 < 2 ^ 56 → l1Held ((kindOf (s.inp.n2 * 128)).getD 4) 2 = true → bankShut s (s.inp.n2 * 128) = false →
    Answers .l1LineFill s (fun u => u.mem = s.mem ∧ (u.quill s.inp.n1).cq.find s.inp.n2 = some (fillLine s s.inp.n1 s.inp.n2) ∧
      (u.quill s.inp.n1).pq = (s.quill s.inp.n1).pq)) ∧
  (∀ s : State, Answers .l1LineDrop s (fun u => u.mem = s.mem ∧ (u.quill s.inp.n1).cq.find s.inp.n2 = none ∧
    ∀ l, l ≠ s.inp.n2 → (u.quill s.inp.n1).cq.find l = (s.quill s.inp.n1).cq.find l)) ∧
  (∀ (s : State) (i : Nat) (m : Miss), let ms := (s.xl.miss.find s.inp.n1).getD []
    (ms.filter (fun m => m.walking)).length < (if s.inp.n1 = 8 then 16 else 64) → ms[i]? = some m → m.walking = false →
    (∀ j x, ms[j]? = some x → x.walking = false → (x.first = true → m.first = true ∧ i ≤ j) ∧ (m.first = false → i ≤ j)) →
    Answers .tlbMissWalkStart s (fun u => ∃ ms', u.xl.miss.find s.inp.n1 = some ms' ∧ ms'.length = ms.length ∧
      ms'[i]? = some { m with walking := true } ∧ (∀ j, j ≠ i → ms'[j]? = ms[j]?))) ∧
  (∀ (s : State) (m : Miss) (r : WalkRes) (size : Nat) (glob : Bool), let ms := (s.xl.miss.find s.inp.n1).getD []
    ms[s.inp.n2]? = some m → m.walking = true → walk s (wcOf s s.inp.n1) m.vmid m.asid (m.page * 65536) = (r, size, glob) →
    (∀ l, r = .ok l → let e : TlbEnt := { vmid := m.vmid, asid := if glob then none else some m.asid, page := m.page * 65536 / 2 ^ size, size := size, res := .ok l }
      Answers .walkComplete s (fun u => (∃ es, u.xl.tlb.find s.inp.n1 = some es ∧ e ∈ es) ∧
        u.xl.miss.find s.inp.n1 = some (ms.filter (fun x => !e.covers x.vmid x.asid (x.page * 65536))))) ∧
    (∀ c l st, r = .bad c l st → c ≠ 0 → Answers .walkComplete s (fun u =>
      (∀ t th, t ∈ m.who → t < 2 ^ 40 → s.thread t = some th → ∃ x, u.thread t = some x ∧ x.dlvd.find? (fun d => d.1 == m.page) = some (m.page, r)) ∧
      u.xl.miss.find s.inp.n1 = some (ms.filter (fun x => !(x.vmid == m.vmid && x.asid == m.asid && x.page == m.page))))))

namespace Sys2Proof.Claims
open Sys2Proof.Machine

/-! ## The tables of translation, written from R59-R72 -/

/-- Entry `i` of the table at a physical address (R59, R65). -/
def entryAt (s : State) (p i : Nat) : Nat := ofBytes (s.bytes (p + 8 * i) 8)

/-- The index of an address at a level (R59). -/
def indexAt (va level : Nat) : Nat := va / 2 ^ (16 + 13 * level) % 8192

/-- The address that bits [51:16] of a descriptor, pointer or leaf hold (R61-R63, R71). -/
def addressOf (e : Nat) : Nat := e / 2 ^ 16 % 2 ^ 36 * 2 ^ 16

/-- The memory of the GDDR 7 kind holds a whole table (R60, R64). -/
def holdsTable (p : Nat) : Prop := p + 65536 ≤ 2 ^ 38

/-- A table pointer that breaks no rule by itself (R62, R64). -/
def goodPointer (e : Nat) : Prop := e % 4 = 1 ∧ e / 2 ^ 2 % 2 ^ 14 = 0 ∧ e / 2 ^ 52 % 2 ^ 12 = 0

/-- The rules of a leaf that count whatever nr holds (R64). -/
def leafForm (level e : Nat) : Prop :=
  e % 4 = 3 ∧ e.testBit 7 = false ∧ e / 2 ^ 56 % 2 ^ 8 = 0 ∧ level < 2 ∧ (level = 1 → e.testBit 15 = false) ∧ (e.testBit 3 = true → e.testBit 2 = true)

/-- Bytes of the page of a leaf (R59). -/
def pageBytes (level : Nat) : Nat := 2 ^ (16 + 13 * level)

/-- A resident leaf that breaks no rule (R40, R41, R64, R72); `phys`: its address is physical. -/
structure GoodLeaf (second phys : Bool) (level e : Nat) : Prop where
  form : leafForm level e
  resident : e.testBit 14 = false
  aligned : level = 1 → e / 2 ^ 16 % 2 ^ 13 = 0
  kind : e / 2 ^ 8 % 8 ≤ 4
  policy : e / 2 ^ 11 % 4 ≤ [3, 2, 2, 1, 0].getD (e / 2 ^ 8 % 8) 0
  window : e.testBit 13 = true → e / 2 ^ 8 % 8 = 0
  stage2 : second = true → e.testBit 5 = false ∧ e.testBit 13 = false
  inside : phys = true → ∀ a, addressOf e ≤ a → a < addressOf e + pageBytes level → kindOf a = some (e / 2 ^ 8 % 8)

/-- From a table of a level, named `t`, good pointers on the path of an address lead to the level-`m` table at the physical address `p`
(R59, R62); `at' t p`: the table named `t` stands at `p`. -/
def leadsTo (s : State) (at' : Nat → Nat → Prop) (va : Nat) : Nat → Nat → Nat → Nat → Prop
  | 0, t, m, p => at' t p ∧ m = 0
  | k + 1, t, m, p => (at' t p ∧ m = k + 1) ∨
    ∃ q, at' t q ∧ goodPointer (entryAt s q (indexAt va (k + 1))) ∧
      leadsTo s at' va k (addressOf (entryAt s q (indexAt va (k + 1)))) m p

/-- A table that a physical address names (R60, R64). -/
def atItself (t p : Nat) : Prop := p = t ∧ holdsTable p

/-- Stage 2 places a guest-physical address (R71, R72): the good leaf `e` of level `m` maps it to `a`. -/
def secondStage (s : State) (root gpa e m a : Nat) : Prop :=
  ∃ q, leadsTo s atItself gpa 2 root m q ∧ e = entryAt s q (indexAt gpa m) ∧ GoodLeaf true true m e ∧ a = addressOf e + gpa % pageBytes m

/-- The translation that a walk gives, by the leaves of its stages (R63, R67, R72): of one stage, `e` counts twice. -/
structure Translates (r : WalkRes × Nat × Bool) (va e e2 a : Nat) : Prop where
  found : ∃ l, r.1 = .ok l ∧ l.pa + va % 2 ^ r.2.1 = a ∧ l.kind = e2 / 2 ^ 8 % 8 ∧ l.pol = min (e / 2 ^ 11 % 4) (e2 / 2 ^ 11 % 4) ∧
    l.r = (e.testBit 2 && e2.testBit 2) ∧ l.w = (e.testBit 3 && e2.testBit 3) ∧ l.x = (e.testBit 4 && e2.testBit 4) ∧ l.user = e.testBit 5 ∧
    l.dw = (if e.testBit 13 then some (e / 2 ^ 52 % 16) else none)
  global : r.2.2 = e.testBit 6

end Sys2Proof.Claims

open Sys2Proof.Machine Sys2Proof.Claims Sys2Proof in
/-- The walk of a local address (R59-R64, R69-R72): the tables and descriptors that end it, the entries that end it, and the translation
that its leaf, or the leaves of its two stages, give. That the walk of a guest's tables goes on whatever the r bit of the stage-2 leaf of a
table holds is the model's choice (log 63). -/
def Obligations.WalksFollowTheTables : Prop :=
  ∀ (s : State) (vmid asid va : Nat), sound s → asid < 1024 → va < 2 ^ 55 →
    let ctx := addressOf s.xl.ctxtab.toNat
    let gst := addressOf s.xl.vmtab.toNat
    let d := entryAt s ctx asid
    let g := entryAt s gst vmid
    let r := walk s [] vmid asid va
    (¬holdsTable ctx ∨ ¬holdsTable gst → ∃ st, r.1 = .bad 2 3 st) ∧
    (holdsTable ctx → holdsTable gst →
      (d % 2 = 0 ∨ d / 2 % 2 ≠ 0 ∨ d / 2 ^ 3 % 2 ^ 7 ≠ 0 ∨ d / 2 ^ 52 % 2 ^ 12 ≠ 0 ∨ d / 2 ^ 10 % 64 ≠ vmid → r.1 = .bad 8 3 0) ∧
      (d % 4 = 1 → d / 2 ^ 3 % 2 ^ 7 = 0 → d / 2 ^ 52 % 2 ^ 12 = 0 → d / 2 ^ 10 % 64 = vmid →
        (vmid = 0 → (¬holdsTable (addressOf d) → r.1 = .bad 2 3 0) ∧
          ∀ m p, leadsTo s atItself va 2 (addressOf d) m p → let e := entryAt s p (indexAt va m)
            (e % 2 = 0 → r.1 = .bad 1 m 0) ∧
            (e % 4 = 3 → m = 2 → r.1 = .bad 2 2 0) ∧
            (e % 4 = 1 → m = 0 ∨ ¬goodPointer e ∨ ¬holdsTable (addressOf e) → r.1 = .bad 2 m 0) ∧
            (leafForm m e → e.testBit 14 = true → r.1 = .bad 7 m 0) ∧
            (GoodLeaf false true m e → Translates r va e e (addressOf e + va % pageBytes m))) ∧
        (vmid ≠ 0 →
          (g % 2 = 0 ∨ g / 2 % 2 ^ 15 ≠ 0 ∨ g / 2 ^ 52 % 2 ^ 12 ≠ 0 → r.1 = .bad 8 3 1) ∧
          (g % 2 = 1 → g / 2 % 2 ^ 15 = 0 → g / 2 ^ 52 % 2 ^ 12 = 0 →
            ∀ m p, leadsTo s (fun t p => (∃ e2 m2, secondStage s (addressOf g) t e2 m2 p) ∧ holdsTable p) va 2 (addressOf d) m p →
              let e := entryAt s p (indexAt va m)
              (e % 2 = 0 → r.1 = .bad 1 m 0) ∧
              (GoodLeaf false false m e → ∀ e2 m2 a, secondStage s (addressOf g) (addressOf e + va % pageBytes m) e2 m2 a →
                (e / 2 ^ 8 % 8 = e2 / 2 ^ 8 % 8 → Translates r va e e2 a) ∧
                (e / 2 ^ 8 % 8 ≠ e2 / 2 ^ 8 % 8 → ∃ l st, r.1 = .bad 2 l st))))))

open Sys2Proof.Machine Sys2Proof.Claims Sys2Proof in
/-- A wait ends when what it waits for holds, and the waiting unit then retires (R105, R150, R152, R156, R157, R203, R204, R206,
R303, R386). -/
def Obligations.WaitsEndWhenTheirConditionHolds : Prop :=
  (∀ (s : State) (g : Gang), s.gang s.inp.n1 = some g → (g.warps ++ g.nib.toList).Nodup → liveThreads s g ≠ [] →
    (∀ t, t ∈ liveThreads s g → (s.inp.n2, t) ∈ g.bars) →
    Answers .gangBarrierRelease s (fun u => (∀ t th, t ∈ liveThreads s g → s.thread t = some th → u.thread t = some (resumed th)) ∧
      (∀ t, t ∉ liveThreads s g → u.thread t = s.thread t) ∧
      u.gang s.inp.n1 = some { g with bars := g.bars.filter (fun b => b.1 != s.inp.n2) })) ∧
  (∀ (s : State) (fg : FGang), s.fgangs.find s.inp.n1 = some fg →
    let ps := fg.members.flatMap (fun m => match s.gang m with | some g => liveThreads s g | none => [])
    ps.Nodup → ps ≠ [] → (∀ t, t ∈ ps → t ∈ fg.arrived) →
    Answers .folioBarrierRelease s (fun u => (∀ t th, t ∈ ps → s.thread t = some th → u.thread t = some (resumed th)) ∧
      u.fgangs.find s.inp.n1 = some { fg with arrived := [] } ∧
      (∀ m g, m ∈ fg.members → s.gang m = some g → (u.quill g.quill).cq = []))) ∧
  (∀ (s : State) (th : Thread) (g : Gang), s.thread s.inp.n1 = some th → s.gang th.gang = some g →
    (∀ d w, th.wait = .pop d → dqWord g th = some w →
      exec .dqpopWake s = .next (s.setThread s.inp.n1 (resumed { th.setS d w with dqpos := th.dqpos + 1 }))) ∧
    (∀ d, th.wait = .pop d → dqWord g th = none → nibClosed s g = true →
      exec .dqpopWake s = .next (s.setThread s.inp.n1 { th with wait := .none })) ∧
    (∀ k m, th.wait = .ordheld k m → (g.held ≠ none → exec .ordbegEnter s = .next s) ∧
      (g.held = none → k.toNat < g.frontier → exec .ordbegEnter s = .next (trapThread s s.inp.n1 th
        { cause := 0x43, orig := 0, set := m, pc := th.pcO, val := k.setWidth 64, syn := 0 })) ∧
      (g.held = none → g.frontier ≤ k.toNat → exec .ordbegEnter s = .next
        ((s.setGang th.gang { g with frontier := k.toNat }).setThread s.inp.n1 { th with wait := .ordbeg k }))) ∧
    (∀ k, th.wait = .ordbeg k → g.held = none → mayEnter s th.gang g k = true → Answers .ordbegEnter s (fun u =>
      u.thread s.inp.n1 = some (resumed th) ∧ u.gang th.gang = some { g with held := some (s.inp.n1, k) } ∧ (u.quill th.quill).cq = [])) ∧
    (∀ f c, th.wait = .mark f c → (4 ≤ c → domStoresDone th = true ∧ th.rfault = none) → markReady th f c = true →
      Answers .markRetire s (fun u => u.thread s.inp.n1 = some (resumed th) ∧ u.mem = s.mem)) ∧
    (∀ p gen acq wr, th.wait = .arwait p gen acq wr → scrPoisoned s p.1 p.2 16 = false →
      ((awRead s p.1 p.2).gen - gen).toNat < 2 ^ 31 → Answers .arwaitWake s (fun u =>
        u.thread s.inp.n1 = some (resumed (match wr with | some d => th.setS d (awRead s p.1 p.2).gen | none => th)))) ∧
    (∀ c, th.wait = .edrain c → outstanding s th.quill s.inp.n1 = 0 → Answers .edrainComplete s (fun u =>
      u.thread s.inp.n1 = some (resumed th)))) ∧
  (∀ (s : State) (t : Nat) (th : Thread) (w : Word) (g : Gang),
    s.threads.find? (fun e => e.2.quill == s.inp.n1 && e.2.nib && !e.2.exited) = some (t, th) → th.wait = .push w →
    s.gang th.gang = some g → dqHeld s g + pendingPushes th < 64 →
    exec .dqpushWake s = .next (s.setThread t (resumed (pushWord th w))))

open Sys2Proof.Machine Sys2Proof.Claims Sys2Proof in
/-- A shoot-down removes the entries that it names and retires when no access uses one; the rows that write seginval, loop-level
counts and frame depths (R57, R82-R85, R310, R404). What else a removal takes along is the model's choice (log 10), and so is that
seginval has nothing to do but to wait for the thread's stores (log 23). -/
def Obligations.ShootdownsRemoveWhatTheyName : Prop :=
  (∀ (s : State) (h : Shoot) (r : List Shoot), s.xl.shoots = h :: r → h.op < 5 → h.removed = false →
    Answers (shootRow h.op) s (fun u => u.xl.shoots = { h with removed := true } :: r ∧
      (∀ d es, s.xl.tlb.find d = some es → u.xl.tlb.find d = some (es.filter (fun e => !shotDown h e))) ∧
      (∀ d es, s.xl.wc.find d = some es → u.xl.wc.find d = some (es.filter (fun e => !shotWalk h e))) ∧
      (∀ d ms, s.xl.miss.find d = some ms → u.xl.miss.find d = some (ms.map (fun m =>
        if h.op = 4 ∨ m.vmid = h.vmid then { m with walking := false } else m))) ∧ u.mem = s.mem)) ∧
  (∀ (s : State) (h : Shoot) (r : List Shoot), s.xl.shoots = h :: r → h.removed = true → shootQuiet s h = true →
    Answers .shootdownRetire s (fun u => u.xl.shoots = r ∧
      ∀ t th, h.who = some t → s.thread t = some th → u.thread t = some (resumed th))) ∧
  (∀ (s : State) (th th' : Thread), s.thread s.cur = some th → th.exited = false → th.wait = .none →
    (th.mq.all (fun o => !o.isStore || o.performed 3) = true → exec .seginvalWrite s = .next (s.setThread s.cur (retire th))) ∧
    (privEffect th (if s.inp.on then 0x38 else 0x28) (s.inp.v1.setWidth 32 |>.setWidth 64) = some th' →
      exec .tflcntWrite s = .next (s.setThread s.cur (retire th'))) ∧
    (th.framesOf (if s.inp.on then .sup else th.mode) ≠ [] → 4 < s.inp.v1.toNat % 8 → Traps .tflcntWrite s th 0x01 th.mask (latchWords th.latch) 0) ∧
    (privEffect th (if s.inp.on then 0x21 else 0x20) (s.inp.v1.setWidth 32 |>.setWidth 64) = some th' →
      exec .statusDepthWrite s = .next (s.setThread s.cur (retire th'))) ∧
    (s.inp.v1.toNat % 4 = 3 → Traps .statusDepthWrite s th 0x01 th.mask (latchWords th.latch) 0))

open Sys2Proof.Machine Sys2Proof.Claims Sys2Proof in
/-- The first entry of the matrix queue commits: clears, loads, stores and copies of granules, and the words of an mma; an entry that has
committed counts its operand bytes (R102, R364, R374, R376, R377). -/
def Obligations.MatrixEntriesCommit : Prop :=
  ∀ (s : State) (e : MEnt) (r : List MEnt) (g : Gang), let q := s.inp.n1
    (s.quill q).mx = e :: r → (∀ m, m ∈ r → m.seq ≠ e.seq) → (s.quill q).halted = false → s.gang e.gang = some g → g.ended = false →
    (∀ oa ob x y w, e.owed = some (oa, ob) → 0 < s.inp.n2 → s.inp.n2 ≤ (if s.inp.on then ob else oa) →
      (if s.inp.on then (mxAws s e).2 else (mxAws s e).1) = some (w, x, y) → (∃ z, s.gang x = some z ∧ z.ended = false) → scrPoisoned s x y 16 = false →
      let left := if s.inp.on then (oa, ob - s.inp.n2) else (oa - s.inp.n2, ob)
      Answers .matrixEntryCommit s (fun u => (u.quill q).mx = (if left = (0, 0) then r else { e with owed := some left } :: r) ∧ u.mem = s.mem ∧
        scrRead u x y 16 = arrived (awRead s x y) s.inp.n2)) ∧
    (e.owed = none → s.inp.n2 = 0 → g.accPoison = [] →
    (e.fn = 0 → Answers .matrixEntryCommit s (fun u => (u.quill q).mx = r ∧ u.mem = s.mem ∧
      ∀ w, accAt u e.gang w = if e.a / 4 ≤ w ∧ w < e.a / 4 + 256 * e.n then 0 else accAt s e.gang w)) ∧
    (e.fn = 1 → Answers .matrixEntryCommit s (fun u => (u.quill q).mx = r ∧ u.mem = s.mem ∧ (∀ w, accAt u e.gang w = accAt s e.gang w) ∧
      ∀ th, s.thread e.tid = some th → th.exited = false → e.d + 2 < th.v.length → ∃ x, u.thread e.tid = some x ∧
        ∀ w, w < 256 → e.mask.getLsbD (w % 96) = true → x.lane (e.d + w / 96) (w % 96) = accAt s e.gang (e.a / 4 + w))) ∧
    (e.fn = 2 → Answers .matrixEntryCommit s (fun u => (u.quill q).mx = r ∧ u.mem = s.mem ∧
      ∀ w, accAt u e.gang w = if e.a / 4 ≤ w ∧ w < e.a / 4 + 256 ∧ e.mask.getLsbD ((w - e.a / 4) % 96) = true
        then e.regs.getD (w - e.a / 4) 0 else accAt s e.gang w)) ∧
    (e.fn = 5 → Answers .matrixEntryCommit s (fun u => (u.quill q).mx = r ∧ u.mem = s.mem ∧
      ∀ w, accAt u e.gang w = if e.d / 4 ≤ w ∧ w < e.d / 4 + 256 * e.n then accAt s e.gang (e.a / 4 + (w - e.d / 4)) else accAt s e.gang w)) ∧
    (∀ a b, e.fn = 16 → mxReady s e = true → mxOperands s e = (a, b, none) → mxAws s e = (none, none) → fmtAcc e.fmt = 1 →
      fmtSpm e.fmt = 0 → slabA e.fmt = 64 → slabB e.fmt = 64 → e.d % 1024 = 0 → e.n ≤ 256 →
      Answers .matrixEntryCommit s (fun u => (u.quill q).mx = r ∧ u.mem = s.mem ∧
        ∀ i n, i < 8 → n < e.n → accAt u e.gang (e.d / 4 + n / 32 * 256 + 32 * i + n % 32) =
          BitVec.ofInt 32 (max (-2 ^ 31) (min (2 ^ 31 - 1) ((accAt s e.gang (e.d / 4 + n / 32 * 256 + 32 * i + n % 32)).toInt + mmaSum e.fmt a b i n))))))

open Sys2Proof.Machine Sys2Proof.Claims Sys2Proof in
/-- Engine commands start in issue order, commit and count their bytes; a fault stops the quill, and what was issued performs before the
frame is written; the frame's two answers (R102, R379, R385, R387, R407-R409). That an abort ends every gang of the quill is the model's
reading (log 21). -/
def Obligations.EnginesStartCountFaultAndAnswer : Prop :=
  (∀ (s : State) (pre r : List EngCmd) (c : EngCmd), let q := s.inp.n1
    ((s.quill q).stream s.inp.stream).cmds = pre ++ c :: r → (∀ x, x ∈ pre → x.started = true) → c.started = false →
    (∀ x, x ∈ pre ++ r → x.seq ≠ c.seq) → (s.quill q).halted = false → cmdReady s c = true →
    Answers .engineCommandStart s (fun u => ((u.quill q).stream s.inp.stream).cmds = pre ++ { c with started := true } :: r)) ∧
  (∀ (s : State) (c : EngCmd), let q := s.inp.n1
    ((s.quill q).stream s.inp.stream).cmds = [c] → (s.quill q).halted = false → 0 < s.inp.n2 → c.e + s.inp.n2 ≤ c.total → c.taint = [] →
    (∀ i, i < s.inp.n2 → posDone s q s.inp.stream c (c.e + i) = true) →
    (c.aw = none ∨ ∃ a g p x, c.aw = some a ∧ awPlace s c.gang (BitVec.ofNat 32 a) = .ok (g, p) ∧ s.gang g = some x ∧ x.ended = false ∧
      scrPoisoned s g p 16 = false) →
    Answers .engineBytesCommit s (fun u =>
      (c.e + s.inp.n2 = c.total → ((u.quill q).stream s.inp.stream).cmds = []) ∧
      (c.e + s.inp.n2 < c.total → ((u.quill q).stream s.inp.stream).cmds.map (fun x => x.e) = [c.e + s.inp.n2]) ∧
      (∀ a g p, c.aw = some a → awPlace s c.gang (BitVec.ofNat 32 a) = .ok (g, p) →
        scrRead u g p 16 = arrived (awRead s g p) s.inp.n2))) ∧
  (∀ (s : State) (c : EngCmd) (cl i : Nat) (addr : DWord) (y : Option Word) (pa : Option Nat), let q := s.inp.n1
    workCmd s q s.inp.stream s.inp.n2 s.inp.n3 = some c → c.wrote = [] → c.cmd ≠ 5 → (s.quill q).efs.stop = false → (s.quill q).fault = none →
    posFault s q c s.inp.n3 = some (cl, i, addr, y, pa) → cl ≠ 0 →
    Answers .engineFault s (fun u => (u.quill q).halted = true ∧ u.mem = s.mem ∧ (u.quill q).efs = (s.quill q).efs ∧
      (u.quill q).fault = some { stream := match s.inp.stream with | .copy => 0 | .gather => 1
                                 cls := cl, seq := c.seq % 65536, index := i, addr := addr
                                 syn := y.map (fun w => (w, c.vmid, c.asid)), pa := pa, tick := s.tick })) ∧
  (∀ (s : State) (c : EngCmd), let q := s.inp.n1
    workCmd s q s.inp.stream s.inp.n2 s.inp.n3 = some c → c.wrote = [] → (c.cmd = cmdGat ∨ c.cmd = cmdSct) → c.idx % 4 ≠ 0 →
    (s.quill q).efs.stop = false → (s.quill q).fault = none →
    Answers .engineFault s (fun u => (u.quill q).halted = true ∧ u.mem = s.mem ∧ ∃ f, (u.quill q).fault = some f ∧ f.cls = 0x0A ∧
      f.seq = c.seq % 65536 ∧ f.index = s.inp.n3 ∧ f.addr = BitVec.ofNat 64 ((c.idx + 4 * (s.inp.n3 / c.len)) % 2 ^ 32))) ∧
  (∀ (s : State) (f : EFault), let q := s.inp.n1
    (s.quill q).fault = some f →
    (issuedDone s q = false → exec .engineFault s = .next s) ∧
    (issuedDone s q = true → Answers .engineFault s (fun u => let e := (u.quill q).efs
      (u.quill q).fault = none ∧ (u.quill q).halted = (s.quill q).halted ∧ e.stop = true ∧ e.abort = false ∧ e.cls = f.cls ∧ e.stream = f.stream ∧
      e.seq = f.seq ∧ e.index = f.index ∧ e.addr = f.addr ∧ u.threads = s.threads ∧
      (∀ c, c ∈ (u.quill q).copy.cmds → c.buf = [] ∧ (c.cmd ≠ 5 → c.wrote = []))))) ∧
  (∀ s : State, let q := s.inp.n1
    (s.quill q).efs.stop = true →
    Answers .efstatResume s (fun u => (u.quill q).efs = { (s.quill q).efs with stop := false, abort := false } ∧
      (s.scrip.drain = [] → (u.quill q).halted = false) ∧ u.mem = s.mem ∧
      ∀ t, u.thread t = (s.thread t).map (fun y => if y.quill = q then { y with dlvd := [] } else y)) ∧
    Answers .efstatAbort s (fun u => (u.quill q).efs.stop = false ∧ (u.quill q).mx = (s.quill q).mx.filter (fun m => m.owed.isSome) ∧ (u.quill q).copy.cmds = [] ∧
      (u.quill q).gather.cmds = [] ∧
      ∀ g x t y, s.gang g = some x → x.quill = q → x.ended = false → t ∈ x.warps ++ x.nib.toList → u.thread t = some y → y.exited = true))

namespace Sys2Proof.Claims
open Sys2Proof.Machine

/-! ## The domain, the stores of the module and their errors -/

/-- The export window in effect admits requests (R46) and the permission map their source (R47). -/
def admitted (s : State) (r : Request) : Bool := (s.fab.allow.getD (r.src / 64) 0).getLsbD (r.src % 64)
def windowOpen (s : State) : Bool := s.fab.domexpEff.getLsbD 63
def windowSize (s : State) : Nat := s.fab.domexpEff.toNat % 2 ^ 31 * 65536

/-- An answer in the books of the destination. -/
def answered (s u : State) (r : Request) (c : Option Nat) (d : List (List Byte)) : Prop :=
  u.fab.answers = s.fab.answers ++ [(r.src, r.id, c, d)]

/-- What an arriving request does to memory: a load, a store, or an atomic (R174, R185). -/
def requestKind : ReqKind → OpKind
  | .load => .load
  | .store => .store
  | _ => .atomic .add false

/-- The translation of a request's first byte in the context of the window that is in effect (R46, R185). -/
def windowVmid (s : State) : Nat := s.fab.domexpEff.toNat / 2 ^ 32 % 64
def windowAsid (s : State) : Nat := s.fab.domexpEff.toNat / 2 ^ 38 % 1024

/-- A request lies whole within the window: `first` is the offset of its first access (R46, R174). -/
def InWindow (s : State) (r : Request) (first : Nat) : Prop :=
  (∃ a l, r.accs = a :: l ∧ a.off = first) ∧ ∀ a, a ∈ r.accs → first ≤ a.off ∧ a.off + a.size ≤ windowSize s

/-- A request of a thread is outstanding to a peer: `o` carries the access `a`, alone in its entry `p`. -/
structure Outstanding (s : State) (id : Nat) (o : OutReq) (t : Nat) (th : Thread) (p : MemOp) (a : Acc) : Prop where
  out : s.fab.out.find? (fun x => x.id == id) = some o
  far : o.peer ≠ s.fab.peer.toNat
  owner : ∃ l, o.owner = .thread t p.ser l
  here : s.thread t = some th
  lives : th.exited = false
  entry : p ∈ th.mq ∧ (∀ x, x ∈ th.mq → x.ser = p.ser → x = p)
  sole : p.accs = [a]
  carried : a.req = some id ∧ a.ph = .sent
  defined : a.und = []
  left : o.gone = true
  undelivered : p.dlv = false

/-- The books of the source without a request. -/
def closedReq (s u : State) (id : Nat) : Prop := u.fab.out = s.fab.out.filter (fun o => o.id != id)

/-- A thread's remote-fault record after a refusal (R160). -/
def recorded (old : Option RFault) (peer off cls : Nat) : RFault :=
  match old with
  | some x => { x with count := if x.count.toNat = 65535 then x.count else x.count + 1 }
  | none => { addr := BitVec.ofNat 64 (2 ^ 55 + peer % 512 * 2 ^ 46 + off % 2 ^ 46), peer := BitVec.ofNat 9 peer, cls := BitVec.ofNat 5 cls, count := 0 }

/-- The footprints that astcfmt may name (R135). -/
def footprint (w h : Nat) : Bool :=
  [(4, 4), (5, 4), (5, 5), (6, 5), (6, 6), (8, 5), (8, 6), (8, 8), (10, 5), (10, 6), (10, 8), (10, 10), (12, 10), (12, 12)].contains (w, h)

/-- Ticks since the refresh window of a bank last opened (R122). -/
def sinceOpen (t b : Nat) : Nat := (t + 134400 - (5600 * (b % 24) + 700 * (b / 24))) % 134400

end Sys2Proof.Claims

open Sys2Proof.Machine Sys2Proof.Claims Sys2Proof in
/-- A request that arrives from a peer is checked in the order of R185 and refused with the class of the first check that fails: the
permission map, the window, its bound, the translation and its permissions, the kind of memory, poison. One that has passed performs at its
home, an access at a time, and is answered once all have performed (R46, R47, R174, R180, R184, R185). That an atomic to the inkwell is an
inkwell write is the model's choice (log 66). -/
def Obligations.ArrivingRequestsAreCheckedAndPerformed : Prop :=
  ∀ s : State, let r := s.inp.req
    r.src ≠ s.fab.peer.toNat →
    ((∀ v, v ∈ s.fab.serving → ¬(v.req.src = r.src ∧ v.req.id = r.id)) → (∀ x, x ∈ s.fab.answers → ¬(x.1 = r.src ∧ x.2.1 = r.id)) →
      (admitted s r = false → Answers .domainRequestArrive s (fun u => answered s u r (some 0x12) [] ∧ u.mem = s.mem)) ∧
      (admitted s r = true → windowOpen s = false → Answers .domainRequestArrive s (fun u => answered s u r (some 0x10) [] ∧ u.mem = s.mem)) ∧
      (∀ a, a ∈ r.accs → admitted s r = true → windowOpen s = true → windowSize s < a.off + a.size →
        Answers .domainRequestArrive s (fun u => answered s u r (some 0x11) [] ∧ u.mem = s.mem)) ∧
      (∀ first, admitted s r = true → windowOpen s = true → InWindow s r first →
        (∀ t c lv st, hubTranslate s (windowVmid s) (windowAsid s) first false = (t, .error (c, lv, st)) → c ≠ 0 →
          Answers .domainRequestArrive s (fun u => answered s u r (some c) [] ∧ u.fab.serving = s.fab.serving)) ∧
        (∀ l pa, tlbFind s 8 (windowVmid s) (windowAsid s) first = some (l, pa) →
          (∀ c, refusedClass (requestKind r.kind) .user l = some c →
            Answers .domainRequestArrive s (fun u => answered s u r (some c) [] ∧ u.fab.serving = s.fab.serving)) ∧
          (refusedClass (requestKind r.kind) .user l = none →
            (∀ a n, a ∈ r.accs → refusedKind (requestKind r.kind) l.kind a.size = some n → Answers .domainRequestArrive s (fun u =>
              answered s u r (some (if n = 0x16 then 0x18 else 0x17)) [] ∧ u.fab.serving = s.fab.serving ∧ u.mem = s.mem)) ∧
            ((∀ a, a ∈ r.accs → refusedKind (requestKind r.kind) l.kind a.size = none) → l.kind = 0 →
              (∀ a, a ∈ r.accs → r.kind = .load → poisoned s (pa + a.off - first) a.size = true → Answers .domainRequestArrive s (fun u =>
                answered s u r (some 0x14) [] ∧ u.fab.serving = s.fab.serving)) ∧
              (sound s → (∀ a, a ∈ r.accs → a.bad = false) → Answers .domainRequestArrive s (fun u =>
                u.mem = s.mem ∧ u.fab.answers = s.fab.answers ∧ u.fab.serving = s.fab.serving ++
                  [{ req := r, kind := 0, vmid := windowVmid s, asid := windowAsid s
                     parts := r.accs.zipIdx.map (fun x => { acc := x.2, first := 0, pa := pa + x.1.off - first, size := x.1.size, data := x.1.data,
                                                            got := none }) }]))))))) ∧
    (∀ v rest a p, s.fab.serving = v :: rest → v.req.src = r.src → v.req.id = r.id → v.req.accs = [a] → v.parts = [p] → p.acc = 0 → p.first = 0 →
      p.got = none → v.kind = 0 → s.inp.n4 = 0 → sound s → bankShut s p.pa = false → (∀ w, w ∈ rest → ¬(w.req.src = r.src ∧ w.req.id = r.id)) →
      (v.req.kind = .load → Answers .domainRequestArrive s (fun u =>
        answered s u v.req none [s.bytes p.pa p.size] ∧ u.mem = s.mem ∧ u.fab.serving = rest)) ∧
      (v.req.kind = .store → Answers .domainRequestArrive s (fun u =>
        answered s u v.req none [[]] ∧ u.mem = Memory.write s.mem p.pa p.data ∧ u.fab.serving = rest)) ∧
      (∀ op wide, v.req.kind = .atomic op wide → p.size = (if wide then 8 else 4) → p.data.length = 2 * p.size →
        let n := if wide then 64 else 32
        Answers .domainRequestArrive s (fun u => answered s u v.req none [s.bytes p.pa p.size] ∧ u.fab.serving = rest ∧ u.mem = Memory.write s.mem p.pa
          (toBytes p.size (atomValue op n (BitVec.ofNat n (ofBytes (s.bytes p.pa p.size))) (BitVec.ofNat n (ofBytes (p.data.take p.size)))
            (BitVec.ofNat n (ofBytes (p.data.drop p.size)))).toNat)))) ∧
    (∀ v rest pre post p bs, s.fab.serving = v :: rest → v.req.src = r.src → v.req.id = r.id → v.parts = pre ++ p :: post → s.inp.n4 = pre.length →
      p.got = none → v.kind = 0 → sound s → bankShut s p.pa = false → (∀ w, w ∈ rest → ¬(w.req.src = r.src ∧ w.req.id = r.id)) →
      (∀ y, y ∈ pre ++ post → ¬(y.acc = p.acc ∧ y.first = p.first)) → (∀ y, y ∈ pre ++ post → v.req.kind = .load → y.pa ≠ p.pa) →
      (v.req.kind = .load ∧ bs = s.bytes p.pa p.size ∨ v.req.kind = .store ∧ bs = []) →
      let v' := { v with parts := pre ++ { p with got := some bs } :: post }
      let after := if v.req.kind = .store then Memory.write s.mem p.pa p.data else s.mem
      ((∃ y, y ∈ pre ++ post ∧ y.got = none) → Answers .domainRequestArrive s (fun u =>
        u.mem = after ∧ u.fab.serving = v' :: rest ∧ u.fab.answers = s.fab.answers)) ∧
      ((∀ y, y ∈ pre ++ post → y.got ≠ none) → Answers .domainRequestArrive s (fun u =>
        u.mem = after ∧ u.fab.serving = rest ∧ answered s u v.req none (v.req.accs.zipIdx.map (fun a =>
          (v'.parts.filter (fun y => y.acc == a.2)).flatMap (fun y => y.got.getD []))))))

open Sys2Proof.Machine Sys2Proof.Claims Sys2Proof in
/-- Acknowledgements, responses, refusals and time-outs settle the requests of their source (R160, R183, R186, R187). -/
def Obligations.AnswersSettleTheirRequests : Prop :=
  ∀ (s : State) (id t : Nat) (o : OutReq) (th : Thread) (p : MemOp) (a : Acc), Outstanding s id o t th p a →
    (o.req.kind = .store → p.kind = .store → s.inp.nums = [id] → Answers .domainStoreAcknowledge s (fun u => closedReq s u id ∧ u.mem = s.mem ∧
      ∃ x, u.thread t = some x ∧ ∀ y b, y ∈ x.mq → b ∈ y.accs → y.ser = p.ser → b.ph = .acked)) ∧
    (∀ (sz : BitVec 3) (d : Nat) (bs : List Byte), o.req.kind = .load → p.kind = .load → s.inp.n1 = id → s.inp.parts = [bs] → s.inp.nums = [] → bs.length = a.size →
      p.fin = .sload sz.toNat d → a.size = byteSize sz → a.lane = 0 → a.poison = false → d + (loadedWords sz bs).length ≤ th.s.length →
      th.s.length ≤ 256 → Answers .domainResponseReceive s (fun u => closedReq s u id ∧ u.mem = s.mem ∧ ∃ x, u.thread t = some x ∧
        ∀ i w, (loadedWords sz bs)[i]? = some w → x.s[d + i]? = some { val := w, poison := false })) ∧
    (∀ b c, o.req.accs = [b] → s.inp.n1 = id → s.inp.n2 = c → c < 32 → Answers .negativeAcknowledge s (fun u => closedReq s u id ∧ u.mem = s.mem ∧
      ∃ x, u.thread t = some x ∧ x.rfault = some (recorded th.rfault o.peer b.off c))) ∧
    (∀ b, o.req.accs = [b] → s.inp.n1 = id → o.sentAt + s.fab.domto.toNat * 4096 ≤ s.tick → Answers .responseTimeout s (fun u =>
      closedReq s u id ∧ u.mem = s.mem ∧ u.fab.expired = s.fab.expired ++ [o] ∧
      ∃ x, u.thread t = some x ∧ x.rfault = some (recorded th.rfault o.peer b.off 0x16)))

open Sys2Proof.Machine Sys2Proof.Claims Sys2Proof in
/-- Replays, lost links, stopped lanes, routes and the export window (R46, R85, R177, R179, R189-R192). That a lost link keeps its speed,
width, lane map and partner is the model's reading (log 87). -/
def Obligations.LinksRoutesAndTheWindowChange : Prop :=
  ∀ s : State, let n := s.inp.n1
    (∀ p, s.fab.ports[n]? = some p → n < 18 → p.state = 2 →
      Answers .linkReplay s (fun u => u.fab.ports[n]? = some { p with replays := min 65535 (p.replays + 1) } ∧ u.fab.route = s.fab.route ∧
        u.fab.out = s.fab.out ∧ u.threads = s.threads) ∧
      (FMap.sorted s.fab.route = true → Answers .linkLost s (fun u => u.fab.ports[n]? = some { p with state := 3, stopped := [] } ∧
        (∀ o, o ∈ u.fab.out → o.port ≠ some n) ∧
        ∀ peer v, s.fab.route.find peer = some v → ∃ w, u.fab.route.find peer = some w ∧
          w.getLsbD 63 = v.getLsbD 63 ∧ ∀ i, i < 18 → w.getLsbD i = (decide (i ≠ n) && v.getLsbD i)))) ∧
    (∀ p, s.fab.ports[n]? = some p → n < 18 → s.inp.n2 < 4 →
      (s.inp.n2 ∉ p.stopped → Answers .virtualLaneStop s (fun u => u.fab.ports[n]? = some { p with stopped := p.stopped ++ [s.inp.n2] })) ∧
      Answers .virtualLaneResume s (fun u => u.fab.ports[n]? = some { p with stopped := p.stopped.filter (fun v => v != s.inp.n2) })) ∧
    (n < 512 → Answers .domrouteWrite s (fun u => u.fab.route.find n = some (s.inp.v1 &&& 0x8000_0000_0003_FFFF#64) ∧
      (∀ m, m ≠ n → u.fab.route.find m = s.fab.route.find m) ∧
      (∀ l, l < 64 → (∃ o, o ∈ s.fab.out ∧ o.peer = n ∧ o.lane = l) → routeOf u n l = routeOf s n l ∧
        ∃ v, (n, l, v) ∈ u.fab.oldRoute ∧ ((n, l, v) ∈ s.fab.oldRoute ∨ v = (s.fab.route.find n).getD 0)) ∧
      (∀ r, r ∈ s.fab.oldRoute → r ∈ u.fab.oldRoute))) ∧
    ((∀ o, o ∈ s.fab.out → ¬(o.peer = n ∧ o.lane = s.inp.n2)) → Answers .routeLaneSwitch s (fun u =>
      u.fab.oldRoute = s.fab.oldRoute.filter (fun r => !(r.1 == n && r.2.1 == s.inp.n2)) ∧ u.fab.route = s.fab.route)) ∧
    Answers .domexpWrite s (fun u => u.fab.domexpEff = s.fab.domexpEff ∧
      u.fab.domexp.extractLsb' 31 33 = (s.inp.v1 &&& 0x8000_FFFF_7FFF_FFFF#64).extractLsb' 31 33 ∧
      u.fab.domexp.toNat % 2 ^ 31 = min 0x4000_0000 (s.inp.v1.toNat % 2 ^ 31))

namespace Sys2Proof.Claims
open Sys2Proof.Machine

/-- The hops from this device to the time source over a port, less one: its link is up, and its partner is the source or knows a path
(R195). -/
def hopsOver (f : Fabric) (n h : Nat) : Prop :=
  ∃ p, f.ports[n]? = some p ∧ n < 18 ∧ p.state = 2 ∧ (p.ppeer = f.tsource ∧ h = 0 ∨ p.ppeer ≠ f.tsource ∧ h ≠ 0 ∧ f.hops[n]? = some h)

/-- The port that carries time and whether the path is lost, by what the links reach (R195, R196). -/
structure TimeTaken (before f : Fabric) : Prop where
  source : f.tsource = f.peer → f.tport = 0x1F ∧ f.lost = false
  fewest : f.tsource ≠ f.peer → ∀ n h, hopsOver f n h → (∀ m k, hopsOver f m k → h ≤ k ∧ (k = h → n ≤ m)) → f.tport = BitVec.ofNat 5 n ∧ f.lost = false
  none' : f.tsource ≠ f.peer → (∀ n h, ¬hopsOver f n h) → f.tport = before.tport ∧ f.lost = true

end Sys2Proof.Claims

open Sys2Proof.Machine Sys2Proof.Claims Sys2Proof in
/-- The tick exchange holds a counter that leads and lets one that lags skip forward (R17, R18, R195); the time source is the
lowest-numbered device that the links reach, time comes over the port with the fewest hops to it, and the loss of every path is kept
(R195, R196). Halving an odd difference toward zero is the model's choice (log 76), and so is the port that a lost path leaves
(log 77). -/
def Obligations.TheTickExchangeAlignsTheCounter : Prop :=
  ∀ s : State,
    (s.fab.tport ≠ 0x1F → s.fab.lost = false →
      Answers .tickExchange s (fun u => u.fab.exch = some (s.inp.v1, s.ticks, s.ticks) ∧ u.tick = s.tick)) ∧
    (∀ t1 t2 t3, s.fab.exch = some (t1, t2, t3) → s.inp.v1 = t1 →
      let d : Int := ((t2 - t1).toInt - (s.inp.v2 - t3).toInt).tdiv 2
      Answers .tickExchangeClose s (fun u => u.fab.exch = none ∧
        u.fab.lastadj.toInt = max (-32768) (min 32767 d) ∧ u.tick = s.tick ∧ u.hold = d.toNat ∧ u.skip = (-d).toNat)) ∧
    (∀ dt, 0 < dt → (passTime s dt).tick = s.tick + (dt - s.hold) + s.skip ∧ (passTime s dt).hold = s.hold - dt ∧ (passTime s dt).skip = 0 ∧
      (passTime s dt).cycles = s.cycles + dt) ∧
    Answers .timeSourceLost s (fun u => u.tick = s.tick ∧ u.threads = s.threads ∧ u.fab.hops = s.inp.nums ∧ TimeTaken s.fab u.fab ∧
      (s.inp.nums ≠ [] → (∀ h, h ∈ s.inp.nums → h ≠ 0) → u.fab.tsource = BitVec.ofNat 9
        ((s.fab.ports.filter (fun p => p.state == 2)).foldl (fun a p => min a p.ppeer.toNat) (min s.fab.peer.toNat s.inp.n1))))

open Sys2Proof.Machine Sys2Proof.Claims Sys2Proof in
/-- Staging ownership, the presentation reservation, ASTC formats and the refresh windows of the inkwell (R113, R122, R123, R132,
R133, R135). -/
def Obligations.StagingReservationFormatsAndWindowsChange : Prop :=
  ∀ s : State, let n := s.inp.n1
    (n < 192 → s.inp.n2 < 8 → (∀ e, e ∈ s.grids → e.2.done = true) → (∀ e, e ∈ s.scrip.q → e.2.exec = .idle) →
      (∀ ws, s.st.stgown.find n = some ws → ws.length = 8) →
      (match s.st.stgown.find n with | some ws => ws.getD s.inp.n2 0 | none => 0) ≠ (s.inp.v1.setWidth 32 &&& 0x83FF_3F00#32) →
      Answers .stagingOwnershipChange s (fun u => ∃ ws, u.st.stgown.find n = some ws ∧
        ws[s.inp.n2]? = some (s.inp.v1.setWidth 32 &&& 0x83FF_3F00#32) ∧
        (∀ m o b, u.st.staging.find n = some m → (o, b) ∈ m → o / 524288 ≠ s.inp.n2) ∧
        (∀ k, k ≠ n → u.st.staging.find k = s.st.staging.find k))) ∧
    (n < 64 → Answers .chrsvWrite s (fun u => ∃ x, u.st.chrsv.find n = some x ∧ x.share = min 16 (s.inp.v1.toNat % 32) ∧
      x.inEffect = (match s.st.chrsv.find n with | some y => y.inEffect | none => 0))) ∧
    (∀ x, n < 64 → s.st.chrsv.find n = some x → s.inp.n2 ≤ x.inEffect → Answers .reservationFrameBoundary s (fun u =>
      u.st.chrsv.find n = some { x with lent := x.lent + BitVec.ofNat 32 s.inp.n2, inEffect := x.share, frames := x.frames + 1 })) ∧
    (n < 6 → s.st.astc.length = 6 → footprint (s.inp.v1.toNat % 16) (s.inp.v1.toNat / 16 % 16) = true → Answers .astcfmtWrite s (fun u =>
      u.st.astc[n]? = some (s.inp.v1 &&& 0x80FF#64) ∧ (∀ k, k ≠ n → u.st.astc[k]? = s.st.astc[k]?) ∧
      ∀ q x l b, u.quills.find q = some x → (l, b) ∈ x.cq → l < 2 ^ 56)) ∧
    (n < 192 → sinceOpen s.tick n < 1076 → n ∉ s.st.windows → Answers .inkwellRefreshWindowOpen s (fun u => u.st.windows = s.st.windows ++ [n])) ∧
    (1076 ≤ sinceOpen s.tick n → Answers .inkwellRefreshWindowClose s (fun u => n ∉ u.st.windows ∧
      ∀ m, m ≠ n → (m ∈ u.st.windows ↔ m ∈ s.st.windows)))

open Sys2Proof.Machine Sys2Proof.Claims Sys2Proof in
/-- Uncorrectable errors poison what they upset, corrected ones change no data; scrubs poison, and a hypervisor clears regions
(R117, R125, R129, R130). -/
def Obligations.ErrorsPoisonWhatTheyUpset : Prop :=
  ∀ s : State,
    (s.inp.n1 < 64 → s.inp.n2 < 2 ^ 32 → s.inp.n2 % 64 = 0 → Answers .gddrScrub s (fun u => poisoned u (paOf s.inp.n1 s.inp.n2) 1 = true ∧ u.threads = s.threads)) ∧
    (∀ e, ((chEntries s s.inp.n1).filter (fun e => decide (128 < e.2)))[s.inp.n2]? = some e → Answers .poisonTableClear s (fun u =>
      e ∉ u.st.poison ∧ u.mem = s.mem ∧ ∀ f, f ≠ e → (f ∈ u.st.poison ↔ f ∈ s.st.poison))) ∧
    (s.inp.on = true → Answers .softError s (fun u => u.threads = s.threads ∧ u.gangs = s.gangs ∧ u.quills = s.quills ∧ u.st.poison = s.st.poison)) ∧
    (s.inp.on = false →
      (∀ t r L th, s.inp.cell = .vreg t r L → s.thread t = some th → r < th.v.length → L < 96 → Answers .softError s (fun u =>
        ∃ x, u.thread t = some x ∧ (x.vreg r).poison.getLsbD L = true ∧ u.mem = s.mem)) ∧
      (∀ t r th, s.inp.cell = .sreg t r → s.thread t = some th → r < th.s.length → Answers .softError s (fun u =>
        ∃ x, u.thread t = some x ∧ (x.s[r]?.map (fun y => y.poison)) = some true ∧ u.mem = s.mem)) ∧
      (∀ t k i th, s.inp.cell = .pred t k i → s.thread t = some th → 1 ≤ k → k < th.k.length → i < 3 → Answers .softError s (fun u =>
        ∃ x, u.thread t = some x ∧ (x.kpoison k).getLsbD i = true)) ∧
      (∀ g w x, s.inp.cell = .scratch g w → s.gang g = some x → Answers .softError s (fun u =>
        ∃ y, u.gang g = some y ∧ w ∈ y.scrPoison ∧ y.scr = x.scr)) ∧
      (∀ g w x, s.inp.cell = .acc g w → s.gang g = some x → Answers .softError s (fun u =>
        ∃ y, u.gang g = some y ∧ w ∈ y.accPoison ∧ y.acc = x.acc)) ∧
      (∀ q l, s.inp.cell = .l1 q l → Answers .softError s (fun u => (u.quill q).cq.find l = none ∧ u.mem = s.mem)) ∧
      (∀ n, s.inp.cell = .gddr n ∨ s.inp.cell = .l2Dirty n → n * 64 < 2 ^ 38 → Answers .softError s (fun u => poisoned u (n * 64) 1 = true)) ∧
      (∀ k n, s.inp.cell = .staging k n → Answers .softError s (fun u => (k, n) ∈ u.st.stgPoison)) ∧
      (∀ l, s.inp.cell = .inkwell l → kindOf (l * 128) = some 1 → Answers .softError s (fun u => poisoned u (l * 128) 1 = true)))

namespace Sys2Proof.Claims
open Sys2Proof.Machine

/-! ## Placement, pre-emption, queues, launch, Ductus, power, the host port -/

/-- A warp as launch leaves it (R89, R90, R93, R95, R205, R208). -/
structure Launched (x : Grid) (c : Nat × Nat × Nat) (q w : Nat) (th : Thread) : Prop where
  place : th.quill = q ∧ th.warp = w ∧ th.nib = false ∧ th.mode = .user
  start : th.pcH = BitVec.ofNat 16 x.ker.handle ∧ th.pcO = x.ker.entry
  files : th.v.length = x.ker.vregs ∧ th.s.length = x.ker.sregs
  vectors : ∀ n L, n < x.ker.vregs → L < 96 → th.lane n L = BitVec.ofNat 32 (0x7FA0_0000 + n)
  tagged : ∀ n, n < x.ker.vregs → (th.vreg n).tag = true ∧ (th.vreg n).poison = 0
  predicates : ∀ n, n < 8 → th.kbits n = if n = 0 then BitVec.allOnes 96 else 0
  scalars : ∀ i v, [BitVec.allOnes 32, BitVec.allOnes 32, BitVec.allOnes 32, BitVec.ofNat 32 c.1, BitVec.ofNat 32 c.2.1,
    BitVec.ofNat 32 c.2.2, BitVec.ofNat 32 (x.ker.warps * 256 + w), lo32 x.op.arg, hi32 x.op.arg][i]? = some v → i < x.ker.sregs →
    th.s[i]? = some { val := v, poison := false }
  others : ∀ i, 9 ≤ i → i < x.ker.sregs → th.s[i]? = some { val := 0, poison := false }
  cleared : th.fstat = 0 ∧ th.loops = [] ∧ th.sup = [] ∧ th.hyp = [] ∧ th.mq = [] ∧ th.wait = .none ∧ th.exited = false

/-- A partition has stopped issue for a pre-emption; of its threads only the loads that have taken nothing start afresh (R410, R173). -/
def stopped (s u : State) (p : Nat) : Prop :=
  p ∈ u.scrip.drain ∧ (∀ e, e ∈ s.gangs → partOf s e.2.quill = p → (u.quill e.2.quill).halted = true) ∧
  (∀ t th, s.thread t = some th → u.thread t = some th ∨ u.thread t = some (abandonLoads th)) ∧ u.mem = s.mem

/-- Where the hub's TLB places consecutive bytes of a queue's context, with the rights of an access and one of some kinds of memory;
their bank is not in its refresh window. -/
def AtHub (s : State) (q va n : Nat) (acc : AK) (kinds : List Nat) (pa : Nat) : Prop :=
  va + n ≤ 2 ^ 55 ∧ ∀ i, i < n → bankShut s (pa + i) = false ∧ ∃ l, tlbFind s 8 (s.queue q).vmid (s.queue q).asid (va + i) = some (l, pa + i) ∧
    permBad acc .sup l = none ∧ l.kind ∈ kinds

/-- A packet stands at the head of a queue that executes. -/
structure AtHead (s : State) (q : Nat) (p : Packet) (r : List Packet) (k : Nat) : Prop where
  here : (s.queue q).cur = none ∧ (s.queue q).pre = p :: r
  runs : (s.queue q).en = true ∧ (s.queue q).disabling = false ∧ (s.queue q).state ≠ 6
  kind : p.kind = k

/-- A packet's reserved bits are zero (R419, R424). -/
def allClean (p : Packet) : Prop := p.clean = true ∧ p.tailClean = true

/-- The row of a packet of a kind. -/
def packetRow (p : Packet) (k : Nat) : Instr :=
  match k with
  | 0 => .noopPacket
  | 1 => .launchPacket
  | 2 => .waitPacket
  | 3 => if p.word 24 % 4 = 1 then .signalSubtract else if p.word 24 % 4 = 2 then .signalAdd else .signalSet
  | 4 => .copyPacket
  | 5 => .inkwellFillPacket
  | 6 => .fetchFence
  | _ => .reservedPacket

/-- What a queue does with its packet. -/
def doing (u : State) (q : Nat) (p : Packet) (r : List Packet) (e : QExec) : Prop :=
  (u.queue q).cur = some p ∧ (u.queue q).pre = r ∧ (u.queue q).exec = e

/-- The comparison of a wait (R427). -/
def waitTrue (c : Nat) (x v : DWord) : Prop :=
  match c with
  | 0 => x = v
  | 1 => x ≠ v
  | 2 => x.slt v = true
  | _ => v.sle x = true

/-- An operand whose address is canonical. -/
def fair (va : Nat) : Prop := va < 2 ^ 55

/-- The row and the new value of a signal packet's operation (R428). -/
def signalRow (op : Nat) : Instr := if op = 0 then .signalSet else if op = 1 then .signalSubtract else .signalAdd
def signalValue (op : Nat) (x v : DWord) : DWord := if op = 0 then v else if op = 1 then x - v else x + v

/-- Memory once the value and the status of a packet are written (R423). -/
def statusMem (s : State) (pr val status : Nat) : List Host.Cell := Memory.write s.mem (pr + 48) (toBytes 8 val ++ toBytes 8 status)

/-- A signal does not share bytes with the status of the packet that changes it. -/
def clearOf (pa pr : Nat) : Prop := pa + 8 ≤ pr + 48 ∨ pr + 64 ≤ pa

/-- No other queue is between the read and the write of a signal of the host kind (R428). -/
def noHalf (s : State) (q pa : Nat) : Prop := ∀ e st w, e ∈ s.scrip.q → e.1 ≠ q → e.2.exec = .updating st (some w) → w.1 ≠ pa

/-- A queue whose thread has read a slot of a ring in GDDR 7: a valid packet is taken whole, at another the queue pauses (R420, R421). -/
def slotRead (s : State) (x : Queue) (i pa : Nat) : Queue :=
  if (s.byte pa).getLsbD 0 = true then
    { x with pre := x.pre ++ [{ index := i, bytes := s.bytes pa 64 }], head := [], fetched := x.fetched + 1 }
  else { x with paused := true, lastPoll := s.tick }

/-- A queue whose thread has read the next eight bytes of a slot in host memory: the first eight, and if they show a valid packet those
up to byte 47 (R420). -/
def hostSlotRead (s : State) (x : Queue) (i pa : Nat) : Queue :=
  let bs := x.head ++ s.bytes (pa + x.head.length) 8
  if (bs.headD 0).getLsbD 0 = false then { x with paused := true, lastPoll := s.tick }
  else if bs.length < 48 then { x with head := bs }
  else { x with pre := x.pre ++ [{ index := i, bytes := bs }], head := [], fetched := x.fetched + 1 }

end Sys2Proof.Claims

open Sys2Proof.Machine Sys2Proof.Claims Sys2Proof in
/-- Gangs are placed in their launch state and released; partitions stop, are saved, spilled, filled and resumed (R204-R218, R223,
R410, R411, R434-R438). -/
def Obligations.GangsArePlacedPreemptedAndReleased : Prop :=
  (∀ (s s1 : State) (g : Grid) (q : Nat) (a : Alloc), s.grids.find s.inp.n1 = some g → g.left ≠ 0 → (g.op.resident = true → g.left = 1) →
    mayServe s s.inp.n1 g = true → g.ker.members = 0 → findPlace s g = (s1, some (none, [(q, a)])) → mustRaise s1 g.ker (dieOf q) = false →
    Answers (if g.op.resident then .residentGridPlace else .gangPlace) s (fun u => u.mem = s.mem ∧
      (∃ x, u.gang s.scrip.nextGang = some x ∧ x.quill = q ∧ x.index = g.next ∧ x.grid = s.inp.n1 ∧ x.slots = a.slots ∧ x.ended = false ∧
        x.warps = (List.range g.ker.warps).map (fun w => s.scrip.nextThread + w) ∧
        (∀ p n, scrRead u s.scrip.nextGang p n = List.replicate n 0 ∧ scrPoisoned u s.scrip.nextGang p n = false) ∧
        (∀ i, accGet x i = 0) ∧ x.accPoison = []) ∧
      (∀ w, w < g.ker.warps → ∃ th, u.thread (s.scrip.nextThread + w) = some th ∧ Launched g (walkAt g.op g.next) q w th) ∧
      (∃ g', u.grids.find s.inp.n1 = some g' ∧ g'.next = g.next + 1 ∧ g'.lastQuill = some q))) ∧
  (∀ (s : State) (g : Gang), s.gang s.inp.n1 = some g → g.ended = true → landing s s.inp.n1 g = false → g.fgang = none →
    Answers .allocationRelease s (fun u => u.gang s.inp.n1 = none ∧ u.mem = s.mem ∧ (∀ i, i ≠ s.inp.n1 → u.gang i = s.gang i) ∧
      (∀ e, e ∈ u.threads ↔ e ∈ s.threads ∧ e.1 ∉ g.warps ++ g.nib.toList))) ∧
  (∀ (s : State) (g : Gang) (f : Nat), s.gang s.inp.n1 = some g → g.fgang = some f →
    ((∀ e, e ∈ s.gangs → e.2.fgang = some f → e.2.ended = true ∧ landing s e.1 e.2 = false) → Answers .allocationRelease s (fun u =>
      u.mem = s.mem ∧ u.fgangs = FMap.del s.fgangs f ∧
      (∀ e, e ∈ s.gangs → e.2.fgang = some f → e ∉ u.gangs ∧ ∀ w, w ∈ e.2.warps ++ e.2.nib.toList → u.thread w = none))) ∧
    (∀ e, e ∈ s.gangs → e.2.fgang = some f → e.2.ended = false → exec .allocationRelease s = .next s)) ∧
  (∀ (s : State) (g : Grid) (t p : Nat), s.grids.find s.inp.n1 = some g → g.since = some t → (s.queue g.queue).ctl.getLsbD 62 = true →
    g.left ≠ 0 → s.scrip.ptcfg.toNat / 2 ^ 32 % 65536 * 4096 < s.tick - t → s.scrip.drain = [] → fitsNow s s.inp.n1 = false →
    choosePart s s.inp.n1 g = some p → Answers .preemptDelayExpiry s (fun u => stopped s u p)) ∧
  (∀ s : State, let p := s.inp.n1
    p ∈ s.scrip.drain → partStopped s p = false → shadowHeld s p = false → (∀ q, q ∈ partQuills s p → quillDrained s q = true) →
    Answers .shadowExchange s (fun u => u.mem = s.mem ∧ p ∉ u.scrip.drain ∧
      (∀ e, e ∈ u.gangs ↔ e ∈ s.gangs ∧ partOf s e.2.quill ≠ p) ∧ (∀ e, e ∈ u.threads ↔ e ∈ s.threads ∧ partOf s e.2.quill ≠ p) ∧
      ∃ sv, u.scrip.saved = s.scrip.saved ++ [sv] ∧ sv.part = p ∧ sv.shadow = true ∧
        ∀ e, e ∈ s.gangs → partOf s e.2.quill = p → ∃ y, y ∈ sv.quills ∧ (e.1, { e.2 with pins := [] }) ∈ y.gangs)) ∧
  (∀ (s : State) (x : Saved), s.scrip.saved[s.inp.n2]? = some x → x.shadow = true → x.part = s.inp.n1 → partStopped s s.inp.n1 = false →
    (∀ j y, j < s.inp.n2 → s.scrip.saved[j]? = some y → y.shadow = false ∨ y.part ≠ s.inp.n1) →
    Answers .stateSpill s (fun u => u.scrip.saved = s.scrip.saved.set s.inp.n2 { x with shadow := false } ∧ u.gangs = s.gangs ∧ u.mem = s.mem)) ∧
  (∀ (s : State) (x : Saved), s.scrip.saved[s.inp.n1]? = some x → x.shadow = false → partStopped s s.inp.n2 = false → s.inp.n2 ∈ emptyParts s → shadowHeld s s.inp.n2 = false →
    goesFirst s s.inp.n1 x = true → Answers .stateFill s (fun u =>
      u.scrip.saved = s.scrip.saved.set s.inp.n1 { x with shadow := true, part := s.inp.n2 } ∧ u.gangs = s.gangs ∧ u.mem = s.mem)) ∧
  (∀ (s : State) (x : Saved), s.scrip.saved[s.inp.n1]? = some x → x.shadow = true → x.part = s.inp.n2 → partStopped s s.inp.n2 = false → s.inp.n2 ∈ emptyParts s →
    goesFirst s s.inp.n1 x = true → x.residents s = [] → x.level ≤ dieLevel s (dieOf (8 * partBase s s.inp.n2)) →
    (x.quills.flatMap (fun y => y.gangs.map (fun e => e.1))).Nodup → (x.quills.flatMap (fun y => y.threads.map (fun e => e.1))).Nodup →
    Answers .partitionResume s (fun u => u.mem = s.mem ∧ u.scrip.saved = s.scrip.saved.eraseIdx s.inp.n1 ∧
      ∀ j y, x.quills[j]? = some y → j < 8 * partFolios s → let q := 8 * partBase s s.inp.n2 + j
        (∀ i g, (i, g) ∈ y.gangs → u.gang i = some { g with quill := q }) ∧
        (s.scrip.ptwant = [] → ∀ t th, (t, th) ∈ y.threads → u.thread t = some { th with quill := q, segFresh := true }))) ∧
  (∀ s : State, (partStopped s s.inp.n1 = true → exec .shadowExchange s = .next s ∧ exec .stateSpill s = .next s) ∧
    (partStopped s s.inp.n2 = true → exec .stateFill s = .next s ∧ exec .partitionResume s = .next s)) ∧
  (∀ (s : State) (i : Nat) (g : Gang), (i, g) ∈ s.gangs → g.ended = false → s.scrip.ptbusy = false → partOf s g.quill ∉ s.scrip.drain →
    (∀ p, p ∈ togetherWith s [partOf s g.quill] → shadowHeld s p = false) →
    (partOf s g.quill = s.inp.n1 % 128 → s.inp.n1 % 128 < 96 / partFolios s →
      Answers .ptreqPartition s (fun u => stopped s u (partOf s g.quill) ∧ u.scrip.ptbusy = true)) ∧
    (∀ x, s.grids.find g.grid = some x → x.queue = s.inp.n1 % 32 →
      Answers .ptreqQueue s (fun u => stopped s u (partOf s g.quill) ∧ u.scrip.ptbusy = true)))

open Sys2Proof.Machine Sys2Proof.Claims Sys2Proof in
/-- Queues are enabled, woken and disabled; packets are fetched and retired; no-ops, fences, packets of reserved kinds and packets with
a reserved bit set do nothing else (R417-R426). That the hub reads and writes with supervisor rights is the model's choice (log 14), and
so is the order of the reads of a slot in host memory (log 60). -/
def Obligations.PacketsAreFetchedExecutedAndRetired : Prop :=
  ∀ (s : State), let q := s.inp.n1
    let x := s.queue q
    (q < 32 → bootStage s < 5 → exec .qctlEnable s = .next s) ∧
    (q < 32 → 5 ≤ bootStage s → x.en = false → x.asid ≠ 0 → x.ring % (64 * x.slots) = 0 → ctxValid s x.vmid x.asid = true → x.stg = 0 →
      (∀ k ws, s.st.stgown.find k = some ws → ws.length = 8) → Answers .qctlEnable s (fun u => (u.queue q).en = true ∧ (u.queue q).state = 1 ∧
        (u.queue q).pre = [] ∧ (u.queue q).cur = none ∧ (u.queue q).exec = .idle ∧ (u.queue q).ctl = x.ctl ∧ u.mem = s.mem)) ∧
    (q < 32 → x.en = true → (x.cur = none ∨ x.state = 6 → Answers .qctlDisable s (fun u =>
        (u.queue q).en = false ∧ (u.queue q).state = 0 ∧ u.mem = s.mem)) ∧
      (∀ p, x.cur = some p → x.state ≠ 6 → Answers .qctlDisable s (fun u => (u.queue q).en = true ∧ (u.queue q).state = 5 ∧
        (u.queue q).pre = [] ∧ (u.queue q).cur = some p ∧
        (u.queue q).exec = (match x.exec with | .waiting _ _ => .retiring 7 0 0 0 | e => e)))) ∧
    (q < 32 → x.en = true → x.state ≠ 6 → exec .qnotify s = .next (s.setQueue q { x with paused := false, lastEval := 0 })) ∧
    (sound s → mayFetch x = true →
      let i := (x.retired.toNat + x.ahead) % x.slots
      ∀ pa, (AtHub s q (x.ring + 64 * i) 48 .atomic [0] pa →
          (x.paused = false → Answers .packetFetch s (fun u => u = s.setQueue q (slotRead s x i pa))) ∧
          (x.paused = true → x.lastPoll + 42000 ≤ s.tick → Answers .packetPoll s (fun u =>
            u = s.setQueue q (slotRead s { x with paused := false } i pa)))) ∧
        (AtHub s q (x.ring + 64 * i) 48 .atomic [3] pa →
          (x.paused = false → Answers .packetFetch s (fun u => u = s.setQueue q (hostSlotRead s x i pa))) ∧
          (x.paused = true → x.lastPoll + 42000 ≤ s.tick → Answers .packetPoll s (fun u =>
            u = s.setQueue q (hostSlotRead s { x with paused := false } i pa))))) ∧
    (∀ p r, AtHead s q p r 0 → allClean p → Answers .noopPacket s (fun u => doing u q p r (.retiring 0 0 0 0) ∧ u.mem = s.mem)) ∧
    (∀ p r, AtHead s q p r 6 → allClean p → Answers .fetchFence s (fun u => doing u q p [] (.retiring 0 0 0 0) ∧ u.mem = s.mem)) ∧
    (∀ p r k, AtHead s q p r k → 7 ≤ k → Answers .reservedPacket s (fun u => doing u q p r (.retiring 9 0 0 0) ∧ u.mem = s.mem)) ∧
    (∀ p r k, AtHead s q p r k → ¬allClean p → (k = 1 ∨ k = 4 → s.st.inkfill = []) →
      Answers (packetRow p k) s (fun u => doing u q p r (.retiring 9 0 0 0) ∧ u.mem = s.mem)) ∧
    (∀ p pr, sound s → x.cur = some p → AtHub s q (x.ring + 64 * p.index) 8 .atomic [0, 3] pr →
      (∀ code det idx val, x.exec = .retiring code det idx val →
        let st := code % 256 + det % 256 * 256 + det / 2 ^ 24 * 2 ^ 24 + idx % 65536 * 2 ^ 48
        (p.kind ≠ 1 ∨ p.word 24 = 0 → Answers .packetRetire s (fun u => doing u q p x.pre (.updating st none) ∧
          u.mem = statusMem s pr val.toNat st)) ∧
        (∀ pa, p.kind = 1 → p.word 24 ≠ 0 → p.word 24 % 8 = 0 → fair (p.word 24) → clearOf pa pr →
          (AtHub s q (p.word 24) 8 .atomic [0] pa → Answers .packetRetire s (fun u => doing u q p x.pre (.updating st none) ∧
            u.mem = Memory.write (statusMem s pr val.toNat st) pa (toBytes 8 (s.dword pa - 1).toNat))) ∧
          (AtHub s q (p.word 24) 8 .atomic [3] pa → noHalf s q pa → Answers .packetRetire s (fun u =>
            doing u q p x.pre (.updating st (some (pa, s.dword pa - 1))) ∧ u.mem = statusMem s pr val.toNat st)))) ∧
      (∀ st w, x.exec = .updating st w → p.intr = false → (∀ z, w = some z → z.1 + 8 ≤ pr ∨ pr + 8 ≤ z.1) →
        let m := match w with | some z => Memory.write s.mem z.1 (toBytes 8 z.2.toNat) | none => s.mem
        Answers .packetRetire s (fun u => (u.queue q).cur = none ∧ (u.queue q).exec = .idle ∧ (u.queue q).retired = x.retired + 1 ∧
          (u.queue q).state = (if x.disabling then 0 else 1) ∧ (u.queue q).en = (x.en && !x.disabling) ∧
          (st % 256 = 0 → (u.queue q).lasterr = x.lasterr ∧ u.mem = Memory.write m pr (toBytes 8 (ofBytes (s.bytes pr 8) / 2 * 2))) ∧
          (st % 256 ≠ 0 → (u.queue q).lasterr = BitVec.ofNat 8 st))))

open Sys2Proof.Machine Sys2Proof.Claims Sys2Proof in
/-- Launches start their chain, waits compare and time out, signals change, copies copy and fills wait and then fill (R120, R121, R423,
R424, R427-R429). That the hub reads and writes with supervisor rights is the model's choice (log 14). A signal that overlaps the status
of its own packet is left out. -/
def Obligations.LaunchesWaitsSignalsCopiesAndFillsRun : Prop :=
  ∀ (s : State), let q := s.inp.n1
    let x := s.queue q
    (∀ p r, AtHead s q p r 1 → allClean p → s.st.inkfill = [] → p.word 8 % 128 = 0 → p.word 24 % 8 = 0 → fair (p.word 8) → fair (p.word 24) →
      Answers .launchPacket s (fun u => doing u q p r (.chain 0 0 0 0 0 false) ∧ u.mem = s.mem ∧ (u.queue q).shadow = none)) ∧
    (∀ p r pa, sound s → AtHead s q p r 2 → allClean p → p.word 8 ≠ 0 → p.word 8 % 8 = 0 → AtHub s q (p.word 8) 8 .load [0, 3, 1] pa →
      let v := BitVec.ofNat 64 (ofBytes (s.bytes pa 8))
      (waitTrue (p.word 24 % 4) v (BitVec.ofNat 64 (p.word 16)) → Answers .waitPacket s (fun u => doing u q p r (.retiring 0 0 0 0))) ∧
      (¬waitTrue (p.word 24 % 4) v (BitVec.ofNat 64 (p.word 16)) → Answers .waitPacket s (fun u =>
        doing u q p r (.waiting s.tick v) ∧ (u.queue q).state = 3 ∧ u.mem = s.mem))) ∧
    (∀ p t v0, x.cur = some p → x.exec = .waiting t v0 →
      (∀ pa, sound s → AtHub s q (p.word 8) 8 .load [0, 3, 1] pa → let v := BitVec.ofNat 64 (ofBytes (s.bytes pa 8))
        (waitTrue (p.word 24 % 4) v (BitVec.ofNat 64 (p.word 16)) → Answers .waitEvaluate s (fun u => doing u q p x.pre (.retiring 0 0 0 0))) ∧
        (¬waitTrue (p.word 24 % 4) v (BitVec.ofNat 64 (p.word 16)) → Answers .waitEvaluate s (fun u => doing u q p x.pre (.waiting t v)))) ∧
      (p.word 24 / 2 ^ 32 ≠ 0 → t + p.word 24 / 2 ^ 32 * 4096 ≤ s.tick → Answers .waitTimeout s (fun u =>
        doing u q p x.pre (.retiring 8 0 0 v0) ∧ u.mem = s.mem))) ∧
    (∀ p r op pa pr, sound s → AtHead s q p r 3 → allClean p → op = p.word 24 % 4 → op < 3 → p.word 8 ≠ 0 → p.word 8 % 8 = 0 →
      AtHub s q (x.ring + 64 * p.index) 8 .atomic [0, 3] pr → clearOf pa pr →
      let v := signalValue op (s.dword pa) (BitVec.ofNat 64 (p.word 16))
      (AtHub s q (p.word 8) 8 .atomic [0] pa → Answers (signalRow op) s (fun u => doing u q p r (.updating 0 none) ∧
        u.mem = Memory.write (statusMem s pr 0 0) pa (toBytes 8 v.toNat))) ∧
      (AtHub s q (p.word 8) 8 .atomic [3] pa → noHalf s q pa → Answers (signalRow op) s (fun u =>
        doing u q p r (.updating 0 (some (pa, v))) ∧ u.mem = statusMem s pr 0 0))) ∧
    (∀ p r ps pd, sound s → AtHead s q p r 4 → allClean p → s.st.inkfill = [] → 1 ≤ p.word 24 → p.word 24 ≤ 2 ^ 40 →
      AtHub s q (p.word 8) (p.word 24) .load [0, 3] ps → AtHub s q (p.word 16) (p.word 24) .store [0, 3] pd →
      (∀ k, k ∈ rangeKinds s q (p.word 8) (p.word 24) ++ rangeKinds s q (p.word 16) (p.word 24) → k = 0 ∨ k = 3) →
      (ps + p.word 24 ≤ pd ∨ pd + p.word 24 ≤ ps) → Answers .copyPacket s (fun u => doing u q p r (.retiring 0 0 0 0) ∧
        u.mem = Memory.write s.mem pd (s.bytes ps (p.word 24)))) ∧
    (∀ p r, AtHead s q p r 5 → allClean p → p.word 8 % 128 = 0 → p.word 16 % 128 = 0 → p.word 24 % 128 = 0 → fair (p.word 8) → fair (p.word 16) →
      Answers .inkwellFillPacket s (fun u => doing u q p r (.fill 0) ∧ (u.queue q).state = 4 ∧ u.st.inkfill = s.st.inkfill ++ [q] ∧
        u.mem = s.mem)) ∧
    (∀ p r ps pd, sound s → x.cur = some p → x.exec = .fill 0 → s.st.inkfill = q :: r → (∀ e, e ∈ s.grids → e.2.done = true) →
      p.word 24 % 128 = 0 → AtHub s q (p.word 8) (p.word 24) .load [0, 3] ps → AtHub s q (p.word 16) (p.word 24) .store [1] pd →
      (∀ k, k ∈ rangeKinds s q (p.word 16) (p.word 24) → k = 1) → (ps + p.word 24 ≤ pd ∨ pd + p.word 24 ≤ ps) →
      Answers .inkwellFillStart s (fun u => doing u q p x.pre (.retiring 0 0 0 0) ∧ u.mem = Memory.write s.mem pd (s.bytes ps (p.word 24)) ∧
        ∀ k y l b, u.quills.find k = some y → (l, b) ∈ y.cq → kindOf (l * 128) ≠ some 1))

open Sys2Proof.Machine Sys2Proof.Claims Sys2Proof in
/-- Chains expand, swap, drain and retire; segment requests allocate, validate, revoke and load (R211, R219, R430-R432, R439, R440, R490,
R495-R497). That records and descriptors are read with supervisor rights is the model's choice (log 14); code 0x04 for a misaligned
descriptor (log 33), code 0x04, not 0x01, for a field beyond a limit of R210 that is also outside its range of R489 (log 59), and code 0x06 for a
poisoned handle entry (log 61) are its readings; and so is how a signed load
maps its pages and which code a malformed object gives (log 78). -/
def Obligations.ChainsAndSegmentRequestsRun : Prop :=
  (∀ (s : State) (p : Packet) (n st c d pa pk : Nat) (a : DWord), let q := s.inp.n1
    let x := s.queue q
    x.exec = .chain n st c d a false → x.cur = some p →
    (∀ bs ds, sound s → x.shadow = none → n < chainLength p → AtHub s q (p.word 8 + 128 * n) 128 .load [0, 3] pa → bs = s.bytes pa 128 →
      let found := fun r => exec .chainRecordExpand s = .next (s.setQueue q { x with shadow := some r })
      let o := operOf bs
      (operBad bs o = true → found (.inr (0x03, 0, 0, o.join))) ∧
      (operBad bs o = false → fair (bfield bs 0 8) → bfield bs 0 8 % 64 ≠ 0 → found (.inr (0x04, 0, 0, o.join))) ∧
      (operBad bs o = false → bfield bs 0 8 % 64 = 0 → AtHub s q (bfield bs 0 8) 64 .load [0, 3] pk → ds = s.bytes pk 64 →
        let k := kernelOf ds
        (segPoisoned s k.handle = true → Answers .chainRecordExpand s (fun u => (u.queue q).shadow =
          some (.inr (0x06, 0x14, BitVec.ofNat 64 (segAddr s k.handle), o.join)))) ∧
        (segPoisoned s k.handle = false → kernelBad s x.vmid x.asid ds k = true → found (.inr (0x04, 0, 0, o.join))) ∧
        (segPoisoned s k.handle = false → kernelBad s x.vmid x.asid ds k = false → tooLarge k = true → found (.inr (0x01, 0, 0, o.join))) ∧
        (segPoisoned s k.handle = false → kernelBad s x.vmid x.asid ds k = false → tooLarge k = false → found (.inl (o, k))))) ∧
    (∀ o k, x.shadow = some (.inl (o, k)) → swapReady s q o.join = true → (flying s q).length < 4 → o.resident = false →
      (fillPartWay s = true → exec .launchBankSwap s = .next s) ∧
      (fillPartWay s = false → Answers .launchBankSwap s (fun u => (u.queue q).shadow = none ∧ (u.queue q).exec = .chain (n + 1) n 0 0 0 false ∧ u.mem = s.mem ∧
        ∃ g, u.grids.find s.scrip.nextGrid = some g ∧ g.queue = q ∧ g.op = o ∧ g.ker = k ∧ g.next = 0 ∧ g.done = false ∧ g.recNo = n))) ∧
    (∀ code det adr j, x.shadow = some (.inr (code, det, adr, j)) → code ≠ 0 → swapReady s q j = true → (flying s q).length < 4 →
      Answers .launchBankSwap s (fun u => (u.queue q).shadow = none ∧ (u.queue q).exec = .chain (n + 1) n code det adr true ∧ u.grids = s.grids))) ∧
  (∀ (s : State) (g : Grid), s.grids.find s.inp.n1 = some g → g.done = false → g.left = 0 → gridHolds s s.inp.n1 = false →
    Answers .gridDrainComplete s (fun u => u.grids.find s.inp.n1 = some { g with done := true, since := none } ∧ u.mem = s.mem ∧
      ∀ n st det a l, g.abort || g.overflow → (s.queue g.queue).exec = .chain n st 0 det a l → (u.queue g.queue).exec = .chain n st 0x0A 0 0 true)) ∧
  (∀ (s : State) (p : Packet) (n st code det : Nat) (a : DWord) (last : Bool), let q := s.inp.n1
    (s.queue q).exec = .chain n st code det a last → (s.queue q).cur = some p → flying s q = [] → last = true ∨ chainLength p ≤ n →
    Answers .chainRetire s (fun u => (u.queue q).exec = .retiring code (det + chainFlags s q) st a ∧ u.mem = s.mem ∧
      ∀ e, e ∈ u.grids ↔ e ∈ s.grids ∧ e.2.queue ≠ q)) ∧
  (∀ s : State, let b := readBlock s
    let a := segBlk s
    s.scrip.seg.busy = true → inGddr a 64 = true → s.st.poison = [] → b.bad = false → inGddr (segEntry s 0) (16 * (segLast s + 1)) = true →
    (∀ h, b.kind = 0 → b.segBad = false → nextHandle s = some h → (segEntry s h + 16 ≤ a ∨ a + 64 ≤ segEntry s h) →
      Answers .segreqAllocate s (fun u => u.scrip.seg.busy = false ∧ u.scrip.seg.code = 0 ∧ h ∈ u.scrip.seg.alloc ∧
        u.bytes (a + 20) 4 = toBytes 4 h ∧ u.dword (a + 48) = 0 ∧ u.dword (segEntry s h) = BitVec.ofNat 64 b.base ∧
        u.dword (segEntry s h + 8) = BitVec.ofNat 64 (b.limit * 2 ^ 32 + b.vmid * 2 ^ 26 + b.asid * 2 ^ 16 + b.op / 16 % 2 * 8))) ∧
    (b.handle ∈ s.scrip.seg.alloc → (segEntry s b.handle + 16 ≤ a ∨ a + 64 ≤ segEntry s b.handle) →
      let w := segEntry s b.handle + 8
      (b.kind = 1 → Answers .segreqValidate s (fun u => u.scrip.seg.busy = false ∧ u.scrip.seg.code = 0 ∧ u.dword (a + 48) = 0 ∧
        u.dword w = (s.dword w ||| 1))) ∧
      (b.kind = 2 → Answers .segreqRevoke s (fun u => u.scrip.seg.busy = false ∧ u.scrip.seg.code = 0 ∧ u.dword (a + 48) = 0 ∧
        b.handle ∉ u.scrip.seg.alloc ∧ u.dword w = (s.dword w &&& ~~~1)))) ∧
    (∀ k f, b.kind = 3 → s.pow.trips = 0 → k = kxoOf (s.bytes b.file b.flen) → rangeKind b.file b.flen = some f → f ≠ 4 →
      let m := Config.sha3 (k.bs.take k.sigoff)
      let signed := k.siglen = 4627 ∧ k.sigoff + 4627 ≤ k.bs.length ∧ Config.verify s.host.fwKey m ((k.bs.drop k.sigoff).take 4627) = true
      let lim := match k.section' 0 with | some x => x.isize | none => 0
      (¬signed → Answers .segreqSignedLoad s (fun u => u.scrip.seg.busy = false ∧ u.scrip.seg.code = 2 ∧
        u.scrip.seg.alloc = s.scrip.seg.alloc ∧ u.scrip.measures = s.scrip.measures ∧ u.dword (a + 48) = 2)) ∧
      (∀ h s1 s2 s3, k.siglen = 4627 → k.sigoff + 4627 ≤ k.bs.length → k.misplaced b = false → allocHandle s { b with limit := lim } = some (h, s1) →
        (∀ i, i < k.nsym → (k.symbol b.base i).isSome = true) → fillGot (placeImage s1 k b.dest) k b.dest b.base h = some s2 →
        applyRels k b.dest b.base h k.nrel 0 (fillHandles s2 k b.dest h) = (s3, none) → unmapped (mapImage s3 b k) b k = none →
        pagesSealed (mapImage s3 b k) b lim = true →
        Answers .segreqSignedLoad s (fun u => u.scrip.seg.busy = false ∧ (signed → u.scrip.seg.code = 0 ∧ h ∈ u.scrip.seg.alloc ∧
          u.scrip.measures = s.scrip.measures ++ [m] ∧ u.bytes (a + 20) 4 = toBytes 4 h ∧ u.dword (a + 48) = 0)))))

open Sys2Proof.Machine Sys2Proof.Claims Sys2Proof in
/-- Heads are enabled and disabled, links and code change, bands start, are dispatched, run, meet their deadline and are shown
(R443, R446-R458, R462-R468, R470, R534). Where the ring's lines start is the model's choice (log 9), and so is what one step of a
bundle takes: one pixel of its mst, or its slots (log 34); that enabling a head clears its frame and its source is its reading (log 107). -/
def Obligations.BandsStartRunAndAreShown : Prop :=
  ∀ s : State, let h := s.inp.n1
    let x := headOf s h
    let y : Head := { x with ctl := s.inp.v1 &&& 0x01FF_1FFF_1FFF_0003#64 }
    (h < 4 → x.en = false → y.mayEnable = true → Answers .hdctlEnable s (fun u => let z := headOf u h
      z.ctl = (y.ctl ||| 0x8000_0000_0000_0000#64) ∧ z.tEn = s.tick ∧ z.bands = [] ∧ z.nextBand = 0 ∧ z.histSrc = none ∧ z.frame = none ∧
      z.scan = 0 ∧ u.mem = s.mem)) ∧
    (h < 4 → x.en = true → Answers .hdctlDisable s (fun u => (headOf u h).ctl = (x.ctl &&& 0x7FFF_FFFF_FFFF_FFFF#64) ∧ (headOf u h).bands = [] ∧
      ∀ k c g n b, u.duct.cores.find k = some c → c.busy = some (g, n, b) → g ≠ h)) ∧
    (codeCovered s s.inp.n1 s.inp.data.length = false → s.inp.n1 + s.inp.data.length ≤ 0x4_0000 → Answers .ductusCodeWrite s (fun u =>
      codeBytes u s.inp.n1 s.inp.data.length = s.inp.data ∧ u.mem = s.mem ∧
      ∀ o, o < s.inp.n1 ∨ s.inp.n1 + s.inp.data.length ≤ o → codeBytes u o 1 = codeBytes s o 1)) ∧
    (h < 4 → Answers .hotplug s (fun u => headOf u h = { x with link := s.inp.v1 &&& 0x8000_FFFF_0000_017F#64 })) ∧
    (h < 4 → x.en = true → Answers .displayportLinkLost s (fun u => headOf u h = { x with link := s.inp.v1 &&& 0x8000_FFFF_0000_017F#64 })) ∧
    (mayStart s h = true → Answers .bandStart s (fun u => let n := x.nextBand / x.bandCount
      let b := x.nextBand % x.bandCount
      (headOf u h).nextBand = x.nextBand + 1 ∧ ∃ e, (headOf u h).bands = x.bands ++ [e] ∧ e.n = n ∧ e.b = b ∧ e.st = .waiting ∧
        e.deadline = (x.lineTick n ((8 * b : Nat) - 2)).toNat ∧ e.delivered = [] ∧
        e.pose = poseLatch s h ((x.lineTick n ((8 * b : Nat) - x.lat)).toNat % 2 ^ 32) x.pose)) ∧
    (∀ g n b e, s.inp.n1 < 16 → (coreOf s s.inp.n1).busy = none → nextReady s = some (g, n, b) → bandOf s g n b = some e →
      Answers .bandDispatch s (fun u => let c := coreOf u s.inp.n1
        c.busy = some (g, n, b) ∧ c.pc = (headOf s g).entry / 16 ∧ c.loops = [] ∧ c.d = (coreOf s s.inp.n1).d ∧
        c.c.take 5 = [BitVec.ofNat 32 g, BitVec.ofNat 32 b, BitVec.ofNat 32 n, (match e.frame with | some f => f.1 | none => 0),
          BitVec.ofNat 32 e.deadline] ∧
        bandOf u g n b = some { e with st := .running } ∧ u.mem = s.mem)) ∧
    (∀ g n b e s1 put c' nx, let k := s.inp.n1
      let c := coreOf s k
      let w := bundleAt s c.pc
      c.busy = some (g, n, b) → bandOf s g n b = some e → e.st = .emitted ∨ s.tick < e.deadline → (headOf s g).entry ≤ 16 * c.pc →
      16 * c.pc < (headOf s g).codeEnd → legalBundle c.pc w = true → s.st.poison = [] → mstNext c (slotWord w 0) = none →
      slotL s c { vmid := (headOf s g).vmid, asid := (headOf s g).asid, frame := e.frame } (slotWord w 0) = (s1, .ok (put, none)) →
      slotS c (ctlIn s1 (headOf s g) e (bundleSince s c)) (slotWord w 3) (slotV c (slotWord w 2) (slotV c (slotWord w 1) (put c))) = .ok (c', nx) → nx ≠ .halt →
      s1.st.poison = [] → Answers .ductusBundle s (fun u => coreOf u k = { ductNext c' c.pc nx with stored := 0 } ∧ u.mem = s1.mem)) ∧
    (∀ g n b e s1 va size i px, let k := s.inp.n1
      let c := coreOf s k
      let w := bundleAt s c.pc
      c.busy = some (g, n, b) → bandOf s g n b = some e → e.st = .emitted ∨ s.tick < e.deadline → (headOf s g).entry ≤ 16 * c.pc →
      16 * c.pc < (headOf s g).codeEnd → legalBundle c.pc w = true → mstNext c (slotWord w 0) = some (va, size, i, px) →
      ductStore s { vmid := (headOf s g).vmid, asid := (headOf s g).asid, frame := e.frame } va size i px = (s1, none) →
      Answers .ductusBundle s (fun u => coreOf u k = { c with stored := i + 1, since := bundleSince s c } ∧ u.mem = s1.mem)) ∧
    (∀ g n b e, let k := s.inp.n1
      (coreOf s k).busy = some (g, n, b) → bandOf s g n b = some e → e.st = .emitted ∨ s.tick < e.deadline →
      (headOf s g).entry ≤ 16 * (coreOf s k).pc → 16 * (coreOf s k).pc < (headOf s g).codeEnd → bundleAt s (coreOf s k).pc = 0 →
      (coreOf s k).loops = [] → Answers .ductusBundle s (fun u =>
        coreOf u k = { coreOf s k with pc := (coreOf s k).pc + 1, stored := 0 } ∧ u.mem = s.mem)) ∧
    (∀ e r, bandOf s h s.inp.n2 s.inp.n3 = some e → e.deadline ≤ s.tick → x.histSrc = some r →
      (e.st = .waiting → Answers .bandDeadline s (fun u => bandOf u h e.n e.b = some { e with st := .falling 1 (r.2 % 2 ^ 32) })) ∧
      (e.st = .running → Answers .bandDeadline s (fun u => bandOf u h e.n e.b = some { e with st := .falling 2 (r.2 % 2 ^ 32) } ∧
        ∀ k c, u.duct.cores.find k = some c → c.busy ≠ some (h, e.n, e.b)))) ∧
    (∀ e c src, bandOf s h s.inp.n2 s.inp.n3 = some e → e.st = .falling c src → s.inp.n4 < 8 → 8 * e.b + s.inp.n4 < x.va →
      x.lineTick e.n ((8 * e.b + s.inp.n4 : Nat) : Int) ≤ s.tick → x.scan ≤ e.n * x.vt + (8 * e.b + s.inp.n4) →
      Answers .reprojectionLineTimeout s (fun u => bandOf u h e.n e.b = some { e with st := .falling 6 src })) ∧
    (mayScan s h = true → Answers .scanOutLine s (fun u => (headOf u h).scan = x.scan + 1 ∧
      ∃ px, (headOf u h).sent = some (x.scan / x.vt, x.scan % x.vt, px) ∧ (x.va ≤ x.scan % x.vt → px = []) ∧
        (x.scan % x.vt < x.va → px.length = x.ha ∧ (x.en = false → ∀ v, v ∈ px → v = 0) ∧
          (x.en = true → x.ofmt = 1 → ∀ i, i < x.ha →
            px[i]? = some (BitVec.ofNat 32 (ofBytes (s.bytes (ringAddr x (x.scan / x.vt) (x.scan % x.vt) + 4 * i) 4)))))))

open Sys2Proof.Machine Sys2Proof.Claims Sys2Proof in
/-- Rails settle and lower, sensors are sampled, judged and trip, shares change (R478, R480-R485). The level that a die seeks and the
target that it keeps until it settles are the model's choice (log 29). -/
def Obligations.RailsSensorsAndThrottlesFollowTheirRules : Prop :=
  ∀ s : State, let d := s.inp.n1
    (∀ l, s.pow.target.find d = some (l, false) → Answers .railSettled s (fun u => u.pow.level.find d = some l ∧
      u.pow.target.find d = some (l, true) ∧ u.threads = s.threads ∧ u.mem = s.mem)) ∧
    (d < 8 → s.pow.target.find d = none → wantedLevel s d < dieLevel s d → Answers .railLower s (fun u =>
      u.pow.level.find d = some (wantedLevel s d) ∧ u.mem = s.mem ∧
      ∀ q, q / 96 = d → (u.quill q).div = (List.range 4).map (fun i => max ((s.quill q).div.getD i 2) (minDiv (wantedLevel s d) i)))) ∧
    (d < 9 → (∀ t, s.pow.sampledAt.find d = some t → t + 4200 ≤ s.cycles) → s.inp.nums.length = 64 → s.inp.nums2.length = 32 →
      Answers .sensorSample s (fun u =>
      (∀ i v, s.inp.nums[i]? = some v → (sensorOf u (128 * d + i)).raw = BitVec.ofNat 16 v) ∧
      (∀ i v, s.inp.nums2[i]? = some v → (sensorOf u (128 * d + 64 + i)).raw = BitVec.ofNat 16 v) ∧
      (∀ i, i < 64 → (sensorOf u (128 * d + i)).sus = false → (sensorOf u (128 * d + i)).value = (sensorOf u (128 * d + i)).raw) ∧
      (∀ i, i < 64 → (sensorOf s (128 * d + i)).sus = true → (sensorOf u (128 * d + i)).sus = true) ∧
      (∀ i v, s.inp.nums[i]? = some v → (BitVec.ofNat 16 v).toInt < -2560 ∨ 9600 < (BitVec.ofNat 16 v).toInt →
        (sensorOf u (128 * d + i)).sus = true) ∧
      (∀ i, i < 64 → 8000 ≤ (sensorOf u (128 * d + i)).value.toInt → u.pow.trips.getLsbD d = true) ∧
      (12800 < ((List.range 32).map (fun i => (sensorOf u (128 * d + 64 + i)).value.toNat)).sum → u.pow.trips.getLsbD (16 + d) = true) ∧
      (∀ b, s.pow.trips.getLsbD b = true → u.pow.trips.getLsbD b = true) ∧ u.threads = s.threads)) ∧
    ((sensorOf s (d * 128 + (if s.inp.on then 64 else 0) + s.inp.n2)).sus = true → Answers .sensorSuspectClear s (fun u =>
      let k := d * 128 + (if s.inp.on then 64 else 0) + s.inp.n2
      (sensorOf u k).sus = false ∧ (sensorOf u k).value = (sensorOf s k).raw ∧ u.mem = s.mem ∧ ∀ j, j ≠ k → sensorOf u j = sensorOf s j)) ∧
    (d < 1024 → min s.inp.n2 64 ≠ (throttleOf s d).share → Answers .throttleWrite s (fun u =>
      (throttleOf u d).share = min s.inp.n2 64 ∧ (throttleOf u d).count = ((throttleOf s d).count + 1) % 2 ^ 32 ∧
      (∀ j, j ≠ d → throttleOf u j = throttleOf s j) ∧ u.threads = s.threads))

open Sys2Proof.Machine Sys2Proof.Claims Sys2Proof in
/-- The host reaches the memory of function 0 and its own; bring-up goes through its stages; registers, retraining and reports (R44, R191,
R192, R195, R196, R499-R506, R525). What bootst shows after each stage, what a stage completes, the routes that training writes and the
host memory that a module reset keeps are the model's choice (log 38), and so is the region 8 that stands for the host's own memory
(log 39), the bits of domallow after the domain stage (log 88), the fields of a lost link while it trains again (log 87), and the zero bytes of
memory that nothing has written (log 3). -/
def Obligations.TheHostPortAndBringUpFollowTheirRules : Prop :=
  ∀ s : State,
    (sound s → s.host.up = true → s.inp.n1 = 0 → s.inp.n2 = 2 →
      (s.inp.n3 + s.inp.data.length ≤ 2 ^ 38 → s.inp.on = false → Answers .hostWrite s (fun u =>
        u.mem = Memory.write s.mem s.inp.n3 s.inp.data ∧ u.threads = s.threads)) ∧
      (2 ^ 38 < s.inp.n3 + s.inp.data.length → s.inp.on = false → exec .hostWrite s = .next s) ∧
      (s.inp.n3 + s.inp.n4 ≤ 2 ^ 38 → Answers .hostRead s (fun u => u.host.reads = s.host.reads ++ [(0, s.bytes s.inp.n3 s.inp.n4)] ∧ u.mem = s.mem))) ∧
    (sound s → s.inp.n1 = 0 → s.inp.n2 = 8 → hostBase + s.inp.n3 + s.inp.data.length ≤ 2 ^ 52 → Answers .hostWrite s (fun u =>
      u.mem = Memory.write s.mem (hostBase + s.inp.n3) s.inp.data ∧ u.threads = s.threads)) ∧
    (∀ t, s.log.pendMsg = true → s.log.lastMsg = some t → t + 4200 ≤ s.tick → Answers .errorLogMsiSpanEnd s (fun u =>
      u.log.pendMsg = false ∧ u.log.lastMsg = some s.tick ∧ u.host.msi = s.host.msi ++ [32])) ∧
    (s.inp.who = .host → s.host.up = false → exec .registerWrite s = .next s) ∧
    (s.inp.n1 = 0x1000 → s.inp.n2 = 8 → s.pow.trips = 0 → (s.inp.who = .host → s.host.up = true) → Answers .registerWrite s (fun u => u.mem = s.mem ∧
      u.xl.ctxtab = if s.inp.who = .warp then s.xl.ctxtab else s.inp.v1 &&& 0x000F_FFFF_FFFF_0000#64)) ∧
    Answers .moduleReset s (fun u => u.threads = [] ∧ u.gangs = [] ∧ u.tick = 0 ∧ u.boot = State.reset.boot ∧ u.xl = State.reset.xl ∧
      u.fab = State.reset.fab ∧ u.scrip = State.reset.scrip ∧ u.pow = State.reset.pow ∧ u.duct = State.reset.duct ∧
      ∀ a, u.byte a = if a < hostBase then 0 else s.byte a) ∧
    (s.boot.toNat % 16 = 1 → s.host.halted = false →
      Answers .firmwareAuthentication s (fun u =>
        let key := Config.imageKey s.inp.data
        if Config.sha3 key = Config.fusedDigest ∧ Config.verify key (Config.sha3 s.inp.data) (Config.imageSignature s.inp.data) = true then
          u.boot = 2 ∧ u.host.fwMeasure = Config.sha3 s.inp.data ∧ u.host.fwKey = key ∧ u.mem = s.mem
        else u.boot.toNat % 16 = 2 ∧ u.boot.toNat / 65536 = (Config.firmwareFailure s.inp.data).toNat % 65536 ∧ u.host.halted = true)) ∧
    (s.boot.toNat % 16 = 2 → s.host.halted = false → s.inp.n1 = 0 → Answers .gddr7Training s (fun u => u.boot = 3 ∧
      (∀ a, u.byte a = if a < 2 ^ 38 then 0 else s.byte a) ∧ ∀ e, e ∈ u.st.poison → e.2 = 128)) ∧
    (∀ r : PortResult, (r.pass224 = 0xFF → trainedAt r = some (3, false)) ∧
      (r.pass224 = 0 → r.pass112 = 0xFF → trainedAt r = some (2, false)) ∧ (r.pass224 = 0 → r.pass112 = 0x0F → trainedAt r = some (2, true)) ∧
      (r.pass224 = 0 → r.pass112 = 0 → r.pass56 = 0x77 → trainedAt r = none)) ∧
    (s.boot.toNat % 16 = 3 → s.host.halted = false → (∀ p, p ∈ s.fab.ports → p.state ≠ 1) → Answers .domainPortTraining s (fun u =>
      u.fab.ports = s.fab.ports.map (fun p => { p with state := 1 }) ∧ u.boot = s.boot ∧ u.mem = s.mem)) ∧
    (∀ r sp hf, s.boot.toNat % 16 = 3 → s.host.halted = false → (∃ p, p ∈ s.fab.ports ∧ p.state = 1) → s.inp.n1 < s.inp.n2 → s.inp.n2 ≤ 512 → s.inp.ports = [r] → r.port < 18 →
      trainedAt r = some (sp, hf) → s.fab.ports.length = 18 → Answers .domainPortTraining s (fun u => u.boot = 4 ∧ u.fab.peer.toNat = s.inp.n1 ∧
        u.fab.size.toNat = s.inp.n2 ∧ u.fab.hops = s.inp.nums ∧ TimeTaken s.fab u.fab ∧
        (∀ n, n < 512 → ((u.fab.allow.getD (n / 64) 0).getLsbD (n % 64) = true ↔ n = s.inp.n1)) ∧
        (∃ p, u.fab.ports[r.port]? = some p ∧ p.state = 2 ∧ p.ppeer = r.ppeer ∧ p.speed = sp ∧ p.half = hf) ∧
        (∀ p, p ∈ u.fab.ports → p.state ≠ 1) ∧
        ∃ w, u.fab.route.find r.ppeer.toNat = some w ∧ w.getLsbD 63 = true ∧ w.getLsbD r.port = true)) ∧
    (s.boot.toNat % 16 = 4 → s.host.halted = false → Answers .pcieLinkUp s (fun u => u.boot = 5 ∧ u.host.up = true ∧ u.mem = s.mem)) ∧
    (∀ r l p, s.inp.ports = r :: l → r.port < 18 → s.fab.ports[r.port]? = some p → p.state = 3 → Answers .linkRetrain s (fun u =>
      u.fab.ports[r.port]? = some { p with state := 1 } ∧ u.fab.route = s.fab.route ∧ u.mem = s.mem)) ∧
    (∀ r l p, s.inp.ports = r :: l → r.port < 18 → s.fab.ports[r.port]? = some p → p.state = 1 → 4 ≤ s.boot.toNat % 16 → trainedAt r ≠ none → Answers .linkRetrain s (fun u =>
      (∃ p', u.fab.ports[r.port]? = some p' ∧ p'.state = 2 ∧ p'.stopped = [] ∧ p'.ppeer = r.ppeer) ∧
      ∃ w, u.fab.route.find r.ppeer.toNat = some w ∧ w.getLsbD 63 = true ∧ w.getLsbD r.port = true)) ∧
    (2 ≤ s.boot.toNat % 16 → s.host.halted = false → s.inp.data.length = 64 → Answers .attestationReport s (fun u =>
      let m := s.host.fwMeasure ++ s.scrip.measures.flatten ++ s.inp.data
      u.host.reports = s.host.reports ++ [m ++ Config.sign s.host.fwMeasure m] ∧ u.mem = s.mem))

namespace Sys2Proof.Claims
open Sys2Proof.Machine

/-! ## Single rules -/

/-- The sum modulo 2^32 of the values of some lanes. -/
def laneSum (m : Mask) (f : Nat → Word) (p : Nat → Bool) : Word :=
  BitVec.ofNat 32 ((((List.range 96).filter (fun L => m.getLsbD L && p L)).map (fun L => (f L).toNat)).sum)

/-- Every second bit of a number, from bit `k` on: the coordinates of a Morton code (R433). -/
def everySecond (k c : Nat) : Nat := ((List.range 33).map (fun i => if c.testBit (2 * i + k) then 2 ^ i else 0)).sum

/-- The gangs of one z in blocked order (R433). -/
def blockOrder (gx gy bx hy : Nat) : List (Nat × Nat) :=
  (List.range ((gy + hy - 1) / hy)).flatMap (fun r => (List.range ((gx + bx - 1) / bx)).flatMap (fun c =>
    (List.range hy).flatMap (fun j => (List.range bx).filterMap (fun i =>
      if c * bx + i < gx ∧ r * hy + j < gy then some (c * bx + i, r * hy + j) else none))))

/-- The fault buffer, the error log and the event rings are disabled. -/
def ringsOff (s : State) : Prop :=
  s.xl.xfbase.getLsbD 4 = false ∧ s.log.base.getLsbD 4 = false ∧ ∀ q, (s.queue q).sev.toNat / 1024 % 2 ^ 46 = 0

end Sys2Proof.Claims

open Sys2Proof.Machine Sys2Proof.Claims Sys2Proof in
/-- sdiv: quotient, remainder and flags, with register c winning, and the flags entering fstat whether or not their trap is taken (R286). -/
def Obligations.DivisionFormsQuotientAndRemainder : Prop :=
  ∀ (signed : Bool) (f : T64) (s : State) (th : Thread), let i := Instr.sdiv signed f
    Ready i s th →
    let A := th.sv f.a.toNat
    let B := th.sv f.b.toNat
    let r : Word × Word × Flags :=
      if B = 0 then (BitVec.ofNat 32 (2 ^ 32 - 1), A, flIdz)
      else if signed = true ∧ A.toInt = -2 ^ 31 ∧ B.toInt = -1 then (A, 0, flIov)
      else if signed then (BitVec.ofInt 32 (A.toInt.tdiv B.toInt), BitVec.ofInt 32 (A.toInt - A.toInt.tdiv B.toInt * B.toInt), 0)
      else (BitVec.ofNat 32 (A.toNat / B.toNat), BitVec.ofNat 32 (A.toNat - A.toNat / B.toNat * B.toNat), 0)
    let x := addFlags ((th.setS f.d.toNat r.1).setS f.c.toNat r.2.1) r.2.2
    (r.2.2 &&& enabled th = 0 → Retires i s x) ∧
    (r.2.2 &&& enabled th ≠ 0 → ∃ set : Mask, exec i s = .next (trapThread (s.setThread s.cur (retire x)) s.cur (retire x)
      { cause := 0x30, orig := 0, set := set, pc := (retire x).pcO, val := (r.2.2 &&& enabled th).setWidth 64, syn := 0 }))

open Sys2Proof.Machine Sys2Proof.Claims Sys2Proof in
/-- vscan: running sums over the active lanes; no modifier and no prefix (R326). -/
def Obligations.ScansFormRunningSums : Prop :=
  ∀ (exc : Bool) (f : T64), let i := Instr.vscan exc f
    (∀ (s : State) (th : Thread), Ready i s th → let m := th.active i.guard
      let A := fun L => th.lane f.a.toNat L
      ∃ th', Retires i s th' ∧
        (∀ L, L < 96 → th'.lane f.d.toNat L = if m.getLsbD L = true then laneSum m A (fun l => if exc then decide (l < L) else decide (l ≤ L)) else th.lane f.d.toNat L) ∧
        (∀ n, n ≠ f.d.toNat → th'.vreg n = th.vreg n) ∧ th'.s = th.s ∧ th'.k = th.k ∧ th'.fstat = th.fstat) ∧
    (f.md ≠ 0 → ∀ th, legalIn i th = false) ∧
    (∀ p : Instr, p.modifies i = false)

open Sys2Proof.Machine Sys2Proof.Claims Sys2Proof in
/-- The walker's orders, z outermost, and the coordinates that each gang receives (R433). -/
def Obligations.TheWalkerNumbersGangsInTheRecordedOrder : Prop :=
  ∀ o : Oper, 0 < o.gx → 0 < o.gy → o.gx < 2 ^ 32 → o.gy < 2 ^ 32 →
    (o.order = 0 → ∀ x y z, x < o.gx → y < o.gy → walkAt o ((z * o.gy + y) * o.gx + x) = (x, y, z)) ∧
    (o.order = 1 → ∀ x y z, x < o.gx → y < o.gy → walkAt o ((z * o.gx + x) * o.gy + y) = (x, y, z)) ∧
    (o.order = 2 → ∀ e z, max o.gx o.gy ≤ 2 ^ e → (∀ d, max o.gx o.gy ≤ 2 ^ d → e ≤ d) →
      (List.range (o.gx * o.gy)).map (fun k => walkAt o (z * (o.gx * o.gy) + k)) =
        ((List.range (2 ^ e * 2 ^ e)).map (fun c => (everySecond 0 c, everySecond 1 c, z))).filter (fun p => decide (p.1 < o.gx) && decide (p.2.1 < o.gy))) ∧
    (o.order = 3 → 0 < o.bx → 0 < o.by' → ∀ z,
      (List.range (o.gx * o.gy)).map (fun k => walkAt o (z * (o.gx * o.gy) + k)) =
        (blockOrder o.gx o.gy o.bx o.by').map (fun p => (p.1, p.2, z))) ∧
    (∀ (s : State) (gid q slot member fmem n : Nat) (x : Grid) (w : Option Nat), x.op = o → 6 ≤ x.ker.sregs → 6 ≤ x.ker.nibSregs ∨ w ≠ none →
      let c := walkAt o n
      let th := launchThread s gid x c q slot member fmem w
      th.s[3]? = some { val := BitVec.ofNat 32 c.1, poison := false } ∧ th.s[4]? = some { val := BitVec.ofNat 32 c.2.1, poison := false } ∧
      th.s[5]? = some { val := BitVec.ofNat 32 c.2.2, poison := false })

open Sys2Proof.Machine Sys2Proof.Claims Sys2Proof in
/-- A unit of a warp other than halt changes no memory and no other thread: stores, atomics and commands wait in their queues, and
only records in the rings are written at issue (R145, R148, R257). -/
def Obligations.UnitsOfAWarpLeaveMemoryAndOtherThreadsAlone : Prop :=
  ∀ (i : Instr) (s u : State) (th : Thread), isUnit i = true → (∀ f, i ≠ .halt f) → s.thread s.cur = some th → th.nib = false →
    th.hyp.length < 2 → ringsOff s → exec i s = .next u →
    u.mem = s.mem ∧ ∀ n, n ≠ s.cur → u.thread n = s.thread n
end

