-- ==== Sys2Proof/Laws/Arith.lean ====
section
/-! SUPPORT. The number functions of the model in terms of bit vectors: sign extension, casts, clamping, division. -/
namespace Sys2Proof.Machine

@[simp] theorem lo32_setWidth (x : Word) : lo32 (x.setWidth 64) = x := by
  unfold lo32
  apply BitVec.eq_of_getLsbD_eq
  intro i hi
  simp [hi]
  omega

@[simp] theorem lo32_signExtend (x : Word) : lo32 (x.signExtend 64) = x := by
  unfold lo32
  apply BitVec.eq_of_getLsbD_eq
  intro i hi
  simp [BitVec.getLsbD_signExtend, hi]
  omega

/-- A field from bit 0. -/
theorem fieldN_zero (x n : Nat) : fieldN x 0 n = x % 2 ^ n := by simp [fieldN]

theorem sext_toNat {w : Nat} (hw : 0 < w) (x : BitVec w) : sext x.toNat w = x.toInt := by
  unfold sext
  have h : fieldN x.toNat 0 w = x.toNat := by rw [fieldN_zero]; exact Nat.mod_eq_of_lt x.isLt
  rw [h, BitVec.toInt_eq_toNat_cond]
  obtain ⟨v, rfl⟩ : ∃ v, w = v + 1 := ⟨w - 1, by omega⟩
  simp only [Nat.add_sub_cancel]
  have e : (2 : Nat) ^ (v + 1) = 2 * 2 ^ v := by rw [Nat.pow_succ]; omega
  by_cases hc : x.toNat < 2 ^ v
  · rw [if_pos hc, if_pos (by omega)]
  · rw [if_neg hc, if_neg (by omega)]; push_cast; ring

theorem sext_word (x : Word) : sext (x.setWidth 64).toNat 32 = x.toInt := by
  have : (x.setWidth 64).toNat = x.toNat := by
    rw [BitVec.toNat_setWidth]; exact Nat.mod_eq_of_lt (by have := x.isLt; omega)
  rw [this, sext_toNat (by decide)]

theorem sext_dword (x : DWord) : sext x.toNat 64 = x.toInt := sext_toNat (by decide) x

theorem ofNat_wrapN (w : Nat) (r : Int) : BitVec.ofNat w (wrapN w r) = BitVec.ofInt w r := by
  apply BitVec.eq_of_toNat_eq
  have h0 : 0 ≤ r % 2 ^ w := Int.emod_nonneg _ (by positivity)
  have h1 : r % 2 ^ w < 2 ^ w := Int.emod_lt_of_pos _ (by positivity)
  have h2 : (r % 2 ^ w).toNat < 2 ^ w := by
    have : ((r % 2 ^ w).toNat : Int) < ((2 ^ w : Nat) : Int) := by rw [Int.toNat_of_nonneg h0]; push_cast; exact h1
    exact_mod_cast this
  unfold wrapN
  rw [BitVec.toNat_ofNat, BitVec.toNat_ofInt, Nat.mod_eq_of_lt h2]
  push_cast
  rfl

theorem lo32_wrapN (r : Int) : lo32 (BitVec.ofNat 64 (wrapN 32 r)) = BitVec.ofInt 32 r := by
  rw [← ofNat_wrapN 32 r]
  unfold lo32
  have h1 : (r % 2 ^ 32) < 2 ^ 32 := Int.emod_lt_of_pos _ (by decide)
  have h0 : 0 ≤ r % 2 ^ 32 := Int.emod_nonneg _ (by decide)
  have h2 : wrapN 32 r < 2 ^ 32 := by unfold wrapN; omega
  apply BitVec.eq_of_toNat_eq
  simp only [BitVec.extractLsb'_toNat, BitVec.toNat_ofNat, Nat.shiftRight_zero]
  omega

end Sys2Proof.Machine
end

