-- ==== Sys2Proof/Laws/Maps.lean ====
section
/-! SUPPORT. Finite maps: what a lookup finds after a change, and that the changes keep the canonical form. -/
namespace Sys2Proof.Machine.FMap
variable {α : Type}

@[simp] theorem find_nil (a : Nat) : find ([] : FMap α) a = none := rfl

@[simp] theorem find_put_same (m : FMap α) (a : Nat) (x : α) : find (put m a x) a = some x := by
  induction m with
  | nil => simp [put, find]
  | cons e r ih =>
    obtain ⟨k, v⟩ := e
    simp only [put]
    split
    · simp [find]
    · split
      · simp [find]
      · rename_i h; simp [find, h, ih]

theorem find_put_other (m : FMap α) (a b : Nat) (x : α) (h : b ≠ a) : find (put m a x) b = find m b := by
  induction m with
  | nil => simp [put, find, h]
  | cons e r ih =>
    obtain ⟨k, v⟩ := e
    simp only [put]
    split
    · simp [find, h]
    · split
      · rename_i hk; subst hk; simp [find, h]
      · simp [find, ih]

/-- Every key of a sorted map's tail lies above its head's. -/
theorem sorted_cons (k : Nat) (v : α) (r : FMap α) :
    sorted ((k, v) :: r) = true ↔ (∀ e ∈ r, k < e.1) ∧ sorted r = true := by
  induction r generalizing k v with
  | nil => simp [sorted]
  | cons e r ih =>
    obtain ⟨a, b⟩ := e
    rw [sorted, Bool.and_eq_true, decide_eq_true_iff]
    constructor
    · rintro ⟨h, hs⟩
      refine ⟨?_, hs⟩
      intro e he
      rcases List.mem_cons.1 he with rfl | he
      · exact h
      · exact Nat.lt_trans h (((ih a b).1 hs).1 e he)
    · rintro ⟨h, hs⟩
      exact ⟨h (a, b) (by simp), hs⟩

theorem mem_put (m : FMap α) (a : Nat) (x : α) (e : Nat × α) (he : e ∈ put m a x) : e = (a, x) ∨ e ∈ m := by
  induction m with
  | nil => simpa [put] using he
  | cons c r ih =>
    obtain ⟨k, v⟩ := c
    simp only [put] at he
    split at he
    · simpa using he
    · split at he
      · rcases List.mem_cons.1 he with h | h
        · exact .inl h
        · exact .inr (by simp [h])
      · rcases List.mem_cons.1 he with h | h
        · exact .inr (by simp [h])
        · rcases ih h with h | h
          · exact .inl h
          · exact .inr (by simp [h])

theorem sorted_put (m : FMap α) (a : Nat) (x : α) (h : sorted m = true) : sorted (put m a x) = true := by
  induction m with
  | nil => rfl
  | cons c r ih =>
    obtain ⟨k, v⟩ := c
    have hc := (sorted_cons k v r).1 h
    simp only [put]
    split
    · rename_i hak
      refine (sorted_cons a x _).2 ⟨?_, h⟩
      intro e he
      rcases List.mem_cons.1 he with rfl | he
      · exact hak
      · exact Nat.lt_trans hak (hc.1 e he)
    · split
      · rename_i hka
        exact (sorted_cons a x r).2 ⟨fun e he => by rw [hka]; exact hc.1 e he, hc.2⟩
      · rename_i h1 h2
        refine (sorted_cons k v _).2 ⟨?_, ih hc.2⟩
        intro e he
        rcases mem_put r a x e he with rfl | he
        · show k < a; omega
        · exact hc.1 e he

theorem sorted_filter (m : FMap α) (p : Nat × α → Bool) (h : sorted m = true) : sorted (m.filter p) = true := by
  induction m with
  | nil => rfl
  | cons c r ih =>
    obtain ⟨k, v⟩ := c
    have hc := (sorted_cons k v r).1 h
    rw [List.filter_cons]
    split
    · exact (sorted_cons k v _).2 ⟨fun e he => hc.1 e (List.mem_filter.1 he).1, ih hc.2⟩
    · exact ih hc.2

theorem sorted_del (m : FMap α) (a : Nat) (h : sorted m = true) : sorted (del m a) = true := sorted_filter m _ h

theorem find_none_of_lt (m : FMap α) (a : Nat) (h : ∀ e ∈ m, a < e.1) : find m a = none := by
  induction m with
  | nil => rfl
  | cons c r ih =>
    obtain ⟨k, v⟩ := c
    have := h (k, v) (by simp)
    simp only [find]
    rw [if_neg (by simp at this; omega)]
    exact ih (fun e he => h e (by simp [he]))

@[simp] theorem find_del_same (m : FMap α) (a : Nat) : find (del m a) a = none := by
  induction m with
  | nil => rfl
  | cons c r ih =>
    obtain ⟨k, v⟩ := c
    unfold del at *
    by_cases h : k = a
    · subst h; rw [List.filter_cons_of_neg (by simp)]; exact ih
    · rw [List.filter_cons_of_pos (by simpa using h)]
      simp only [find]; rw [if_neg (fun e => h e.symm)]; exact ih

theorem find_del_other (m : FMap α) (a b : Nat) (h : b ≠ a) : find (del m a) b = find m b := by
  induction m with
  | nil => rfl
  | cons c r ih =>
    obtain ⟨k, v⟩ := c
    unfold del at *
    by_cases hk : k = a
    · subst hk; rw [List.filter_cons_of_neg (by simp)]; simp only [find]; rw [if_neg h]; exact ih
    · rw [List.filter_cons_of_pos (by simpa using hk)]
      simp only [find]; rw [ih]

@[simp] theorem find_change_same (m : FMap α) (a : Nat) (f : α → α) : find (change m a f) a = (find m a).map f := by
  induction m with
  | nil => rfl
  | cons c r ih =>
    obtain ⟨k, v⟩ := c
    unfold change at *
    by_cases h : k = a
    · subst h; simp [find]
    · have h' : ¬ a = k := fun e => h e.symm
      simp only [List.map_cons, h, if_false, find, h']; exact ih

theorem find_change_other (m : FMap α) (a b : Nat) (f : α → α) (h : b ≠ a) : find (change m a f) b = find m b := by
  induction m with
  | nil => rfl
  | cons c r ih =>
    obtain ⟨k, v⟩ := c
    unfold change at *
    by_cases hk : k = a
    · subst hk; simp only [List.map_cons, if_true, find, h, if_false]; exact ih
    · simp only [List.map_cons, hk, if_false, find]; rw [ih]

/-- Setting an entry and then changing it sets the changed entry. -/
@[simp] theorem change_put_same (m : FMap α) (a : Nat) (x : α) (f : α → α) (hs : sorted m = true) :
    change (put m a x) a f = put m a (f x) := by
  have other : ∀ r : FMap α, (∀ e ∈ r, e.1 ≠ a) → change r a f = r := by
    intro r hr
    unfold change
    rw [List.map_congr_left (g := id) (fun e he => by simp [hr e he])]
    simp
  induction m with
  | nil => simp [put, change]
  | cons c r ih =>
    obtain ⟨k, v⟩ := c
    have hc := (sorted_cons k v r).1 hs
    simp only [put]
    split
    · rename_i hak
      have := other ((k, v) :: r) (by
        intro e he
        rcases List.mem_cons.1 he with rfl | he
        · show k ≠ a; omega
        · have := hc.1 e he; omega)
      simp only [change, List.map_cons, if_true] at this ⊢
      rw [this]
    · split
      · rename_i hka
        have := other r (fun e he => by have := hc.1 e he; omega)
        simp only [change, List.map_cons, if_true] at this ⊢
        rw [this]
      · rename_i h1 h2
        have := ih hc.2
        simp only [change, List.map_cons] at this ⊢
        rw [if_neg (fun e => h2 e.symm), this]

/-- Setting an entry twice is setting it the second time. -/
@[simp] theorem put_put (m : FMap α) (a : Nat) (x y : α) : put (put m a x) a y = put m a y := by
  induction m with
  | nil => simp [put]
  | cons c r ih =>
    obtain ⟨k, v⟩ := c
    simp only [put]
    by_cases h1 : a < k
    · simp [h1, put]
    · by_cases h2 : a = k
      · simp [h2, put]
      · simp [h1, h2, put, ih]

end Sys2Proof.Machine.FMap
end

