-- ==== Sys2Proof/Laws/State.lean ====
section
/-! SUPPORT. What the changes of the state leave alone, field by field; reading a part after writing it. -/
namespace Sys2Proof.Machine

/-! ## State.setThread -/

@[simp] theorem State.setThread_tick (s : State) (t : Nat) (x : Thread) : (s.setThread t x).tick = s.tick := rfl
@[simp] theorem State.setThread_hold (s : State) (t : Nat) (x : Thread) : (s.setThread t x).hold = s.hold := rfl
@[simp] theorem State.setThread_skip (s : State) (t : Nat) (x : Thread) : (s.setThread t x).skip = s.skip := rfl
@[simp] theorem State.setThread_cycles (s : State) (t : Nat) (x : Thread) : (s.setThread t x).cycles = s.cycles := rfl
@[simp] theorem State.setThread_boot (s : State) (t : Nat) (x : Thread) : (s.setThread t x).boot = s.boot := rfl
@[simp] theorem State.setThread_mem (s : State) (t : Nat) (x : Thread) : (s.setThread t x).mem = s.mem := rfl
@[simp] theorem State.setThread_gangs (s : State) (t : Nat) (x : Thread) : (s.setThread t x).gangs = s.gangs := rfl
@[simp] theorem State.setThread_fgangs (s : State) (t : Nat) (x : Thread) : (s.setThread t x).fgangs = s.fgangs := rfl
@[simp] theorem State.setThread_grids (s : State) (t : Nat) (x : Thread) : (s.setThread t x).grids = s.grids := rfl
@[simp] theorem State.setThread_quills (s : State) (t : Nat) (x : Thread) : (s.setThread t x).quills = s.quills := rfl
@[simp] theorem State.setThread_xl (s : State) (t : Nat) (x : Thread) : (s.setThread t x).xl = s.xl := rfl
@[simp] theorem State.setThread_st (s : State) (t : Nat) (x : Thread) : (s.setThread t x).st = s.st := rfl
@[simp] theorem State.setThread_fab (s : State) (t : Nat) (x : Thread) : (s.setThread t x).fab = s.fab := rfl
@[simp] theorem State.setThread_scrip (s : State) (t : Nat) (x : Thread) : (s.setThread t x).scrip = s.scrip := rfl
@[simp] theorem State.setThread_duct (s : State) (t : Nat) (x : Thread) : (s.setThread t x).duct = s.duct := rfl
@[simp] theorem State.setThread_pow (s : State) (t : Nat) (x : Thread) : (s.setThread t x).pow = s.pow := rfl
@[simp] theorem State.setThread_log (s : State) (t : Nat) (x : Thread) : (s.setThread t x).log = s.log := rfl
@[simp] theorem State.setThread_host (s : State) (t : Nat) (x : Thread) : (s.setThread t x).host = s.host := rfl
@[simp] theorem State.setThread_agenda (s : State) (t : Nat) (x : Thread) : (s.setThread t x).agenda = s.agenda := rfl
@[simp] theorem State.setThread_cur (s : State) (t : Nat) (x : Thread) : (s.setThread t x).cur = s.cur := rfl
@[simp] theorem State.setThread_inp (s : State) (t : Nat) (x : Thread) : (s.setThread t x).inp = s.inp := rfl
@[simp] theorem State.setThread_hung (s : State) (t : Nat) (x : Thread) : (s.setThread t x).hung = s.hung := rfl
@[simp] theorem State.setThread_free (s : State) (t : Nat) (x : Thread) : (s.setThread t x).free = s.free := rfl

/-! ## State.setGang -/

@[simp] theorem State.setGang_tick (s : State) (g : Nat) (x : Gang) : (s.setGang g x).tick = s.tick := rfl
@[simp] theorem State.setGang_hold (s : State) (g : Nat) (x : Gang) : (s.setGang g x).hold = s.hold := rfl
@[simp] theorem State.setGang_skip (s : State) (g : Nat) (x : Gang) : (s.setGang g x).skip = s.skip := rfl
@[simp] theorem State.setGang_cycles (s : State) (g : Nat) (x : Gang) : (s.setGang g x).cycles = s.cycles := rfl
@[simp] theorem State.setGang_boot (s : State) (g : Nat) (x : Gang) : (s.setGang g x).boot = s.boot := rfl
@[simp] theorem State.setGang_mem (s : State) (g : Nat) (x : Gang) : (s.setGang g x).mem = s.mem := rfl
@[simp] theorem State.setGang_threads (s : State) (g : Nat) (x : Gang) : (s.setGang g x).threads = s.threads := rfl
@[simp] theorem State.setGang_fgangs (s : State) (g : Nat) (x : Gang) : (s.setGang g x).fgangs = s.fgangs := rfl
@[simp] theorem State.setGang_grids (s : State) (g : Nat) (x : Gang) : (s.setGang g x).grids = s.grids := rfl
@[simp] theorem State.setGang_quills (s : State) (g : Nat) (x : Gang) : (s.setGang g x).quills = s.quills := rfl
@[simp] theorem State.setGang_xl (s : State) (g : Nat) (x : Gang) : (s.setGang g x).xl = s.xl := rfl
@[simp] theorem State.setGang_st (s : State) (g : Nat) (x : Gang) : (s.setGang g x).st = s.st := rfl
@[simp] theorem State.setGang_fab (s : State) (g : Nat) (x : Gang) : (s.setGang g x).fab = s.fab := rfl
@[simp] theorem State.setGang_scrip (s : State) (g : Nat) (x : Gang) : (s.setGang g x).scrip = s.scrip := rfl
@[simp] theorem State.setGang_duct (s : State) (g : Nat) (x : Gang) : (s.setGang g x).duct = s.duct := rfl
@[simp] theorem State.setGang_pow (s : State) (g : Nat) (x : Gang) : (s.setGang g x).pow = s.pow := rfl
@[simp] theorem State.setGang_log (s : State) (g : Nat) (x : Gang) : (s.setGang g x).log = s.log := rfl
@[simp] theorem State.setGang_host (s : State) (g : Nat) (x : Gang) : (s.setGang g x).host = s.host := rfl
@[simp] theorem State.setGang_agenda (s : State) (g : Nat) (x : Gang) : (s.setGang g x).agenda = s.agenda := rfl
@[simp] theorem State.setGang_cur (s : State) (g : Nat) (x : Gang) : (s.setGang g x).cur = s.cur := rfl
@[simp] theorem State.setGang_inp (s : State) (g : Nat) (x : Gang) : (s.setGang g x).inp = s.inp := rfl
@[simp] theorem State.setGang_hung (s : State) (g : Nat) (x : Gang) : (s.setGang g x).hung = s.hung := rfl
@[simp] theorem State.setGang_free (s : State) (g : Nat) (x : Gang) : (s.setGang g x).free = s.free := rfl

/-! ## State.setQuill -/

@[simp] theorem State.setQuill_tick (s : State) (q : Nat) (x : Quill) : (s.setQuill q x).tick = s.tick := rfl
@[simp] theorem State.setQuill_hold (s : State) (q : Nat) (x : Quill) : (s.setQuill q x).hold = s.hold := rfl
@[simp] theorem State.setQuill_skip (s : State) (q : Nat) (x : Quill) : (s.setQuill q x).skip = s.skip := rfl
@[simp] theorem State.setQuill_cycles (s : State) (q : Nat) (x : Quill) : (s.setQuill q x).cycles = s.cycles := rfl
@[simp] theorem State.setQuill_boot (s : State) (q : Nat) (x : Quill) : (s.setQuill q x).boot = s.boot := rfl
@[simp] theorem State.setQuill_mem (s : State) (q : Nat) (x : Quill) : (s.setQuill q x).mem = s.mem := rfl
@[simp] theorem State.setQuill_threads (s : State) (q : Nat) (x : Quill) : (s.setQuill q x).threads = s.threads := rfl
@[simp] theorem State.setQuill_gangs (s : State) (q : Nat) (x : Quill) : (s.setQuill q x).gangs = s.gangs := rfl
@[simp] theorem State.setQuill_fgangs (s : State) (q : Nat) (x : Quill) : (s.setQuill q x).fgangs = s.fgangs := rfl
@[simp] theorem State.setQuill_grids (s : State) (q : Nat) (x : Quill) : (s.setQuill q x).grids = s.grids := rfl
@[simp] theorem State.setQuill_xl (s : State) (q : Nat) (x : Quill) : (s.setQuill q x).xl = s.xl := rfl
@[simp] theorem State.setQuill_st (s : State) (q : Nat) (x : Quill) : (s.setQuill q x).st = s.st := rfl
@[simp] theorem State.setQuill_fab (s : State) (q : Nat) (x : Quill) : (s.setQuill q x).fab = s.fab := rfl
@[simp] theorem State.setQuill_scrip (s : State) (q : Nat) (x : Quill) : (s.setQuill q x).scrip = s.scrip := rfl
@[simp] theorem State.setQuill_duct (s : State) (q : Nat) (x : Quill) : (s.setQuill q x).duct = s.duct := rfl
@[simp] theorem State.setQuill_pow (s : State) (q : Nat) (x : Quill) : (s.setQuill q x).pow = s.pow := rfl
@[simp] theorem State.setQuill_log (s : State) (q : Nat) (x : Quill) : (s.setQuill q x).log = s.log := rfl
@[simp] theorem State.setQuill_host (s : State) (q : Nat) (x : Quill) : (s.setQuill q x).host = s.host := rfl
@[simp] theorem State.setQuill_agenda (s : State) (q : Nat) (x : Quill) : (s.setQuill q x).agenda = s.agenda := rfl
@[simp] theorem State.setQuill_cur (s : State) (q : Nat) (x : Quill) : (s.setQuill q x).cur = s.cur := rfl
@[simp] theorem State.setQuill_inp (s : State) (q : Nat) (x : Quill) : (s.setQuill q x).inp = s.inp := rfl
@[simp] theorem State.setQuill_hung (s : State) (q : Nat) (x : Quill) : (s.setQuill q x).hung = s.hung := rfl
@[simp] theorem State.setQuill_free (s : State) (q : Nat) (x : Quill) : (s.setQuill q x).free = s.free := rfl

/-! ## State.setQueue -/

@[simp] theorem State.setQueue_tick (s : State) (q : Nat) (x : Queue) : (s.setQueue q x).tick = s.tick := rfl
@[simp] theorem State.setQueue_hold (s : State) (q : Nat) (x : Queue) : (s.setQueue q x).hold = s.hold := rfl
@[simp] theorem State.setQueue_skip (s : State) (q : Nat) (x : Queue) : (s.setQueue q x).skip = s.skip := rfl
@[simp] theorem State.setQueue_cycles (s : State) (q : Nat) (x : Queue) : (s.setQueue q x).cycles = s.cycles := rfl
@[simp] theorem State.setQueue_boot (s : State) (q : Nat) (x : Queue) : (s.setQueue q x).boot = s.boot := rfl
@[simp] theorem State.setQueue_mem (s : State) (q : Nat) (x : Queue) : (s.setQueue q x).mem = s.mem := rfl
@[simp] theorem State.setQueue_threads (s : State) (q : Nat) (x : Queue) : (s.setQueue q x).threads = s.threads := rfl
@[simp] theorem State.setQueue_gangs (s : State) (q : Nat) (x : Queue) : (s.setQueue q x).gangs = s.gangs := rfl
@[simp] theorem State.setQueue_fgangs (s : State) (q : Nat) (x : Queue) : (s.setQueue q x).fgangs = s.fgangs := rfl
@[simp] theorem State.setQueue_grids (s : State) (q : Nat) (x : Queue) : (s.setQueue q x).grids = s.grids := rfl
@[simp] theorem State.setQueue_quills (s : State) (q : Nat) (x : Queue) : (s.setQueue q x).quills = s.quills := rfl
@[simp] theorem State.setQueue_xl (s : State) (q : Nat) (x : Queue) : (s.setQueue q x).xl = s.xl := rfl
@[simp] theorem State.setQueue_st (s : State) (q : Nat) (x : Queue) : (s.setQueue q x).st = s.st := rfl
@[simp] theorem State.setQueue_fab (s : State) (q : Nat) (x : Queue) : (s.setQueue q x).fab = s.fab := rfl
@[simp] theorem State.setQueue_duct (s : State) (q : Nat) (x : Queue) : (s.setQueue q x).duct = s.duct := rfl
@[simp] theorem State.setQueue_pow (s : State) (q : Nat) (x : Queue) : (s.setQueue q x).pow = s.pow := rfl
@[simp] theorem State.setQueue_log (s : State) (q : Nat) (x : Queue) : (s.setQueue q x).log = s.log := rfl
@[simp] theorem State.setQueue_host (s : State) (q : Nat) (x : Queue) : (s.setQueue q x).host = s.host := rfl
@[simp] theorem State.setQueue_agenda (s : State) (q : Nat) (x : Queue) : (s.setQueue q x).agenda = s.agenda := rfl
@[simp] theorem State.setQueue_cur (s : State) (q : Nat) (x : Queue) : (s.setQueue q x).cur = s.cur := rfl
@[simp] theorem State.setQueue_inp (s : State) (q : Nat) (x : Queue) : (s.setQueue q x).inp = s.inp := rfl
@[simp] theorem State.setQueue_hung (s : State) (q : Nat) (x : Queue) : (s.setQueue q x).hung = s.hung := rfl
@[simp] theorem State.setQueue_free (s : State) (q : Nat) (x : Queue) : (s.setQueue q x).free = s.free := rfl

/-! ## State.setBytes -/

@[simp] theorem State.setBytes_tick (s : State) (a : Nat) (b : List Byte) : (s.setBytes a b).tick = s.tick := rfl
@[simp] theorem State.setBytes_hold (s : State) (a : Nat) (b : List Byte) : (s.setBytes a b).hold = s.hold := rfl
@[simp] theorem State.setBytes_skip (s : State) (a : Nat) (b : List Byte) : (s.setBytes a b).skip = s.skip := rfl
@[simp] theorem State.setBytes_cycles (s : State) (a : Nat) (b : List Byte) : (s.setBytes a b).cycles = s.cycles := rfl
@[simp] theorem State.setBytes_boot (s : State) (a : Nat) (b : List Byte) : (s.setBytes a b).boot = s.boot := rfl
@[simp] theorem State.setBytes_threads (s : State) (a : Nat) (b : List Byte) : (s.setBytes a b).threads = s.threads := rfl
@[simp] theorem State.setBytes_gangs (s : State) (a : Nat) (b : List Byte) : (s.setBytes a b).gangs = s.gangs := rfl
@[simp] theorem State.setBytes_fgangs (s : State) (a : Nat) (b : List Byte) : (s.setBytes a b).fgangs = s.fgangs := rfl
@[simp] theorem State.setBytes_grids (s : State) (a : Nat) (b : List Byte) : (s.setBytes a b).grids = s.grids := rfl
@[simp] theorem State.setBytes_quills (s : State) (a : Nat) (b : List Byte) : (s.setBytes a b).quills = s.quills := rfl
@[simp] theorem State.setBytes_xl (s : State) (a : Nat) (b : List Byte) : (s.setBytes a b).xl = s.xl := rfl
@[simp] theorem State.setBytes_st (s : State) (a : Nat) (b : List Byte) : (s.setBytes a b).st = s.st := rfl
@[simp] theorem State.setBytes_fab (s : State) (a : Nat) (b : List Byte) : (s.setBytes a b).fab = s.fab := rfl
@[simp] theorem State.setBytes_scrip (s : State) (a : Nat) (b : List Byte) : (s.setBytes a b).scrip = s.scrip := rfl
@[simp] theorem State.setBytes_duct (s : State) (a : Nat) (b : List Byte) : (s.setBytes a b).duct = s.duct := rfl
@[simp] theorem State.setBytes_pow (s : State) (a : Nat) (b : List Byte) : (s.setBytes a b).pow = s.pow := rfl
@[simp] theorem State.setBytes_log (s : State) (a : Nat) (b : List Byte) : (s.setBytes a b).log = s.log := rfl
@[simp] theorem State.setBytes_host (s : State) (a : Nat) (b : List Byte) : (s.setBytes a b).host = s.host := rfl
@[simp] theorem State.setBytes_agenda (s : State) (a : Nat) (b : List Byte) : (s.setBytes a b).agenda = s.agenda := rfl
@[simp] theorem State.setBytes_cur (s : State) (a : Nat) (b : List Byte) : (s.setBytes a b).cur = s.cur := rfl
@[simp] theorem State.setBytes_inp (s : State) (a : Nat) (b : List Byte) : (s.setBytes a b).inp = s.inp := rfl
@[simp] theorem State.setBytes_hung (s : State) (a : Nat) (b : List Byte) : (s.setBytes a b).hung = s.hung := rfl
@[simp] theorem State.setBytes_free (s : State) (a : Nat) (b : List Byte) : (s.setBytes a b).free = s.free := rfl

/-! ## State.bump -/

@[simp] theorem State.bump_tick (s : State)  : (s.bump ).tick = s.tick := rfl
@[simp] theorem State.bump_hold (s : State)  : (s.bump ).hold = s.hold := rfl
@[simp] theorem State.bump_skip (s : State)  : (s.bump ).skip = s.skip := rfl
@[simp] theorem State.bump_cycles (s : State)  : (s.bump ).cycles = s.cycles := rfl
@[simp] theorem State.bump_boot (s : State)  : (s.bump ).boot = s.boot := rfl
@[simp] theorem State.bump_mem (s : State)  : (s.bump ).mem = s.mem := rfl
@[simp] theorem State.bump_threads (s : State)  : (s.bump ).threads = s.threads := rfl
@[simp] theorem State.bump_gangs (s : State)  : (s.bump ).gangs = s.gangs := rfl
@[simp] theorem State.bump_fgangs (s : State)  : (s.bump ).fgangs = s.fgangs := rfl
@[simp] theorem State.bump_grids (s : State)  : (s.bump ).grids = s.grids := rfl
@[simp] theorem State.bump_quills (s : State)  : (s.bump ).quills = s.quills := rfl
@[simp] theorem State.bump_xl (s : State)  : (s.bump ).xl = s.xl := rfl
@[simp] theorem State.bump_st (s : State)  : (s.bump ).st = s.st := rfl
@[simp] theorem State.bump_fab (s : State)  : (s.bump ).fab = s.fab := rfl
@[simp] theorem State.bump_scrip (s : State)  : (s.bump ).scrip = s.scrip := rfl
@[simp] theorem State.bump_duct (s : State)  : (s.bump ).duct = s.duct := rfl
@[simp] theorem State.bump_pow (s : State)  : (s.bump ).pow = s.pow := rfl
@[simp] theorem State.bump_log (s : State)  : (s.bump ).log = s.log := rfl
@[simp] theorem State.bump_host (s : State)  : (s.bump ).host = s.host := rfl
@[simp] theorem State.bump_agenda (s : State)  : (s.bump ).agenda = s.agenda := rfl
@[simp] theorem State.bump_cur (s : State)  : (s.bump ).cur = s.cur := rfl
@[simp] theorem State.bump_inp (s : State)  : (s.bump ).inp = s.inp := rfl
@[simp] theorem State.bump_hung (s : State)  : (s.bump ).hung = s.hung := rfl

/-! ## Parts read after a write -/

@[simp] theorem State.thread_setThread (s : State) (t : Nat) (x : Thread) : (s.setThread t x).thread t = some x :=
  FMap.find_put_same _ _ _
theorem State.thread_setThread_other (s : State) (t u : Nat) (x : Thread) (h : u ≠ t) :
    (s.setThread t x).thread u = s.thread u := FMap.find_put_other _ _ _ _ h
@[simp] theorem State.setThread_setThread (s : State) (t : Nat) (x y : Thread) :
    (s.setThread t x).setThread t y = s.setThread t y := by simp [State.setThread]
@[simp] theorem State.gang_setGang (s : State) (g : Nat) (x : Gang) : (s.setGang g x).gang g = some x :=
  FMap.find_put_same _ _ _
theorem State.gang_setGang_other (s : State) (g h : Nat) (x : Gang) (hn : h ≠ g) : (s.setGang g x).gang h = s.gang h :=
  FMap.find_put_other _ _ _ _ hn
@[simp] theorem State.quill_setQuill (s : State) (q : Nat) (x : Quill) : (s.setQuill q x).quill q = x := by
  simp [State.quill, State.setQuill]
theorem State.quill_setQuill_other (s : State) (q p : Nat) (x : Quill) (h : p ≠ q) : (s.setQuill q x).quill p = s.quill p := by
  simp [State.quill, State.setQuill, FMap.find_put_other _ _ _ _ h]
@[simp] theorem State.queue_setQueue (s : State) (q : Nat) (x : Queue) : (s.setQueue q x).queue q = x := by
  simp [State.queue, State.setQueue]
theorem State.queue_setQueue_other (s : State) (q p : Nat) (x : Queue) (h : p ≠ q) : (s.setQueue q x).queue p = s.queue p := by
  simp [State.queue, State.setQueue, FMap.find_put_other _ _ _ _ h]
@[simp] theorem State.thread_setGang (s : State) (g t : Nat) (x : Gang) : (s.setGang g x).thread t = s.thread t := rfl
@[simp] theorem State.thread_setQuill (s : State) (q t : Nat) (x : Quill) : (s.setQuill q x).thread t = s.thread t := rfl
@[simp] theorem State.gang_setThread (s : State) (g t : Nat) (x : Thread) : (s.setThread t x).gang g = s.gang g := rfl
@[simp] theorem State.gang_setQuill (s : State) (g q : Nat) (x : Quill) : (s.setQuill q x).gang g = s.gang g := rfl
@[simp] theorem State.quill_setThread (s : State) (q t : Nat) (x : Thread) : (s.setThread t x).quill q = s.quill q := rfl
@[simp] theorem State.quill_setGang (s : State) (q g : Nat) (x : Gang) : (s.setGang g x).quill q = s.quill q := rfl

theorem State.modThread_some (s : State) (t : Nat) (x : Thread) (f : Thread → Thread) (h : s.thread t = some x) :
    s.modThread t f = s.setThread t (f x) := by simp [State.modThread, h]
@[simp] theorem State.modThread_setThread (s : State) (t : Nat) (x : Thread) (f : Thread → Thread) :
    (s.setThread t x).modThread t f = s.setThread t (f x) := by simp [State.modThread]
theorem State.modGang_some (s : State) (g : Nat) (x : Gang) (f : Gang → Gang) (h : s.gang g = some x) :
    s.modGang g f = s.setGang g (f x) := by simp [State.modGang, h]

/-! ## Thread.putS -/

@[simp] theorem Thread.putS_exited (th : Thread) (n : Nat) (r : SReg) : (th.putS n r).exited = th.exited := by
  unfold Thread.putS; split <;> (try split) <;> rfl
@[simp] theorem Thread.putS_wait (th : Thread) (n : Nat) (r : SReg) : (th.putS n r).wait = th.wait := by
  unfold Thread.putS; split <;> (try split) <;> rfl
@[simp] theorem Thread.putS_latch (th : Thread) (n : Nat) (r : SReg) : (th.putS n r).latch = th.latch := by
  unfold Thread.putS; split <;> (try split) <;> rfl
@[simp] theorem Thread.putS_nib (th : Thread) (n : Nat) (r : SReg) : (th.putS n r).nib = th.nib := by
  unfold Thread.putS; split <;> (try split) <;> rfl
@[simp] theorem Thread.putS_quill (th : Thread) (n : Nat) (r : SReg) : (th.putS n r).quill = th.quill := by
  unfold Thread.putS; split <;> (try split) <;> rfl
@[simp] theorem Thread.putS_gang (th : Thread) (n : Nat) (r : SReg) : (th.putS n r).gang = th.gang := by
  unfold Thread.putS; split <;> (try split) <;> rfl
@[simp] theorem Thread.putS_slot (th : Thread) (n : Nat) (r : SReg) : (th.putS n r).slot = th.slot := by
  unfold Thread.putS; split <;> (try split) <;> rfl
@[simp] theorem Thread.putS_mode (th : Thread) (n : Nat) (r : SReg) : (th.putS n r).mode = th.mode := by
  unfold Thread.putS; split <;> (try split) <;> rfl
@[simp] theorem Thread.putS_pcH (th : Thread) (n : Nat) (r : SReg) : (th.putS n r).pcH = th.pcH := by
  unfold Thread.putS; split <;> (try split) <;> rfl
@[simp] theorem Thread.putS_pcO (th : Thread) (n : Nat) (r : SReg) : (th.putS n r).pcO = th.pcO := by
  unfold Thread.putS; split <;> (try split) <;> rfl
@[simp] theorem Thread.putS_loops (th : Thread) (n : Nat) (r : SReg) : (th.putS n r).loops = th.loops := by
  unfold Thread.putS; split <;> (try split) <;> rfl
@[simp] theorem Thread.putS_mq (th : Thread) (n : Nat) (r : SReg) : (th.putS n r).mq = th.mq := by
  unfold Thread.putS; split <;> (try split) <;> rfl
@[simp] theorem Thread.putS_sup (th : Thread) (n : Nat) (r : SReg) : (th.putS n r).sup = th.sup := by
  unfold Thread.putS; split <;> (try split) <;> rfl
@[simp] theorem Thread.putS_hyp (th : Thread) (n : Nat) (r : SReg) : (th.putS n r).hyp = th.hyp := by
  unfold Thread.putS; split <;> (try split) <;> rfl
@[simp] theorem Thread.putS_fstat (th : Thread) (n : Nat) (r : SReg) : (th.putS n r).fstat = th.fstat := by
  unfold Thread.putS; split <;> (try split) <;> rfl
@[simp] theorem Thread.putS_late (th : Thread) (n : Nat) (r : SReg) : (th.putS n r).late = th.late := by
  unfold Thread.putS; split <;> (try split) <;> rfl
@[simp] theorem Thread.putS_take (th : Thread) (n : Nat) (r : SReg) : (th.putS n r).take = th.take := by
  unfold Thread.putS; split <;> (try split) <;> rfl
@[simp] theorem Thread.putS_svec (th : Thread) (n : Nat) (r : SReg) : (th.putS n r).svec = th.svec := by
  unfold Thread.putS; split <;> (try split) <;> rfl
@[simp] theorem Thread.putS_hvec (th : Thread) (n : Nat) (r : SReg) : (th.putS n r).hvec = th.hvec := by
  unfold Thread.putS; split <;> (try split) <;> rfl
@[simp] theorem Thread.putS_uck (th : Thread) (n : Nat) (r : SReg) : (th.putS n r).uck = th.uck := by
  unfold Thread.putS; split <;> (try split) <;> rfl
@[simp] theorem Thread.putS_dqpos (th : Thread) (n : Nat) (r : SReg) : (th.putS n r).dqpos = th.dqpos := by
  unfold Thread.putS; split <;> (try split) <;> rfl
@[simp] theorem Thread.putS_seg (th : Thread) (n : Nat) (r : SReg) : (th.putS n r).seg = th.seg := by
  unfold Thread.putS; split <;> (try split) <;> rfl
@[simp] theorem Thread.putS_asid (th : Thread) (n : Nat) (r : SReg) : (th.putS n r).asid = th.asid := by
  unfold Thread.putS; split <;> (try split) <;> rfl
@[simp] theorem Thread.putS_vmid (th : Thread) (n : Nat) (r : SReg) : (th.putS n r).vmid = th.vmid := by
  unfold Thread.putS; split <;> (try split) <;> rfl
@[simp] theorem Thread.putS_rfault (th : Thread) (n : Nat) (r : SReg) : (th.putS n r).rfault = th.rfault := by
  unfold Thread.putS; split <;> (try split) <;> rfl
@[simp] theorem Thread.putS_ser (th : Thread) (n : Nat) (r : SReg) : (th.putS n r).ser = th.ser := by
  unfold Thread.putS; split <;> (try split) <;> rfl
@[simp] theorem Thread.putS_warp (th : Thread) (n : Nat) (r : SReg) : (th.putS n r).warp = th.warp := by
  unfold Thread.putS; split <;> (try split) <;> rfl
@[simp] theorem Thread.putS_prio (th : Thread) (n : Nat) (r : SReg) : (th.putS n r).prio = th.prio := by
  unfold Thread.putS; split <;> (try split) <;> rfl
@[simp] theorem Thread.putS_segFresh (th : Thread) (n : Nat) (r : SReg) : (th.putS n r).segFresh = th.segFresh := by
  unfold Thread.putS; split <;> (try split) <;> rfl
@[simp] theorem Thread.putS_atVec (th : Thread) (n : Nat) (r : SReg) : (th.putS n r).atVec = th.atVec := by
  unfold Thread.putS; split <;> (try split) <;> rfl
@[simp] theorem Thread.putS_xpat (th : Thread) (n : Nat) (r : SReg) : (th.putS n r).xpat = th.xpat := by
  unfold Thread.putS; split <;> (try split) <;> rfl
@[simp] theorem Thread.putS_phase (th : Thread) (n : Nat) (r : SReg) : (th.putS n r).phase = th.phase := by
  unfold Thread.putS; split <;> (try split) <;> rfl
@[simp] theorem Thread.putS_clkLow (th : Thread) (n : Nat) (r : SReg) : (th.putS n r).clkLow = th.clkLow := by
  unfold Thread.putS; split <;> (try split) <;> rfl
@[simp] theorem Thread.putS_wend (th : Thread) (n : Nat) (r : SReg) : (th.putS n r).wend = th.wend := by
  unfold Thread.putS; split <;> (try split) <;> rfl
@[simp] theorem Thread.putS_dlvd (th : Thread) (n : Nat) (r : SReg) : (th.putS n r).dlvd = th.dlvd := by
  unfold Thread.putS; split <;> (try split) <;> rfl

/-! ## Thread.setS -/

@[simp] theorem Thread.setS_exited (th : Thread) (n : Nat) (w : Word) : (th.setS n w).exited = th.exited := by
  simp [Thread.setS]
@[simp] theorem Thread.setS_wait (th : Thread) (n : Nat) (w : Word) : (th.setS n w).wait = th.wait := by
  simp [Thread.setS]
@[simp] theorem Thread.setS_latch (th : Thread) (n : Nat) (w : Word) : (th.setS n w).latch = th.latch := by
  simp [Thread.setS]
@[simp] theorem Thread.setS_nib (th : Thread) (n : Nat) (w : Word) : (th.setS n w).nib = th.nib := by
  simp [Thread.setS]
@[simp] theorem Thread.setS_quill (th : Thread) (n : Nat) (w : Word) : (th.setS n w).quill = th.quill := by
  simp [Thread.setS]
@[simp] theorem Thread.setS_gang (th : Thread) (n : Nat) (w : Word) : (th.setS n w).gang = th.gang := by
  simp [Thread.setS]
@[simp] theorem Thread.setS_slot (th : Thread) (n : Nat) (w : Word) : (th.setS n w).slot = th.slot := by
  simp [Thread.setS]
@[simp] theorem Thread.setS_mode (th : Thread) (n : Nat) (w : Word) : (th.setS n w).mode = th.mode := by
  simp [Thread.setS]
@[simp] theorem Thread.setS_pcH (th : Thread) (n : Nat) (w : Word) : (th.setS n w).pcH = th.pcH := by
  simp [Thread.setS]
@[simp] theorem Thread.setS_pcO (th : Thread) (n : Nat) (w : Word) : (th.setS n w).pcO = th.pcO := by
  simp [Thread.setS]
@[simp] theorem Thread.setS_loops (th : Thread) (n : Nat) (w : Word) : (th.setS n w).loops = th.loops := by
  simp [Thread.setS]
@[simp] theorem Thread.setS_mq (th : Thread) (n : Nat) (w : Word) : (th.setS n w).mq = th.mq := by
  simp [Thread.setS]
@[simp] theorem Thread.setS_sup (th : Thread) (n : Nat) (w : Word) : (th.setS n w).sup = th.sup := by
  simp [Thread.setS]
@[simp] theorem Thread.setS_hyp (th : Thread) (n : Nat) (w : Word) : (th.setS n w).hyp = th.hyp := by
  simp [Thread.setS]
@[simp] theorem Thread.setS_fstat (th : Thread) (n : Nat) (w : Word) : (th.setS n w).fstat = th.fstat := by
  simp [Thread.setS]
@[simp] theorem Thread.setS_late (th : Thread) (n : Nat) (w : Word) : (th.setS n w).late = th.late := by
  simp [Thread.setS]
@[simp] theorem Thread.setS_take (th : Thread) (n : Nat) (w : Word) : (th.setS n w).take = th.take := by
  simp [Thread.setS]
@[simp] theorem Thread.setS_svec (th : Thread) (n : Nat) (w : Word) : (th.setS n w).svec = th.svec := by
  simp [Thread.setS]
@[simp] theorem Thread.setS_hvec (th : Thread) (n : Nat) (w : Word) : (th.setS n w).hvec = th.hvec := by
  simp [Thread.setS]
@[simp] theorem Thread.setS_uck (th : Thread) (n : Nat) (w : Word) : (th.setS n w).uck = th.uck := by
  simp [Thread.setS]
@[simp] theorem Thread.setS_dqpos (th : Thread) (n : Nat) (w : Word) : (th.setS n w).dqpos = th.dqpos := by
  simp [Thread.setS]
@[simp] theorem Thread.setS_seg (th : Thread) (n : Nat) (w : Word) : (th.setS n w).seg = th.seg := by
  simp [Thread.setS]
@[simp] theorem Thread.setS_asid (th : Thread) (n : Nat) (w : Word) : (th.setS n w).asid = th.asid := by
  simp [Thread.setS]
@[simp] theorem Thread.setS_vmid (th : Thread) (n : Nat) (w : Word) : (th.setS n w).vmid = th.vmid := by
  simp [Thread.setS]
@[simp] theorem Thread.setS_rfault (th : Thread) (n : Nat) (w : Word) : (th.setS n w).rfault = th.rfault := by
  simp [Thread.setS]
@[simp] theorem Thread.setS_ser (th : Thread) (n : Nat) (w : Word) : (th.setS n w).ser = th.ser := by
  simp [Thread.setS]
@[simp] theorem Thread.setS_warp (th : Thread) (n : Nat) (w : Word) : (th.setS n w).warp = th.warp := by
  simp [Thread.setS]
@[simp] theorem Thread.setS_prio (th : Thread) (n : Nat) (w : Word) : (th.setS n w).prio = th.prio := by
  simp [Thread.setS]
@[simp] theorem Thread.setS_segFresh (th : Thread) (n : Nat) (w : Word) : (th.setS n w).segFresh = th.segFresh := by
  simp [Thread.setS]
@[simp] theorem Thread.setS_atVec (th : Thread) (n : Nat) (w : Word) : (th.setS n w).atVec = th.atVec := by
  simp [Thread.setS]
@[simp] theorem Thread.setS_xpat (th : Thread) (n : Nat) (w : Word) : (th.setS n w).xpat = th.xpat := by
  simp [Thread.setS]
@[simp] theorem Thread.setS_phase (th : Thread) (n : Nat) (w : Word) : (th.setS n w).phase = th.phase := by
  simp [Thread.setS]
@[simp] theorem Thread.setS_clkLow (th : Thread) (n : Nat) (w : Word) : (th.setS n w).clkLow = th.clkLow := by
  simp [Thread.setS]
@[simp] theorem Thread.setS_wend (th : Thread) (n : Nat) (w : Word) : (th.setS n w).wend = th.wend := by
  simp [Thread.setS]
@[simp] theorem Thread.setS_dlvd (th : Thread) (n : Nat) (w : Word) : (th.setS n w).dlvd = th.dlvd := by
  simp [Thread.setS]

/-! ## Thread.setSp -/

@[simp] theorem Thread.setSp_exited (th : Thread) (n : Nat) (x : DWord) : (th.setSp n x).exited = th.exited := by
  simp [Thread.setSp]
@[simp] theorem Thread.setSp_wait (th : Thread) (n : Nat) (x : DWord) : (th.setSp n x).wait = th.wait := by
  simp [Thread.setSp]
@[simp] theorem Thread.setSp_latch (th : Thread) (n : Nat) (x : DWord) : (th.setSp n x).latch = th.latch := by
  simp [Thread.setSp]
@[simp] theorem Thread.setSp_nib (th : Thread) (n : Nat) (x : DWord) : (th.setSp n x).nib = th.nib := by
  simp [Thread.setSp]
@[simp] theorem Thread.setSp_quill (th : Thread) (n : Nat) (x : DWord) : (th.setSp n x).quill = th.quill := by
  simp [Thread.setSp]
@[simp] theorem Thread.setSp_gang (th : Thread) (n : Nat) (x : DWord) : (th.setSp n x).gang = th.gang := by
  simp [Thread.setSp]
@[simp] theorem Thread.setSp_slot (th : Thread) (n : Nat) (x : DWord) : (th.setSp n x).slot = th.slot := by
  simp [Thread.setSp]
@[simp] theorem Thread.setSp_mode (th : Thread) (n : Nat) (x : DWord) : (th.setSp n x).mode = th.mode := by
  simp [Thread.setSp]
@[simp] theorem Thread.setSp_pcH (th : Thread) (n : Nat) (x : DWord) : (th.setSp n x).pcH = th.pcH := by
  simp [Thread.setSp]
@[simp] theorem Thread.setSp_pcO (th : Thread) (n : Nat) (x : DWord) : (th.setSp n x).pcO = th.pcO := by
  simp [Thread.setSp]
@[simp] theorem Thread.setSp_loops (th : Thread) (n : Nat) (x : DWord) : (th.setSp n x).loops = th.loops := by
  simp [Thread.setSp]
@[simp] theorem Thread.setSp_mq (th : Thread) (n : Nat) (x : DWord) : (th.setSp n x).mq = th.mq := by
  simp [Thread.setSp]
@[simp] theorem Thread.setSp_sup (th : Thread) (n : Nat) (x : DWord) : (th.setSp n x).sup = th.sup := by
  simp [Thread.setSp]
@[simp] theorem Thread.setSp_hyp (th : Thread) (n : Nat) (x : DWord) : (th.setSp n x).hyp = th.hyp := by
  simp [Thread.setSp]
@[simp] theorem Thread.setSp_fstat (th : Thread) (n : Nat) (x : DWord) : (th.setSp n x).fstat = th.fstat := by
  simp [Thread.setSp]
@[simp] theorem Thread.setSp_late (th : Thread) (n : Nat) (x : DWord) : (th.setSp n x).late = th.late := by
  simp [Thread.setSp]
@[simp] theorem Thread.setSp_take (th : Thread) (n : Nat) (x : DWord) : (th.setSp n x).take = th.take := by
  simp [Thread.setSp]
@[simp] theorem Thread.setSp_svec (th : Thread) (n : Nat) (x : DWord) : (th.setSp n x).svec = th.svec := by
  simp [Thread.setSp]
@[simp] theorem Thread.setSp_hvec (th : Thread) (n : Nat) (x : DWord) : (th.setSp n x).hvec = th.hvec := by
  simp [Thread.setSp]
@[simp] theorem Thread.setSp_uck (th : Thread) (n : Nat) (x : DWord) : (th.setSp n x).uck = th.uck := by
  simp [Thread.setSp]
@[simp] theorem Thread.setSp_dqpos (th : Thread) (n : Nat) (x : DWord) : (th.setSp n x).dqpos = th.dqpos := by
  simp [Thread.setSp]
@[simp] theorem Thread.setSp_seg (th : Thread) (n : Nat) (x : DWord) : (th.setSp n x).seg = th.seg := by
  simp [Thread.setSp]
@[simp] theorem Thread.setSp_asid (th : Thread) (n : Nat) (x : DWord) : (th.setSp n x).asid = th.asid := by
  simp [Thread.setSp]
@[simp] theorem Thread.setSp_vmid (th : Thread) (n : Nat) (x : DWord) : (th.setSp n x).vmid = th.vmid := by
  simp [Thread.setSp]
@[simp] theorem Thread.setSp_rfault (th : Thread) (n : Nat) (x : DWord) : (th.setSp n x).rfault = th.rfault := by
  simp [Thread.setSp]
@[simp] theorem Thread.setSp_ser (th : Thread) (n : Nat) (x : DWord) : (th.setSp n x).ser = th.ser := by
  simp [Thread.setSp]
@[simp] theorem Thread.setSp_warp (th : Thread) (n : Nat) (x : DWord) : (th.setSp n x).warp = th.warp := by
  simp [Thread.setSp]
@[simp] theorem Thread.setSp_prio (th : Thread) (n : Nat) (x : DWord) : (th.setSp n x).prio = th.prio := by
  simp [Thread.setSp]
@[simp] theorem Thread.setSp_segFresh (th : Thread) (n : Nat) (x : DWord) : (th.setSp n x).segFresh = th.segFresh := by
  simp [Thread.setSp]
@[simp] theorem Thread.setSp_atVec (th : Thread) (n : Nat) (x : DWord) : (th.setSp n x).atVec = th.atVec := by
  simp [Thread.setSp]
@[simp] theorem Thread.setSp_xpat (th : Thread) (n : Nat) (x : DWord) : (th.setSp n x).xpat = th.xpat := by
  simp [Thread.setSp]
@[simp] theorem Thread.setSp_phase (th : Thread) (n : Nat) (x : DWord) : (th.setSp n x).phase = th.phase := by
  simp [Thread.setSp]
@[simp] theorem Thread.setSp_clkLow (th : Thread) (n : Nat) (x : DWord) : (th.setSp n x).clkLow = th.clkLow := by
  simp [Thread.setSp]
@[simp] theorem Thread.setSp_wend (th : Thread) (n : Nat) (x : DWord) : (th.setSp n x).wend = th.wend := by
  simp [Thread.setSp]
@[simp] theorem Thread.setSp_dlvd (th : Thread) (n : Nat) (x : DWord) : (th.setSp n x).dlvd = th.dlvd := by
  simp [Thread.setSp]

/-! ## Thread.setSx -/

@[simp] theorem Thread.setSx_exited (th : Thread) (p : Bool) (n : Nat) (x : DWord) : (th.setSx p n x).exited = th.exited := by
  unfold Thread.setSx; split <;> simp
@[simp] theorem Thread.setSx_wait (th : Thread) (p : Bool) (n : Nat) (x : DWord) : (th.setSx p n x).wait = th.wait := by
  unfold Thread.setSx; split <;> simp
@[simp] theorem Thread.setSx_latch (th : Thread) (p : Bool) (n : Nat) (x : DWord) : (th.setSx p n x).latch = th.latch := by
  unfold Thread.setSx; split <;> simp
@[simp] theorem Thread.setSx_nib (th : Thread) (p : Bool) (n : Nat) (x : DWord) : (th.setSx p n x).nib = th.nib := by
  unfold Thread.setSx; split <;> simp
@[simp] theorem Thread.setSx_quill (th : Thread) (p : Bool) (n : Nat) (x : DWord) : (th.setSx p n x).quill = th.quill := by
  unfold Thread.setSx; split <;> simp
@[simp] theorem Thread.setSx_gang (th : Thread) (p : Bool) (n : Nat) (x : DWord) : (th.setSx p n x).gang = th.gang := by
  unfold Thread.setSx; split <;> simp
@[simp] theorem Thread.setSx_slot (th : Thread) (p : Bool) (n : Nat) (x : DWord) : (th.setSx p n x).slot = th.slot := by
  unfold Thread.setSx; split <;> simp
@[simp] theorem Thread.setSx_mode (th : Thread) (p : Bool) (n : Nat) (x : DWord) : (th.setSx p n x).mode = th.mode := by
  unfold Thread.setSx; split <;> simp
@[simp] theorem Thread.setSx_pcH (th : Thread) (p : Bool) (n : Nat) (x : DWord) : (th.setSx p n x).pcH = th.pcH := by
  unfold Thread.setSx; split <;> simp
@[simp] theorem Thread.setSx_pcO (th : Thread) (p : Bool) (n : Nat) (x : DWord) : (th.setSx p n x).pcO = th.pcO := by
  unfold Thread.setSx; split <;> simp
@[simp] theorem Thread.setSx_loops (th : Thread) (p : Bool) (n : Nat) (x : DWord) : (th.setSx p n x).loops = th.loops := by
  unfold Thread.setSx; split <;> simp
@[simp] theorem Thread.setSx_mq (th : Thread) (p : Bool) (n : Nat) (x : DWord) : (th.setSx p n x).mq = th.mq := by
  unfold Thread.setSx; split <;> simp
@[simp] theorem Thread.setSx_sup (th : Thread) (p : Bool) (n : Nat) (x : DWord) : (th.setSx p n x).sup = th.sup := by
  unfold Thread.setSx; split <;> simp
@[simp] theorem Thread.setSx_hyp (th : Thread) (p : Bool) (n : Nat) (x : DWord) : (th.setSx p n x).hyp = th.hyp := by
  unfold Thread.setSx; split <;> simp
@[simp] theorem Thread.setSx_fstat (th : Thread) (p : Bool) (n : Nat) (x : DWord) : (th.setSx p n x).fstat = th.fstat := by
  unfold Thread.setSx; split <;> simp
@[simp] theorem Thread.setSx_late (th : Thread) (p : Bool) (n : Nat) (x : DWord) : (th.setSx p n x).late = th.late := by
  unfold Thread.setSx; split <;> simp
@[simp] theorem Thread.setSx_take (th : Thread) (p : Bool) (n : Nat) (x : DWord) : (th.setSx p n x).take = th.take := by
  unfold Thread.setSx; split <;> simp
@[simp] theorem Thread.setSx_svec (th : Thread) (p : Bool) (n : Nat) (x : DWord) : (th.setSx p n x).svec = th.svec := by
  unfold Thread.setSx; split <;> simp
@[simp] theorem Thread.setSx_hvec (th : Thread) (p : Bool) (n : Nat) (x : DWord) : (th.setSx p n x).hvec = th.hvec := by
  unfold Thread.setSx; split <;> simp
@[simp] theorem Thread.setSx_uck (th : Thread) (p : Bool) (n : Nat) (x : DWord) : (th.setSx p n x).uck = th.uck := by
  unfold Thread.setSx; split <;> simp
@[simp] theorem Thread.setSx_dqpos (th : Thread) (p : Bool) (n : Nat) (x : DWord) : (th.setSx p n x).dqpos = th.dqpos := by
  unfold Thread.setSx; split <;> simp
@[simp] theorem Thread.setSx_seg (th : Thread) (p : Bool) (n : Nat) (x : DWord) : (th.setSx p n x).seg = th.seg := by
  unfold Thread.setSx; split <;> simp
@[simp] theorem Thread.setSx_asid (th : Thread) (p : Bool) (n : Nat) (x : DWord) : (th.setSx p n x).asid = th.asid := by
  unfold Thread.setSx; split <;> simp
@[simp] theorem Thread.setSx_vmid (th : Thread) (p : Bool) (n : Nat) (x : DWord) : (th.setSx p n x).vmid = th.vmid := by
  unfold Thread.setSx; split <;> simp
@[simp] theorem Thread.setSx_rfault (th : Thread) (p : Bool) (n : Nat) (x : DWord) : (th.setSx p n x).rfault = th.rfault := by
  unfold Thread.setSx; split <;> simp
@[simp] theorem Thread.setSx_ser (th : Thread) (p : Bool) (n : Nat) (x : DWord) : (th.setSx p n x).ser = th.ser := by
  unfold Thread.setSx; split <;> simp
@[simp] theorem Thread.setSx_warp (th : Thread) (p : Bool) (n : Nat) (x : DWord) : (th.setSx p n x).warp = th.warp := by
  unfold Thread.setSx; split <;> simp
@[simp] theorem Thread.setSx_prio (th : Thread) (p : Bool) (n : Nat) (x : DWord) : (th.setSx p n x).prio = th.prio := by
  unfold Thread.setSx; split <;> simp
@[simp] theorem Thread.setSx_segFresh (th : Thread) (p : Bool) (n : Nat) (x : DWord) : (th.setSx p n x).segFresh = th.segFresh := by
  unfold Thread.setSx; split <;> simp
@[simp] theorem Thread.setSx_atVec (th : Thread) (p : Bool) (n : Nat) (x : DWord) : (th.setSx p n x).atVec = th.atVec := by
  unfold Thread.setSx; split <;> simp
@[simp] theorem Thread.setSx_xpat (th : Thread) (p : Bool) (n : Nat) (x : DWord) : (th.setSx p n x).xpat = th.xpat := by
  unfold Thread.setSx; split <;> simp
@[simp] theorem Thread.setSx_phase (th : Thread) (p : Bool) (n : Nat) (x : DWord) : (th.setSx p n x).phase = th.phase := by
  unfold Thread.setSx; split <;> simp
@[simp] theorem Thread.setSx_clkLow (th : Thread) (p : Bool) (n : Nat) (x : DWord) : (th.setSx p n x).clkLow = th.clkLow := by
  unfold Thread.setSx; split <;> simp
@[simp] theorem Thread.setSx_wend (th : Thread) (p : Bool) (n : Nat) (x : DWord) : (th.setSx p n x).wend = th.wend := by
  unfold Thread.setSx; split <;> simp
@[simp] theorem Thread.setSx_dlvd (th : Thread) (p : Bool) (n : Nat) (x : DWord) : (th.setSx p n x).dlvd = th.dlvd := by
  unfold Thread.setSx; split <;> simp

/-! ## Thread.setMask -/

@[simp] theorem Thread.setMask_exited (th : Thread) (m : Mask) : (th.setMask m).exited = th.exited := rfl
@[simp] theorem Thread.setMask_wait (th : Thread) (m : Mask) : (th.setMask m).wait = th.wait := rfl
@[simp] theorem Thread.setMask_latch (th : Thread) (m : Mask) : (th.setMask m).latch = th.latch := rfl
@[simp] theorem Thread.setMask_nib (th : Thread) (m : Mask) : (th.setMask m).nib = th.nib := rfl
@[simp] theorem Thread.setMask_quill (th : Thread) (m : Mask) : (th.setMask m).quill = th.quill := rfl
@[simp] theorem Thread.setMask_gang (th : Thread) (m : Mask) : (th.setMask m).gang = th.gang := rfl
@[simp] theorem Thread.setMask_slot (th : Thread) (m : Mask) : (th.setMask m).slot = th.slot := rfl
@[simp] theorem Thread.setMask_mode (th : Thread) (m : Mask) : (th.setMask m).mode = th.mode := rfl
@[simp] theorem Thread.setMask_pcH (th : Thread) (m : Mask) : (th.setMask m).pcH = th.pcH := rfl
@[simp] theorem Thread.setMask_pcO (th : Thread) (m : Mask) : (th.setMask m).pcO = th.pcO := rfl
@[simp] theorem Thread.setMask_loops (th : Thread) (m : Mask) : (th.setMask m).loops = th.loops := rfl
@[simp] theorem Thread.setMask_mq (th : Thread) (m : Mask) : (th.setMask m).mq = th.mq := rfl
@[simp] theorem Thread.setMask_sup (th : Thread) (m : Mask) : (th.setMask m).sup = th.sup := rfl
@[simp] theorem Thread.setMask_hyp (th : Thread) (m : Mask) : (th.setMask m).hyp = th.hyp := rfl
@[simp] theorem Thread.setMask_fstat (th : Thread) (m : Mask) : (th.setMask m).fstat = th.fstat := rfl
@[simp] theorem Thread.setMask_late (th : Thread) (m : Mask) : (th.setMask m).late = th.late := rfl
@[simp] theorem Thread.setMask_take (th : Thread) (m : Mask) : (th.setMask m).take = th.take := rfl
@[simp] theorem Thread.setMask_svec (th : Thread) (m : Mask) : (th.setMask m).svec = th.svec := rfl
@[simp] theorem Thread.setMask_hvec (th : Thread) (m : Mask) : (th.setMask m).hvec = th.hvec := rfl
@[simp] theorem Thread.setMask_uck (th : Thread) (m : Mask) : (th.setMask m).uck = th.uck := rfl
@[simp] theorem Thread.setMask_dqpos (th : Thread) (m : Mask) : (th.setMask m).dqpos = th.dqpos := rfl
@[simp] theorem Thread.setMask_seg (th : Thread) (m : Mask) : (th.setMask m).seg = th.seg := rfl
@[simp] theorem Thread.setMask_asid (th : Thread) (m : Mask) : (th.setMask m).asid = th.asid := rfl
@[simp] theorem Thread.setMask_vmid (th : Thread) (m : Mask) : (th.setMask m).vmid = th.vmid := rfl
@[simp] theorem Thread.setMask_rfault (th : Thread) (m : Mask) : (th.setMask m).rfault = th.rfault := rfl
@[simp] theorem Thread.setMask_ser (th : Thread) (m : Mask) : (th.setMask m).ser = th.ser := rfl
@[simp] theorem Thread.setMask_warp (th : Thread) (m : Mask) : (th.setMask m).warp = th.warp := rfl
@[simp] theorem Thread.setMask_prio (th : Thread) (m : Mask) : (th.setMask m).prio = th.prio := rfl
@[simp] theorem Thread.setMask_segFresh (th : Thread) (m : Mask) : (th.setMask m).segFresh = th.segFresh := rfl
@[simp] theorem Thread.setMask_atVec (th : Thread) (m : Mask) : (th.setMask m).atVec = th.atVec := rfl
@[simp] theorem Thread.setMask_xpat (th : Thread) (m : Mask) : (th.setMask m).xpat = th.xpat := rfl
@[simp] theorem Thread.setMask_phase (th : Thread) (m : Mask) : (th.setMask m).phase = th.phase := rfl
@[simp] theorem Thread.setMask_clkLow (th : Thread) (m : Mask) : (th.setMask m).clkLow = th.clkLow := rfl
@[simp] theorem Thread.setMask_wend (th : Thread) (m : Mask) : (th.setMask m).wend = th.wend := rfl
@[simp] theorem Thread.setMask_dlvd (th : Thread) (m : Mask) : (th.setMask m).dlvd = th.dlvd := rfl

/-! ## Thread.setK -/

@[simp] theorem Thread.setK_exited (th : Thread) (n : Nat) (m : Mask) : (th.setK n m).exited = th.exited := rfl
@[simp] theorem Thread.setK_wait (th : Thread) (n : Nat) (m : Mask) : (th.setK n m).wait = th.wait := rfl
@[simp] theorem Thread.setK_latch (th : Thread) (n : Nat) (m : Mask) : (th.setK n m).latch = th.latch := rfl
@[simp] theorem Thread.setK_nib (th : Thread) (n : Nat) (m : Mask) : (th.setK n m).nib = th.nib := rfl
@[simp] theorem Thread.setK_quill (th : Thread) (n : Nat) (m : Mask) : (th.setK n m).quill = th.quill := rfl
@[simp] theorem Thread.setK_gang (th : Thread) (n : Nat) (m : Mask) : (th.setK n m).gang = th.gang := rfl
@[simp] theorem Thread.setK_slot (th : Thread) (n : Nat) (m : Mask) : (th.setK n m).slot = th.slot := rfl
@[simp] theorem Thread.setK_mode (th : Thread) (n : Nat) (m : Mask) : (th.setK n m).mode = th.mode := rfl
@[simp] theorem Thread.setK_pcH (th : Thread) (n : Nat) (m : Mask) : (th.setK n m).pcH = th.pcH := rfl
@[simp] theorem Thread.setK_pcO (th : Thread) (n : Nat) (m : Mask) : (th.setK n m).pcO = th.pcO := rfl
@[simp] theorem Thread.setK_loops (th : Thread) (n : Nat) (m : Mask) : (th.setK n m).loops = th.loops := rfl
@[simp] theorem Thread.setK_mq (th : Thread) (n : Nat) (m : Mask) : (th.setK n m).mq = th.mq := rfl
@[simp] theorem Thread.setK_sup (th : Thread) (n : Nat) (m : Mask) : (th.setK n m).sup = th.sup := rfl
@[simp] theorem Thread.setK_hyp (th : Thread) (n : Nat) (m : Mask) : (th.setK n m).hyp = th.hyp := rfl
@[simp] theorem Thread.setK_fstat (th : Thread) (n : Nat) (m : Mask) : (th.setK n m).fstat = th.fstat := rfl
@[simp] theorem Thread.setK_late (th : Thread) (n : Nat) (m : Mask) : (th.setK n m).late = th.late := rfl
@[simp] theorem Thread.setK_take (th : Thread) (n : Nat) (m : Mask) : (th.setK n m).take = th.take := rfl
@[simp] theorem Thread.setK_svec (th : Thread) (n : Nat) (m : Mask) : (th.setK n m).svec = th.svec := rfl
@[simp] theorem Thread.setK_hvec (th : Thread) (n : Nat) (m : Mask) : (th.setK n m).hvec = th.hvec := rfl
@[simp] theorem Thread.setK_uck (th : Thread) (n : Nat) (m : Mask) : (th.setK n m).uck = th.uck := rfl
@[simp] theorem Thread.setK_dqpos (th : Thread) (n : Nat) (m : Mask) : (th.setK n m).dqpos = th.dqpos := rfl
@[simp] theorem Thread.setK_seg (th : Thread) (n : Nat) (m : Mask) : (th.setK n m).seg = th.seg := rfl
@[simp] theorem Thread.setK_asid (th : Thread) (n : Nat) (m : Mask) : (th.setK n m).asid = th.asid := rfl
@[simp] theorem Thread.setK_vmid (th : Thread) (n : Nat) (m : Mask) : (th.setK n m).vmid = th.vmid := rfl
@[simp] theorem Thread.setK_rfault (th : Thread) (n : Nat) (m : Mask) : (th.setK n m).rfault = th.rfault := rfl
@[simp] theorem Thread.setK_ser (th : Thread) (n : Nat) (m : Mask) : (th.setK n m).ser = th.ser := rfl
@[simp] theorem Thread.setK_warp (th : Thread) (n : Nat) (m : Mask) : (th.setK n m).warp = th.warp := rfl
@[simp] theorem Thread.setK_prio (th : Thread) (n : Nat) (m : Mask) : (th.setK n m).prio = th.prio := rfl
@[simp] theorem Thread.setK_segFresh (th : Thread) (n : Nat) (m : Mask) : (th.setK n m).segFresh = th.segFresh := rfl
@[simp] theorem Thread.setK_atVec (th : Thread) (n : Nat) (m : Mask) : (th.setK n m).atVec = th.atVec := rfl
@[simp] theorem Thread.setK_xpat (th : Thread) (n : Nat) (m : Mask) : (th.setK n m).xpat = th.xpat := rfl
@[simp] theorem Thread.setK_phase (th : Thread) (n : Nat) (m : Mask) : (th.setK n m).phase = th.phase := rfl
@[simp] theorem Thread.setK_clkLow (th : Thread) (n : Nat) (m : Mask) : (th.setK n m).clkLow = th.clkLow := rfl
@[simp] theorem Thread.setK_wend (th : Thread) (n : Nat) (m : Mask) : (th.setK n m).wend = th.wend := rfl
@[simp] theorem Thread.setK_dlvd (th : Thread) (n : Nat) (m : Mask) : (th.setK n m).dlvd = th.dlvd := rfl

/-! ## Thread.setV -/

@[simp] theorem Thread.setV_exited (th : Thread) (n : Nat) (m : Mask) (f : Nat → Word) : (th.setV n m f).exited = th.exited := by
  unfold Thread.setV; split <;> rfl
@[simp] theorem Thread.setV_wait (th : Thread) (n : Nat) (m : Mask) (f : Nat → Word) : (th.setV n m f).wait = th.wait := by
  unfold Thread.setV; split <;> rfl
@[simp] theorem Thread.setV_latch (th : Thread) (n : Nat) (m : Mask) (f : Nat → Word) : (th.setV n m f).latch = th.latch := by
  unfold Thread.setV; split <;> rfl
@[simp] theorem Thread.setV_nib (th : Thread) (n : Nat) (m : Mask) (f : Nat → Word) : (th.setV n m f).nib = th.nib := by
  unfold Thread.setV; split <;> rfl
@[simp] theorem Thread.setV_quill (th : Thread) (n : Nat) (m : Mask) (f : Nat → Word) : (th.setV n m f).quill = th.quill := by
  unfold Thread.setV; split <;> rfl
@[simp] theorem Thread.setV_gang (th : Thread) (n : Nat) (m : Mask) (f : Nat → Word) : (th.setV n m f).gang = th.gang := by
  unfold Thread.setV; split <;> rfl
@[simp] theorem Thread.setV_slot (th : Thread) (n : Nat) (m : Mask) (f : Nat → Word) : (th.setV n m f).slot = th.slot := by
  unfold Thread.setV; split <;> rfl
@[simp] theorem Thread.setV_mode (th : Thread) (n : Nat) (m : Mask) (f : Nat → Word) : (th.setV n m f).mode = th.mode := by
  unfold Thread.setV; split <;> rfl
@[simp] theorem Thread.setV_pcH (th : Thread) (n : Nat) (m : Mask) (f : Nat → Word) : (th.setV n m f).pcH = th.pcH := by
  unfold Thread.setV; split <;> rfl
@[simp] theorem Thread.setV_pcO (th : Thread) (n : Nat) (m : Mask) (f : Nat → Word) : (th.setV n m f).pcO = th.pcO := by
  unfold Thread.setV; split <;> rfl
@[simp] theorem Thread.setV_loops (th : Thread) (n : Nat) (m : Mask) (f : Nat → Word) : (th.setV n m f).loops = th.loops := by
  unfold Thread.setV; split <;> rfl
@[simp] theorem Thread.setV_mq (th : Thread) (n : Nat) (m : Mask) (f : Nat → Word) : (th.setV n m f).mq = th.mq := by
  unfold Thread.setV; split <;> rfl
@[simp] theorem Thread.setV_sup (th : Thread) (n : Nat) (m : Mask) (f : Nat → Word) : (th.setV n m f).sup = th.sup := by
  unfold Thread.setV; split <;> rfl
@[simp] theorem Thread.setV_hyp (th : Thread) (n : Nat) (m : Mask) (f : Nat → Word) : (th.setV n m f).hyp = th.hyp := by
  unfold Thread.setV; split <;> rfl
@[simp] theorem Thread.setV_fstat (th : Thread) (n : Nat) (m : Mask) (f : Nat → Word) : (th.setV n m f).fstat = th.fstat := by
  unfold Thread.setV; split <;> rfl
@[simp] theorem Thread.setV_late (th : Thread) (n : Nat) (m : Mask) (f : Nat → Word) : (th.setV n m f).late = th.late := by
  unfold Thread.setV; split <;> rfl
@[simp] theorem Thread.setV_take (th : Thread) (n : Nat) (m : Mask) (f : Nat → Word) : (th.setV n m f).take = th.take := by
  unfold Thread.setV; split <;> rfl
@[simp] theorem Thread.setV_svec (th : Thread) (n : Nat) (m : Mask) (f : Nat → Word) : (th.setV n m f).svec = th.svec := by
  unfold Thread.setV; split <;> rfl
@[simp] theorem Thread.setV_hvec (th : Thread) (n : Nat) (m : Mask) (f : Nat → Word) : (th.setV n m f).hvec = th.hvec := by
  unfold Thread.setV; split <;> rfl
@[simp] theorem Thread.setV_uck (th : Thread) (n : Nat) (m : Mask) (f : Nat → Word) : (th.setV n m f).uck = th.uck := by
  unfold Thread.setV; split <;> rfl
@[simp] theorem Thread.setV_dqpos (th : Thread) (n : Nat) (m : Mask) (f : Nat → Word) : (th.setV n m f).dqpos = th.dqpos := by
  unfold Thread.setV; split <;> rfl
@[simp] theorem Thread.setV_seg (th : Thread) (n : Nat) (m : Mask) (f : Nat → Word) : (th.setV n m f).seg = th.seg := by
  unfold Thread.setV; split <;> rfl
@[simp] theorem Thread.setV_asid (th : Thread) (n : Nat) (m : Mask) (f : Nat → Word) : (th.setV n m f).asid = th.asid := by
  unfold Thread.setV; split <;> rfl
@[simp] theorem Thread.setV_vmid (th : Thread) (n : Nat) (m : Mask) (f : Nat → Word) : (th.setV n m f).vmid = th.vmid := by
  unfold Thread.setV; split <;> rfl
@[simp] theorem Thread.setV_rfault (th : Thread) (n : Nat) (m : Mask) (f : Nat → Word) : (th.setV n m f).rfault = th.rfault := by
  unfold Thread.setV; split <;> rfl
@[simp] theorem Thread.setV_ser (th : Thread) (n : Nat) (m : Mask) (f : Nat → Word) : (th.setV n m f).ser = th.ser := by
  unfold Thread.setV; split <;> rfl
@[simp] theorem Thread.setV_warp (th : Thread) (n : Nat) (m : Mask) (f : Nat → Word) : (th.setV n m f).warp = th.warp := by
  unfold Thread.setV; split <;> rfl
@[simp] theorem Thread.setV_prio (th : Thread) (n : Nat) (m : Mask) (f : Nat → Word) : (th.setV n m f).prio = th.prio := by
  unfold Thread.setV; split <;> rfl
@[simp] theorem Thread.setV_segFresh (th : Thread) (n : Nat) (m : Mask) (f : Nat → Word) : (th.setV n m f).segFresh = th.segFresh := by
  unfold Thread.setV; split <;> rfl
@[simp] theorem Thread.setV_atVec (th : Thread) (n : Nat) (m : Mask) (f : Nat → Word) : (th.setV n m f).atVec = th.atVec := by
  unfold Thread.setV; split <;> rfl
@[simp] theorem Thread.setV_xpat (th : Thread) (n : Nat) (m : Mask) (f : Nat → Word) : (th.setV n m f).xpat = th.xpat := by
  unfold Thread.setV; split <;> rfl
@[simp] theorem Thread.setV_phase (th : Thread) (n : Nat) (m : Mask) (f : Nat → Word) : (th.setV n m f).phase = th.phase := by
  unfold Thread.setV; split <;> rfl
@[simp] theorem Thread.setV_clkLow (th : Thread) (n : Nat) (m : Mask) (f : Nat → Word) : (th.setV n m f).clkLow = th.clkLow := by
  unfold Thread.setV; split <;> rfl
@[simp] theorem Thread.setV_wend (th : Thread) (n : Nat) (m : Mask) (f : Nat → Word) : (th.setV n m f).wend = th.wend := by
  unfold Thread.setV; split <;> rfl
@[simp] theorem Thread.setV_dlvd (th : Thread) (n : Nat) (m : Mask) (f : Nat → Word) : (th.setV n m f).dlvd = th.dlvd := by
  unfold Thread.setV; split <;> rfl

/-! ## Thread.setVp -/

@[simp] theorem Thread.setVp_exited (th : Thread) (n : Nat) (m : Mask) (f : Nat → DWord) : (th.setVp n m f).exited = th.exited := by
  simp [Thread.setVp]
@[simp] theorem Thread.setVp_wait (th : Thread) (n : Nat) (m : Mask) (f : Nat → DWord) : (th.setVp n m f).wait = th.wait := by
  simp [Thread.setVp]
@[simp] theorem Thread.setVp_latch (th : Thread) (n : Nat) (m : Mask) (f : Nat → DWord) : (th.setVp n m f).latch = th.latch := by
  simp [Thread.setVp]
@[simp] theorem Thread.setVp_nib (th : Thread) (n : Nat) (m : Mask) (f : Nat → DWord) : (th.setVp n m f).nib = th.nib := by
  simp [Thread.setVp]
@[simp] theorem Thread.setVp_quill (th : Thread) (n : Nat) (m : Mask) (f : Nat → DWord) : (th.setVp n m f).quill = th.quill := by
  simp [Thread.setVp]
@[simp] theorem Thread.setVp_gang (th : Thread) (n : Nat) (m : Mask) (f : Nat → DWord) : (th.setVp n m f).gang = th.gang := by
  simp [Thread.setVp]
@[simp] theorem Thread.setVp_slot (th : Thread) (n : Nat) (m : Mask) (f : Nat → DWord) : (th.setVp n m f).slot = th.slot := by
  simp [Thread.setVp]
@[simp] theorem Thread.setVp_mode (th : Thread) (n : Nat) (m : Mask) (f : Nat → DWord) : (th.setVp n m f).mode = th.mode := by
  simp [Thread.setVp]
@[simp] theorem Thread.setVp_pcH (th : Thread) (n : Nat) (m : Mask) (f : Nat → DWord) : (th.setVp n m f).pcH = th.pcH := by
  simp [Thread.setVp]
@[simp] theorem Thread.setVp_pcO (th : Thread) (n : Nat) (m : Mask) (f : Nat → DWord) : (th.setVp n m f).pcO = th.pcO := by
  simp [Thread.setVp]
@[simp] theorem Thread.setVp_loops (th : Thread) (n : Nat) (m : Mask) (f : Nat → DWord) : (th.setVp n m f).loops = th.loops := by
  simp [Thread.setVp]
@[simp] theorem Thread.setVp_mq (th : Thread) (n : Nat) (m : Mask) (f : Nat → DWord) : (th.setVp n m f).mq = th.mq := by
  simp [Thread.setVp]
@[simp] theorem Thread.setVp_sup (th : Thread) (n : Nat) (m : Mask) (f : Nat → DWord) : (th.setVp n m f).sup = th.sup := by
  simp [Thread.setVp]
@[simp] theorem Thread.setVp_hyp (th : Thread) (n : Nat) (m : Mask) (f : Nat → DWord) : (th.setVp n m f).hyp = th.hyp := by
  simp [Thread.setVp]
@[simp] theorem Thread.setVp_fstat (th : Thread) (n : Nat) (m : Mask) (f : Nat → DWord) : (th.setVp n m f).fstat = th.fstat := by
  simp [Thread.setVp]
@[simp] theorem Thread.setVp_late (th : Thread) (n : Nat) (m : Mask) (f : Nat → DWord) : (th.setVp n m f).late = th.late := by
  simp [Thread.setVp]
@[simp] theorem Thread.setVp_take (th : Thread) (n : Nat) (m : Mask) (f : Nat → DWord) : (th.setVp n m f).take = th.take := by
  simp [Thread.setVp]
@[simp] theorem Thread.setVp_svec (th : Thread) (n : Nat) (m : Mask) (f : Nat → DWord) : (th.setVp n m f).svec = th.svec := by
  simp [Thread.setVp]
@[simp] theorem Thread.setVp_hvec (th : Thread) (n : Nat) (m : Mask) (f : Nat → DWord) : (th.setVp n m f).hvec = th.hvec := by
  simp [Thread.setVp]
@[simp] theorem Thread.setVp_uck (th : Thread) (n : Nat) (m : Mask) (f : Nat → DWord) : (th.setVp n m f).uck = th.uck := by
  simp [Thread.setVp]
@[simp] theorem Thread.setVp_dqpos (th : Thread) (n : Nat) (m : Mask) (f : Nat → DWord) : (th.setVp n m f).dqpos = th.dqpos := by
  simp [Thread.setVp]
@[simp] theorem Thread.setVp_seg (th : Thread) (n : Nat) (m : Mask) (f : Nat → DWord) : (th.setVp n m f).seg = th.seg := by
  simp [Thread.setVp]
@[simp] theorem Thread.setVp_asid (th : Thread) (n : Nat) (m : Mask) (f : Nat → DWord) : (th.setVp n m f).asid = th.asid := by
  simp [Thread.setVp]
@[simp] theorem Thread.setVp_vmid (th : Thread) (n : Nat) (m : Mask) (f : Nat → DWord) : (th.setVp n m f).vmid = th.vmid := by
  simp [Thread.setVp]
@[simp] theorem Thread.setVp_rfault (th : Thread) (n : Nat) (m : Mask) (f : Nat → DWord) : (th.setVp n m f).rfault = th.rfault := by
  simp [Thread.setVp]
@[simp] theorem Thread.setVp_ser (th : Thread) (n : Nat) (m : Mask) (f : Nat → DWord) : (th.setVp n m f).ser = th.ser := by
  simp [Thread.setVp]
@[simp] theorem Thread.setVp_warp (th : Thread) (n : Nat) (m : Mask) (f : Nat → DWord) : (th.setVp n m f).warp = th.warp := by
  simp [Thread.setVp]
@[simp] theorem Thread.setVp_prio (th : Thread) (n : Nat) (m : Mask) (f : Nat → DWord) : (th.setVp n m f).prio = th.prio := by
  simp [Thread.setVp]
@[simp] theorem Thread.setVp_segFresh (th : Thread) (n : Nat) (m : Mask) (f : Nat → DWord) : (th.setVp n m f).segFresh = th.segFresh := by
  simp [Thread.setVp]
@[simp] theorem Thread.setVp_atVec (th : Thread) (n : Nat) (m : Mask) (f : Nat → DWord) : (th.setVp n m f).atVec = th.atVec := by
  simp [Thread.setVp]
@[simp] theorem Thread.setVp_xpat (th : Thread) (n : Nat) (m : Mask) (f : Nat → DWord) : (th.setVp n m f).xpat = th.xpat := by
  simp [Thread.setVp]
@[simp] theorem Thread.setVp_phase (th : Thread) (n : Nat) (m : Mask) (f : Nat → DWord) : (th.setVp n m f).phase = th.phase := by
  simp [Thread.setVp]
@[simp] theorem Thread.setVp_clkLow (th : Thread) (n : Nat) (m : Mask) (f : Nat → DWord) : (th.setVp n m f).clkLow = th.clkLow := by
  simp [Thread.setVp]
@[simp] theorem Thread.setVp_wend (th : Thread) (n : Nat) (m : Mask) (f : Nat → DWord) : (th.setVp n m f).wend = th.wend := by
  simp [Thread.setVp]
@[simp] theorem Thread.setVp_dlvd (th : Thread) (n : Nat) (m : Mask) (f : Nat → DWord) : (th.setVp n m f).dlvd = th.dlvd := by
  simp [Thread.setVp]

end Sys2Proof.Machine
end

