-- ==== Sys2Proof/Laws/Issue.lean ====
section
/-! SUPPORT. What issuing does once its checks have passed, and what each end of a unit does with the state. -/
namespace Sys2Proof.Machine

/-- An instruction that is ready does what its own body says. -/
theorem instr_ready {i : Instr} {s : State} {th : Thread} (h : Ready i s th) (body : Thread → Res) :
    instr i s body = settle s s.cur th (body th) := by
  have hc := h.clean
  unfold issueMask at hc
  unfold instr
  simp [h.here, h.lives, h.awake, h.opened, h.legal, h.entered, h.valued, h.runs, h.permitted, h.allocated, h.untagged, h.settled, hc,
    h.free, h.unheld]

/-- A stopped or absent thread executes nothing. -/
theorem instr_noThread {i : Instr} {s : State} (h : s.thread s.cur = none) (body : Thread → Res) :
    instr i s body = .fault .noThread := by simp [instr, h]

@[simp] theorem settle_done (s : State) (th th' : Thread) :
    settle s s.cur th (.done s th') = .next (s.setThread s.cur (retire th')) := by
  simp [settle, Res.done]

theorem settle_retire {s s' : State} {t : Nat} {th th' : Thread} (h : s'.thread t = some th') :
    settle s t th (.retire s') = .next (s'.setThread t (retire th')) := by
  simp [settle, State.modThread_some _ _ _ _ h]

theorem settle_jump {s s' : State} {t : Nat} {th th' : Thread} {h : BitVec 16} {o : Nat} {pop : Bool}
    (e : s'.thread t = some th') :
    settle s t th (.jump s' h o pop) = .next (s'.setThread t (transfer s' th' h o pop)) := by
  simp [settle, State.modThread_some _ _ _ _ e]

@[simp] theorem settle_closed (s s' : State) (t : Nat) (th : Thread) : settle s t th (.closed s') = .next s' := rfl

/-- Flags raised by the instruction as a whole, none of them enabled. -/
theorem wholeFlags_quiet {s : State} {th : Thread} {set : Mask} {fl : Flags} (h : fl &&& enabled th = 0) :
    wholeFlags s th set fl = .done s (addFlags th fl) := by simp [wholeFlags, h]

/-- Flags raised by lanes, none of them enabled. -/
theorem laneFlags_quiet {s : State} {th : Thread} {rs : List (Nat × Flags)} (h : allFlags rs &&& enabled th = 0) :
    laneFlags s th rs = .done s (addFlags th (allFlags rs)) := by simp [laneFlags, h]

@[simp] theorem enabled_setSx (th : Thread) (p : Bool) (n : Nat) (x : DWord) : enabled (th.setSx p n x) = enabled th := by
  simp [enabled]
@[simp] theorem enabled_setS (th : Thread) (n : Nat) (x : Word) : enabled (th.setS n x) = enabled th := by simp [enabled]
@[simp] theorem enabled_setV (th : Thread) (n : Nat) (m : Mask) (f : Nat → Word) : enabled (th.setV n m f) = enabled th := by
  simp [enabled]
@[simp] theorem enabled_setVp (th : Thread) (n : Nat) (m : Mask) (f : Nat → DWord) : enabled (th.setVp n m f) = enabled th := by
  simp [enabled]

/-- A scalar operation that is ready and raises no enabled flag. -/
theorem scalarOp_ready {i : Instr} {s : State} {th : Thread} {dbl : Bool} {d : Nat} {f : Thread → DWord × Flags}
    (h : Ready i s th) (hf : (f th).2 &&& enabled th = 0) :
    Machine.scalarOp i s dbl d f = .next (s.setThread s.cur (retire (addFlags (th.setSx dbl d (f th).1) (f th).2))) := by
  unfold Machine.scalarOp
  rw [instr_ready h]
  simp only []
  rw [wholeFlags_quiet (by simpa using hf), settle_done]

/-- Instructions without flags. -/
@[simp] theorem addFlags_zero (th : Thread) : addFlags th 0 = th := by simp [addFlags]

/-- A register of a list none of whose registers has a property has it only where the default has. -/
theorem getD_all {α : Type} (l : List α) (p : α → Bool) (d : α) (h : l.all p = true) (hd : p d = true) (n : Nat) : p (l.getD n d) = true := by
  simp only [List.getD_eq_getElem?_getD]
  cases hn : l[n]? with
  | none => simpa using hd
  | some x => exact List.all_eq_true.mp h x (List.mem_of_getElem? hn)

/-- A thread none of whose registers is poisoned reads no poison (R117). -/
theorem poisonTrap_clean (i : Instr) (th : Thread) (m act : Mask) (hv : th.v.all (fun r => r.poison == 0) = true)
    (hs : th.s.all (fun r => !r.poison) = true) (hb : th.bankS.all (fun r => !r.poison) = true) (hh : th.bankH.all (fun r => !r.poison) = true)
    (hk : th.k.all (fun r => r.poison == 0) = true) : poisonTrap i th m act = none := by
  have v0 : ∀ n, (th.vreg n).poison = 0 := fun n => by
    have := getD_all th.v (fun r => r.poison == 0) { lanes := Lanes.fill 0, poison := 0, tag := false } hv (by decide) n
    simpa [Thread.vreg] using this
  have s0 : ∀ n, (th.sreg n).poison = false := fun n => by
    have a := getD_all th.s (fun r => !r.poison) Thread.zeroS hs (by decide) n
    have b := getD_all th.bankS (fun r => !r.poison) Thread.zeroS hb (by decide) (n - 8)
    have c := getD_all th.bankH (fun r => !r.poison) Thread.zeroS hh (by decide) (n - 8)
    unfold Thread.sreg
    split
    · split
      · simpa using b
      · simpa using c
    · simpa using a
  have k0 : ∀ n, th.kpoison n = 0 := fun n => by
    unfold Thread.kpoison
    split
    · rfl
    · simpa using getD_all th.k (fun r => r.poison == 0) { bits := 0, poison := 0 } hk (by decide) n
  have r0 : ∀ o n, regPoisoned th m o n = false := fun o n => by
    unfold regPoisoned
    have z : kLanes 0#3 = 0#96 := by decide
    split <;> simp [v0, s0, k0, z]
  have w0 : ∀ w ∈ ownPoison i th m, w.2 = 0 := fun w hw => by
    simp only [ownPoison, List.mem_map] at hw
    obtain ⟨r, _, rfl⟩ := hw
    simp [v0]
  have hit : ∀ (f : RFile) n, ((readOpds i th).any (fun o => o.f == f && o.rd && decide (o.n ≤ n) && decide (n < o.n + o.len) && regPoisoned th m o n) ||
      (f == RFile.v && (ownPoison i th m).any (fun w => w.1 == n && w.2 != 0))) = false := fun f n => by
    have : (ownPoison i th m).any (fun w => w.1 == n && w.2 != 0) = false := by
      rw [List.any_eq_false]; intro w hw; simp [w0 w hw]
    rw [this]
    simp [r0]
  have none0 : firstBelow 256 (fun _ => false) = none := by simp [firstBelow]
  unfold poisonTrap
  simp only [hit, Bool.or_false, none0]

end Sys2Proof.Machine
end

