-- ==== Sys2Proof/Laws/Memory.lean ====
section
/-! SUPPORT. Memory: every operation keeps the canonical form, and a byte reads as what was last written to it. -/
namespace Sys2Proof.Machine

theorem Memory.wf_iff (m : List Host.Cell) :
    Memory.wf m = true ↔ FMap.sorted m = true ∧ ∀ c ∈ m, c.2 ≠ Memory.blank := by
  simp [Memory.wf]

/-- The empty memory of reset is in canonical form. -/
@[simp] theorem Memory.wf_nil : Memory.wf [] = true := rfl

theorem State.reset_mem_wf : Memory.wf State.reset.mem = true := rfl

/-- Dropping entries keeps the form. -/
theorem Memory.wf_filter (m : List Host.Cell) (p : Host.Cell → Bool) (h : Memory.wf m = true) : Memory.wf (m.filter p) = true :=
  (Memory.wf_iff _).2 ⟨FMap.sorted_filter m p ((Memory.wf_iff m).1 h).1,
    fun c hc => ((Memory.wf_iff m).1 h).2 c (List.mem_filter.1 hc).1⟩

/-- Writing a byte keeps the form. -/
theorem Memory.wf_put (m : List Host.Cell) (a : Nat) (b : Byte) (h : Memory.wf m = true) : Memory.wf (Memory.put m a b) = true := by
  obtain ⟨hs, hb⟩ := (Memory.wf_iff m).1 h
  unfold Memory.put
  split
  · exact Memory.wf_filter m _ h
  · rename_i hne
    refine (Memory.wf_iff _).2 ⟨FMap.sorted_put m a b hs, fun c hc => ?_⟩
    rcases FMap.mem_put m a b c hc with rfl | hc
    · exact hne
    · exact hb c hc

/-- Writing consecutive bytes keeps the form. -/
theorem Memory.wf_write (bs : List Byte) (m : List Host.Cell) (a : Nat) (h : Memory.wf m = true) :
    Memory.wf (Memory.write m a bs) = true := by
  induction bs generalizing m a with
  | nil => exact h
  | cons b r ih => exact ih _ _ (Memory.wf_put m a b h)

@[simp] theorem Memory.get_put_same (m : List Host.Cell) (a : Nat) (b : Byte) : Memory.get (Memory.put m a b) a = b := by
  unfold Memory.get Memory.put
  split
  · rename_i h; simp [h]
  · simp

theorem Memory.get_put_other (m : List Host.Cell) (a c : Nat) (b : Byte) (h : c ≠ a) :
    Memory.get (Memory.put m a b) c = Memory.get m c := by
  unfold Memory.get Memory.put
  split
  · rw [FMap.find_del_other m a c h]
  · rw [FMap.find_put_other m a c b h]

/-- A byte below the written ones reads as before. -/
theorem Memory.get_write_below (bs : List Byte) (m : List Host.Cell) (a c : Nat) (h : c < a) :
    Memory.get (Memory.write m a bs) c = Memory.get m c := by
  induction bs generalizing m a with
  | nil => rfl
  | cons b r ih => rw [Memory.write, ih _ _ (by omega), Memory.get_put_other m a c b (by omega)]

theorem State.setBytes_wf (s : State) (a : Nat) (bs : List Byte) (h : Memory.wf s.mem = true) :
    Memory.wf (s.setBytes a bs).mem = true := Memory.wf_write bs s.mem a h

end Sys2Proof.Machine
end

