-- ==== Sys2Proof/Tests/Slice0.lean ====
section
/-! SUPPORT. Tests: the checks of WellFormed refuse, words of the spec decode, single steps give the spec's examples, and every
statement with hypotheses has a state that meets them. -/
namespace Sys2Proof.Tests
open Sys2Proof Sys2Proof.Machine Sys2Proof.Claims

/-! ## A small machine -/

/-- Scalar registers with a purpose: texture descriptor s8-s15, address pairs s16 and s32, counts s18 and s22, an accumulator
address s20, a format s21, scratchpad descriptors s24 and s28, an engine descriptor s40. -/
def labS : List Nat :=
  [0xF, 0, 0, 0, 0, 0, 0, 0,
   0x1000, 0, 63 + 65536 * 31, 0, 0, 0, 0, 0x4000_0000,
   0x2000, 0, 1, 0, 0, 0, 2, 0,
   64, 160 * 65536, 0, 0, 2048, 160 * 65536 + 32768, 16, 0,
   0x3000, 0, 5, 3, 0x40, 16, 0, 0x3F80_0000,
   0x100, 0, 0x400, 0, 3, 64, 256, 0]

/-- Lane values: even registers give addresses, odd ones zero. -/
def labV (n : Nat) : VReg := { lanes := Lanes.make (fun L => if n % 2 = 0 then BitVec.ofNat 32 (0x1000 + 256 * (n / 2) + 16 * L) else 0), poison := 0, tag := false }

def labThread : Thread :=
  { codeThread 0 with
    v := (List.range 16).map labV
    s := labS.map (fun n => { val := BitVec.ofNat 32 n, poison := false })
    k := (List.range 8).map (fun n => { bits := BitVec.ofNat 96 (2 * n + 1), poison := 0 })
    xpat := [Pat.zero, { Pat.zero with hdr := 13 }, Pat.zero, Pat.zero] }

/-- All of the first two megabytes, mapped where they lie, for user accesses of every kind. -/
def labLeaf : Leaf :=
  { pa := 0, kind := 0, pol := 3, r := true, w := true, x := true, user := true, dw := none, r1 := true, w1 := true, x1 := true, l1 := 0, l2 := 0, sz := 16 }

def labGang : Gang :=
  { codeGang 0 with
    sregs := 48, vregs := 16, scrRun := { first := 0, len := 32 }, accRun := { first := 0, len := 32 }, fgang := some 0, nib := some 1,
    dq := [7], level := some 4 }

def labOper : Oper :=
  { arg := 0x1234, gx := 2, gy := 1, gz := 1, order := 0, bx := 0, by' := 0, resident := false, join := false, uck := false, take := 0, mbx := List.replicate 16 9 }

def labKernel : Kernel :=
  { handle := 1, entry := 0x40, nibEntry := 0, warps := 1, vregs := 16, sregs := 16, nibSregs := 0, scr := 1, acc := 1, members := 0, kid := 5, mbx := 16 }

def labGrid : Grid :=
  { queue := 0, recNo := 0, op := labOper, ker := labKernel, asid := 1, vmid := 0, active := 0, next := 1, since := some 0, lastQuill := some 0,
    lastFolio := none, halt := false, overflow := false, abort := false, refused := false, done := false }

/-- The nib of the gang. -/
def labNib : Thread := { labThread with nib := true, slot := 32, v := [] }

/-- One gang with a warp (thread 0) and its nib (thread 1) on quill 0, in a folio gang; translations of the first two megabytes on
die 0 and for the hub; bring-up complete. -/
def lab : State :=
  let t : TlbEnt := { vmid := 0, asid := some 1, page := 0, size := 21, res := .ok labLeaf }
  { State.reset with
    boot := 6, tick := 100
    threads := [(0, labThread), (1, labNib)]
    gangs := [(0, labGang)]
    grids := [(0, labGrid)]
    fgangs := [(0, { grid := 0, folio := 0, slot := 0, members := [0], arrived := [] })]
    xl := { State.reset.xl with tlb := [(0, [t]), (8, [t])] }
    scrip := { State.reset.scrip with nextThread := 2, nextGang := 1, nextGrid := 1, nextFg := 1, q := [(0, { Queue.init with ctl := 0x1_0000_0000, en := true, state := 2 })] } }

/-- The machine with another thread 0. -/
def labWith (f : Thread → Thread) : State := lab.setThread 0 (f labThread)

/-- Supervisor and hypervisor mode, with a frame in each. -/
def labFrame (m : Nat) : Frame := { Frame.zero with pc := 0x1_0000_0080, mask := 7, cause := BitVec.ofNat 32 (m * 2 ^ 30 + 1) }
def labSup (th : Thread) : Thread := { th with mode := .sup, sup := [labFrame 0], seg := some { codeSeg with sys := true } }
def labHyp (th : Thread) : Thread := { th with mode := .hyp, sup := [labFrame 0], hyp := [labFrame 1], seg := some { codeSeg with sys := true, hyp := true } }

/-- Ready beside the thread's place and its poison, as a test. -/
def ready (i : Instr) (s : State) (th : Thread) : Bool :=
  !th.exited && th.wait == .none && !th.latch.closed && legalIn i th && !entryFails i th && (valueCheck i s s.cur th).isNone && executes i th && !privFails i th &&
  rangeTrap th (i.opds th.latch.px) == none && (if th.uck = true ∧ th.mode = .user then taggedRead th (issueOpds i th) else none) == none &&
  !opPending s s.cur th (issueOpds i th) && !lateWaits s i s.cur th && lateAwaited i th == 0

/-- No register of the thread is poisoned. -/
def unpoisoned (th : Thread) : Bool :=
  th.v.all (fun r => r.poison == 0) && th.s.all (fun r => !r.poison) && th.bankS.all (fun r => !r.poison) && th.bankH.all (fun r => !r.poison) &&
  th.k.all (fun r => r.poison == 0)

theorem lab_unpoisoned : (unpoisoned labThread && unpoisoned labNib && unpoisoned (labSup labThread) && unpoisoned (labHyp labThread)) = true := by decide +kernel

theorem ready_sound (i : Instr) (s : State) (th : Thread) (h1 : s.thread s.cur = some th) (hp : unpoisoned th = true) (h : ready i s th = true) :
    Ready i s th := by
  simp only [unpoisoned, Bool.and_eq_true] at hp
  obtain ⟨⟨⟨⟨p1, p2⟩, p3⟩, p4⟩, p5⟩ := hp
  simp only [ready, Bool.and_eq_true, beq_iff_eq, Bool.not_eq_true', Option.isNone_iff_eq_none] at h
  obtain ⟨⟨⟨⟨⟨⟨⟨⟨⟨⟨⟨⟨h2, h3⟩, h4⟩, h5⟩, h5a⟩, h5b⟩, h6⟩, h7⟩, h8⟩, h9⟩, h10⟩, h11⟩, h12⟩ := h
  exact ⟨h1, h2, h3, h4, h5, h5a, h5b, h6, h7, h8, h9, h10, h11, h12, poisonTrap_clean i th _ _ p1 p2 p3 p4 p5⟩

theorem lab_thread : lab.thread lab.cur = some labThread := rfl
theorem labSup_thread : (labWith labSup).thread (labWith labSup).cur = some (labSup labThread) := rfl
theorem labHyp_thread : (labWith labHyp).thread (labWith labHyp).cur = some (labHyp labThread) := rfl
theorem labNib_thread : { lab with cur := 1 }.thread 1 = some labNib := rfl

/-- An instruction word of 64 bits with its fields zero. -/
def z : T64 := { d := 0, a := 0, b := 0, c := 0, md := 0, hint := 0, gneg := false, guard := 0 }

/-- No flag is enabled in the small machine, so no result raises an enabled one. -/
theorem lab_quiet (fl : Flags) : fl &&& enabled labThread = 0 := by
  have : enabled labThread = 0 := by decide +kernel
  rw [this]; simp

/-- The checks pass, and a release of domain or system scope does not wait, as a test. -/
def goesB (s : State) (th : Thread) (f : MemForm) : Bool :=
  f.reqs.all (fun r => match f.check r with | .ok _ => true | _ => false) &&
  (let n := (domLines ((accesses f).filter (fun a => a.ph == .pend))).length
   n == 0 || decide (quillOut s th.quill + pendingLines s th.quill + n ≤ 1024)) &&
  (match f.rel with | some sc => decide (sc < 4) || (domStoresDone th && th.rfault.isNone) | none => true)

theorem goesB_sound (s : State) (th : Thread) (f : MemForm) (h : goesB s th f = true) :
    f.passes s th ∧ ∀ sc, f.rel = some sc → 4 ≤ sc → domStoresDone th = true ∧ th.rfault = none := by
  simp only [goesB, Bool.and_eq_true, List.all_eq_true] at h
  obtain ⟨⟨h1, h2⟩, h3⟩ := h
  refine ⟨⟨fun r hr => ?_, ?_⟩, fun sc hsc hge => ?_⟩
  · have := h1 r hr
    cases hc : f.check r with
    | ok ps => exact ⟨ps, rfl⟩
    | miss _ => simp [hc] at this
    | bad _ _ _ => simp [hc] at this
  · simpa using h2
  · rw [hsc] at h3
    simp only [Bool.or_eq_true, decide_eq_true_eq, Bool.and_eq_true, Option.isNone_iff_eq_none] at h3
    rcases h3 with h3 | h3
    · omega
    · exact h3

/-- mmaFit, as a test. -/
def mmaFitB (s : State) (th : Thread) (i : Instr) : Bool :=
  match i with
  | .mma as _ f =>
    let m := th.active i.guard
    let w := (voteRef th m f).toNat
    (List.range 96).all (fun L => !m.getLsbD L || presented th f L == voteRef th m f) && fmtValid w &&
    (if as then descBad s th m f.a.toNat (slabA w) 8 else aRegsBad th f.a.toNat (slabA w)).isNone &&
    (descBad s th m f.b.toNat (slabB w) (16 * (f.m 28 24 + 1))).isNone
  | _ => true

theorem mmaFitB_sound (s : State) (th : Thread) (i : Instr) (h : mmaFitB s th i = true) : mmaFit s th i := by
  cases i <;> first | trivial | skip
  simp only [mmaFitB, Bool.and_eq_true, List.all_eq_true, List.mem_range, Bool.or_eq_true, Bool.not_eq_true', beq_iff_eq,
    Option.isNone_iff_eq_none] at h
  obtain ⟨⟨⟨h1, h2⟩, h3⟩, h4⟩ := h
  exact ⟨fun L hL hm => by rcases h1 L hL with h | h <;> simp_all, h2, h3, h4⟩

set_option Elab.async false


/-! ## Instructions that are ready and have their effect: the hypotheses of the statements of their families -/

theorem witness_scalar_user_1 :
  ([.saddT32 21 5 18, .ssubT32 21 21 26, .sandT32 17 10 11, .sorT32 13 4 4, .sxorT32 20 29 28, .sshlT32 12 21 29, .sshrT32 true 0 18 9,
   .smulT32 26 15 18, .sminST32 2 1 27, .sminUT32 17 4 17, .smaxST32 15 28 19, .smaxUT32 7 12 23] : List Instr).all (fun i => ready i lab labThread && (scalarEffect labThread i).isSome) = true := by decide +kernel

theorem witness_scalar_user_2 :
  ([.saddi 827 30 10, .sandi 2282 15 22, .sori 3671 6 2, .sshli 0 5 16, .sshri false 0 0 0, .slh 188512 30, .spch 477786 26,
   .saddT64 (.reg z), .ssubT64 { z with d := 5 }, .sandT64 (.reg z), .sorT64 (.reg { z with a := 24 }),
   .sxorT64 (.reg { z with d := 10, b := 12 })] : List Instr).all (fun i => ready i lab labThread && (scalarEffect labThread i).isSome) = true := by decide +kernel

theorem witness_scalar_user_3 :
  ([.sshlT64 z, .sshrT64 false { z with d := 5, a := 12, b := 16 }, .smulT64 (.reg z), .sminT64 true (.reg { z with d := 14, a := 3 }),
   .smaxT64 true (.reg z), .sdiv true { z with d := 36, a := 7, b := 5, c := 24 },
   .sbf (.extractU) { z with d := 5, a := 16, b := 12, c := 6 }, .scnt (.pop) { z with d := 32, a := 18 }, .sset false 36 0 65554] : List Instr).all (fun i => ready i lab labThread && (scalarEffect labThread i).isSome) = true := by decide +kernel

theorem witness_mask_user :
  ([.scmp 1 4 14 6, .ssel false 4 5 19 1, .kop 0 0 1 1, .kopKs 4 5, .kopSk 5 20, .msplit false 2 9, .mjoin 5] : List Instr).all (fun i => ready i lab labThread && (maskEffect labThread i).isSome) = true := by decide +kernel

theorem witness_transfer_user :
  ([.b 608424 false 6, .call 294212 true 3, .jr 26, .jrL 7 19, .ljmp (.abs) 0 0 0, .lcall (.abs) 0 0 131092] : List Instr).all (fun i => ready i lab labThread && (match transferOf labThread i with | some (_, _, o, _) => decide (o % 4 = 0 ∧ 0 ≤ o ∧ o < 2 ^ 32) | none => false)) = true := by decide +kernel

theorem witness_calls_user :
  ([.syscallT32 172, .syscallT64 { z with md := 3 }] : List Instr).all (fun i => ready i lab labThread && true) = true := by decide +kernel

theorem witness_calls_sup :
  ([.hcallT32 238, .hcallT64 { z with md := 2 }] : List Instr).all (fun i => ready i (labWith labSup) (labSup labThread) && true) = true := by decide +kernel

theorem witness_tret_sup :
  ([.tretT32, .tretT64 z] : List Instr).all (fun i => ready i (labWith labSup) (labSup labThread) && ((labSup labThread).frames != [])) = true := by decide +kernel

theorem witness_exit_user :
  ([.exitT32, .exitT64 z] : List Instr).all (fun i => ready i lab labThread && true) = true := by decide +kernel

theorem witness_vector_user_1 :
  ([.vaddT32 false 0 false 0 10 0, .vaddI32 514 0 14, .vsubT32 false 2 true 8 8 0, .vmulT32 true 0 false 17 8 0, .vmulI32 4 0 0,
   .vavgT32 false 0 false 1 0 0, .vandT32 false 0 0 0 0, .vandI32 2044 8 5, .vorT32 false 0 4 0 8, .vorI32 257 1 0,
   .vxorT32 true 0 24 0 9, .vxorI32 130 0 1] : List Instr).all (fun i => ready i lab labThread && (vectorEffect labThread i).isSome) = true := by decide +kernel

theorem witness_vector_user_2 :
  ([.vandnT32 false 0 2 0 0, .vshlT32 true 1 4 0 1, .vshlI32 2 0 0, .vshrUT32 false 0 12 8 14, .vshrST32 false 0 0 4 11,
   .vshrUI32 13 0 0, .vshrSI32 1 12 3, .vrotT32 true 1 9 11 5, .vminT32 true 2 true 2 8 2, .vmaxT32 false 2 false 11 13 13,
   .vabsdT32 false 0 true 0 0 0, .vaddaT32 false 0 0 0] : List Instr).all (fun i => ready i lab labThread && (vectorEffect labThread i).isSome) = true := by decide +kernel

theorem witness_vector_user_3 :
  ([.vbrevT32 0 14, .vcntPopT32 8 5, .vcntClzT32 2 3, .vcntCtzT32 13 7, .vaddT64 false (.reg 0 { z with d := 14, a := 3, b := 12 }),
   .vsubT64 false (.reg 0 { z with a := 7, b := 12, md := 128 }), .vmulT64 false (.reg 0 z), .vavgT64 false (.reg 0 z),
   .vandT64 (.reg 0 { z with d := 1, b := 14 }), .vorT64 (.reg 0 { z with d := 5, b := 8 }), .vxorT64 (.reg 0 z), .vandnT64 (.reg 0 z)] : List Instr).all (fun i => ready i lab labThread && (vectorEffect labThread i).isSome) = true := by decide +kernel

theorem witness_vector_user_4 :
  ([.vshlT64 (.reg 0 { z with d := 14, a := 8, b := 4 }), .vshrT64 false (.reg 0 { z with d := 14, a := 3, b := 10 }),
   .vrotT64 (.reg 0 z), .vminT64 false (.reg 0 { z with d := 10 }), .vmaxT64 false (.reg 0 z),
   .vabsdT64 false (.reg 0 { z with d := 8, a := 5, b := 3 }), .vbrevT64 0 { z with d := 10 },
   .vmad false 0 { z with d := 3, c := 2 }, .vclamp false 0 { z with d := 14, b := 6, c := 2 },
   .vshf 0 { z with d := 1, a := 7, b := 5, c := 3 }, .vbf (.extractU) 0 { z with a := 14, c := 4 },
   .vbyte 0 { z with d := 5, b := 4, c := 3 }] : List Instr).all (fun i => ready i lab labThread && (vectorEffect labThread i).isSome) = true := by decide +kernel

theorem witness_vector_user_5 :
  ([.vaddaT64 (.imm 0 0 327685), .vdiv false { z with d := 4, a := 5, c := 4 }, .vmulhi false z,
   .vmulw false { z with d := 8, b := 14, md := 128 }, .vcntT64 .pop 0 { z with d := 4, a := 6 }, .vset true 4 0 4660] : List Instr).all (fun i => ready i lab labThread && (vectorEffect labThread i).isSome) = true := by decide +kernel

theorem witness_pred_user :
  ([.vcmpT32 false 0 0 10 4 1, .vaddc 0 { z with d := 10, b := 5, c := 1 }, .vcmpT64 0 0 { z with d := 2 },
   .mvote { z with d := 6, c := 3 }, .vsubb 0 { z with d := 4, a := 6, b := 8, c := 2 }, .match_ { z with d := 4, a := 8, c := 2 }] : List Instr).all (fun i => ready i lab labThread && (predicateEffect labThread i).isSome) = true := by decide +kernel

theorem witness_move_user_1 :
  ([.vselT32 false 0 0 1 6, .vbcastT32 8 12, .vextrT32 57 1 7, .vinsT32 35 26 0, .vlidT32 2, .vkvT32 7 6, .vpermT32 12 8 0,
   .vswzUpT32 64 2 0, .vswzDnT32 2 8 0, .vswzXorT32 35 0 1, .vswzRotT32 75 2 11, .vselT64 z] : List Instr).all (fun i => ready i lab labThread && (moveEffect labThread i).isSome) = true := by decide +kernel

theorem witness_move_user_2 :
  ([.vextrT64 { z with d := 28, c := 7 }, .vinsT64 { z with d := 3, a := 18, c := 32 }, .vkvT64 { z with d := 2, c := 6 }, .vlidT64 z,
   .vpermT64 z, .vswzT64 0 { z with a := 14, c := 22 }, .vbcastT64 { z with d := 4, a := 16 }] : List Instr).all (fun i => ready i lab labThread && (moveEffect labThread i).isSome) = true := by decide +kernel

theorem witness_mem_user_1 :
  ([.sldM32 0 68 6 12, .sstM32 0 0 8 0, .vldM32 1 42 0 0, .vstM32 0 373 2 15, .pldM32 5 2656 0 0, .pstM32 0 544 8 4,
   .vldT64 0 { z with d := 4, a := 2, b := 7, c := 14 }, .pldT64 0 z, .sldT64 false 0 z, .vstT64 0 z,
   .pstT64 0 { z with d := 12, b := 6, c := 1 }, .sstT64 false 0 z] : List Instr).all (fun i => ready i lab labThread && (match memForm lab labThread i with | some f => goesB lab labThread f | none => false)) = true := by decide +kernel

theorem witness_mem_user_2 :
  ([.vatom true false (.add) z] : List Instr).all (fun i => ready i lab labThread && (match memForm lab labThread i with | some f => goesB lab labThread f | none => false)) = true := by decide +kernel

theorem witness_mark_user :
  ([.markT32 0 5, .markT64 { z with md := 64 }] : List Instr).all (fun i => ready i lab labThread && true) = true := by decide +kernel

theorem witness_float_user_1 :
  ([.vfaddF32T32 false 5 8 2, .vfaddPackedT32 false false 2 0 0, .vfsubF32T32 false 0 6 4, .vfsubPackedT32 true true 22 3 7,
   .vfmulF32T32 true 1 0 12, .vfmulPackedT32 false false 0 0 8, .vfminF32T32 true 20 12 5, .vfminPackedT32 false false 8 6 8,
   .vfmaxF32T32 false 0 8 3, .vfmaxPackedT32 false false 5 0 1, .vfaddT64 (.f64) z, .vfsubT64 (.f64) z] : List Instr).all (fun i => ready i lab labThread && (floatEffect labThread i).isSome) = true := by decide +kernel

theorem witness_float_user_2 :
  ([.vfminT64 (.f64) { z with d := 2, a := 6 }, .vfmaxT64 (.f64) z, .vfma (.f64) { z with d := 8, c := 14 },
   .vfsgn (.f64) { z with d := 8, a := 10 }, .vfclass (.f64) z, .vfcmp true 3 { z with d := 3, b := 12, md := 64 },
   .vfmulT64 (.f32) { z with d := 5, a := 6, b := 3 }, .vfdot2 false { z with d := 14, a := 14, c := 2 }, .vfdiv (.f32) z,
   .vfsqrt (.f32) { z with d := 4, a := 5 }, .vfrcp (.f32) z, .vfrnd (.f64) { z with d := 4 }] : List Instr).all (fun i => ready i lab labThread && (floatEffect labThread i).isSome) = true := by decide +kernel

theorem witness_exact_user :
  ([.vcvtT32 0 0 8 0 0, .vcvtT64 0 4 { z with md := 16 }, .vbxpk z, .vdwadd z, .vdwmul { z with md := 64 }, .vcred (.dw) z,
   .vbxex { z with d := 4, a := 6 }, .vdwnorm { z with d := 4, a := 6 }] : List Instr).all (fun i => ready i lab labThread && (exactEffect labThread i).isSome) = true := by decide +kernel

theorem witness_loop_user :
  ([.loop false { z with c := 94 }] : List Instr).all (fun i => ready i lab labThread && (match i with | .loop b f => (loopEffect lab labThread b f).isSome | _ => false)) = true := by decide +kernel

theorem witness_service_user :
  ([.loopCnt { z with d := 3 }, .rdtick true z, .inkcal { z with d := 12, a := 22 }, .mbx z, .fsmov (.clr) z] : List Instr).all (fun i => ready i lab labThread && (serviceEffect lab labThread i).isSome) = true := by decide +kernel

theorem witness_gang_user :
  ([.barGang z, .barFol z, .phase z, .ipf (.pf) { z with a := 4, c := 18 }, .dqpop z, .ordbeg { z with a := 18 },
   .ordend { z with a := 18 }, .clkdiv { z with c := 4, md := 1 }] : List Instr).all (fun i => ready i lab labThread && (gangEffect lab labThread labGang i).isSome) = true := by decide +kernel

theorem witness_service_sup :
  ([.mfp z] : List Instr).all (fun i => ready i (labWith labSup) (labSup labThread) && (serviceEffect (labWith labSup) (labSup labThread) i).isSome) = true := by decide +kernel

theorem witness_mtp_hyp :
  ([.mtp { z with a := 18, c := 22 }] : List Instr).all (fun i => ready i (labWith labHyp) (labHyp labThread) && (match i with | .mtp f => (privEffect (labHyp labThread) f.c.toNat (privValue (labHyp labThread) f)).isSome | _ => false)) = true := by decide +kernel

theorem witness_reduce_user :
  ([.vred (.addU) z, .vscan false { z with d := 10, a := 6 }] : List Instr).all (fun i => ready i lab labThread && (reduceEffect labThread i).isSome) = true := by decide +kernel

theorem witness_arrival_user :
  ([.vpf false { z with md := 1 }, .arwait { z with a := 40 }, .arrive { z with a := 1, b := 8 },
   .vtbl (.idx) { z with d := 14, a := 8, b := 36, hint := 1 }, .xpatGet { z with d := 4, c := 1 }] : List Instr).all (fun i => ready i lab labThread && (arrivalEffect lab labThread i).isSome) = true := by decide +kernel

theorem witness_mem_sup :
  ([.satom false false (.add) { z with d := 16, a := 10 }, .xld { z with d := 10, a := 14, b := 7, c := 1 }] : List Instr).all (fun i => ready i (labWith labSup) (labSup labThread) && (match memForm (labWith labSup) (labSup labThread) i with | some f => goesB (labWith labSup) (labSup labThread) f | none => false)) = true := by decide +kernel

theorem witness_arrival_sup :
  ([.xpatSet z] : List Instr).all (fun i => ready i (labWith labSup) (labSup labThread) && (arrivalEffect (labWith labSup) (labSup labThread) i).isSome) = true := by decide +kernel

theorem witness_matrix_user :
  ([.mma false false { z with d := 28, b := 28, c := 19 }, .aclr { z with a := 20, c := 6 }, .ald { z with d := 8, a := 20 },
   .ast { z with a := 1 }, .aadd { z with a := 16, md := 32 }, .acvt { z with a := 14 }, .acpy { z with d := 7, a := 28, c := 6 },
   .amax { z with a := 3, c := 6 }, .abx { z with d := 6, a := 5 }] : List Instr).all (fun i => ready i lab labThread && ((matrixEntry lab labThread i).isSome && granulesFit labGang (granules labThread i) && mmaFitB lab labThread i)) = true := by decide +kernel

theorem witness_engine_user :
  ([.cpy 0 2 z, .cpyt 0 0 z, .gat 1 2 { z with a := 16, b := 28 }, .cfill 0 3 z, .sct 0 1 { z with a := 40, b := 20 },
   .rred 0 1 { z with a := 40 }] : List Instr).all (fun i => ready i lab labThread && (match engForm i with | some (_, cmd, dst, src, f) => (engBad lab labThread (labThread.active i.guard) cmd dst.toNat src.toNat f).isNone | none => false)) = true := by decide +kernel

theorem witness_ecnt_user :
  ([.ecnt z] : List Instr).all (fun i => ready i lab labThread && true) = true := by decide +kernel

theorem witness_gang_nib :
  ([.dqpush { z with a := 30 }] : List Instr).all (fun i => ready i { lab with cur := 1 } labNib && (gangEffect { lab with cur := 1 } labNib labGang i).isSome) = true := by decide +kernel

theorem witness_tex_user :
  ([.tex { z with d := 8, b := 40, hint := 1 }, .texl { z with d := 8, a := 0, b := 8 }, .texg { z with d := 8, a := 0, b := 8 },
   .texf { z with d := 8, a := 0, b := 8 }, .tex4 { z with d := 8, a := 0, b := 8, md := 64 }] : List Instr).all (fun i => ready i lab labThread && (match texForm i with | some (fn, f, ch) => !texDescBad (texWords labThread f) && (match baseFormat lab labThread (texDesc (texWords labThread f)) with | .ok dw => (texSample lab labThread (labThread.active i.guard) fn f ch dw).isSome | _ => false) | none => false)) = true := by decide +kernel

theorem witness_gang_sup :
  ([.ordrel z] : List Instr).all (fun i => ready i (labWith labSup) (labSup labThread) && (gangEffect (labWith labSup) (labSup labThread) labGang i).isSome) = true := by decide +kernel

theorem witness_halt_sup :
  ([.halt z] : List Instr).all (fun i => ready i (labWith labSup) (labSup labThread) && true) = true := by decide +kernel

theorem witness_texq_user :
  ([.texq { z with d := 32, a := 22, b := 8 }] : List Instr).all (fun i => ready i lab labThread && (match i with | .texq f => !texDescBad (texWords labThread f) && (match baseFormat lab labThread (texDesc (texWords labThread f)) with | .ok _ => true | _ => false) | _ => false)) = true := by decide +kernel

theorem witness_edrain_user :
  ([.edrain { z with md := 64 }] : List Instr).all (fun i => ready i lab labThread && (outstanding lab 0 0 == 0)) = true := by decide +kernel
/-! ## Steps that are not instructions: hypotheses met, and what they give -/

/-- The row answers a next state that passes a test. -/
def answ (i : Instr) (s : State) (p : State → Bool) : Bool := match exec i s with | .next u => p u | _ => false
def acc0 (t : Tgt) (data : List Byte) (size : Nat) : Acc :=
  { lane := 0, tgt := t, size := size, data := data, cmp := [], got := [], ph := .pend, poison := false, req := none, und := [] }
def op0 (k : OpKind) (a : Acc) (fin : Fin) : MemOp := { ser := 5, kind := k, mode := .user, pol := 3, accs := [a], acq := none, rel := none, fin := fin, dlv := false }
/-- Thread 0 with one entry in its queues. -/
def labOp (k : OpKind) (a : Acc) (fin : Fin) : State := labWith (fun th => { th with mq := [op0 k a fin], ser := 6 })
def at3 (s : State) (n1 n2 n3 : Nat) : State := { s with inp := { Input.none with n1 := n1, n2 := n2, n3 := n3 } }
def th0 (s : State) : Thread := (s.thread 0).getD labThread
def labMem (s : State) : State := { s with mem := Memory.write s.mem 0x1000 [1, 2, 3, 4, 5, 6, 7, 8] }
def page1 : Tgt := .mem 0 3 0x1000 0 1 0x1000 16

/-- A store, its thread, and nothing of the engines in its way. -/
def storeFree (s : State) (a : Acc) (k : OpKind) : Bool :=
  storeReady (th0 s) (op0 k a .none) a && a.ph == .pend && touched s 0 5 0 a == [] && (th0 s).mq == [op0 k a .none]

theorem test_store_held_line : let a := acc0 page1 [9, 8, 7, 6] 4; let s := at3 (labOp .store a .none) 0 5 0
    (storeFree s a .store && answ .storeQuillPerform s (fun u => u.mem == s.mem &&
      (u.quill 0).pq == [{ tid := 0, ser := 5, acc := 0, kind := 0, pol := 3, pa := 0x1000, data := [9, 8, 7, 6], vis := true,
                             vmid := 0, asid := 1, va := 0x1000, red := none }])) = true := by decide +kernel
theorem test_store_through : let a := acc0 (.mem 0 1 0x1000 0 1 0x1000 16) [9, 8, 7, 6] 4
    let s := (at3 (labOp .store a .none) 0 5 0).modQuill 0 (fun q => { q with cq := [(32, List.replicate 128 1)] })
    (storeFree s a .store && answ .storeQuillPerform s (fun u => (u.quill 0).cq == [] && (u.quill 0).pq.length == 1)) = true := by decide +kernel
theorem test_store_scratchpad : let a := acc0 (.scr 0 16) [9, 8, 7, 6] 4; let s := at3 (labOp .store a .none) 0 5 0
    (storeFree s a .store && answ .storeQuillPerform s (fun u => scrRead u 0 16 4 == [9, 8, 7, 6])) = true := by decide +kernel
theorem test_push_visible : let a := acc0 .skip [9, 0, 0, 0] 4; let s := at3 (labOp .push a .none) 0 5 0
    (storeFree s a .push && answ .storeQuillPerform s (fun u => (u.gang 0).map (fun g => (g.dqBase, g.dq)) == some (0, [7, 9]))) = true := by decide +kernel
def pent : PEnt :=
  { tid := 0, ser := 5, acc := 0, kind := 0, pol := 3, pa := 0x1000, data := [9, 8, 7, 6], vis := true, vmid := 0, asid := 1, va := 0x1000, red := none }
theorem test_home_performs : let s := (at3 lab 0 0 0).modQuill 0 (fun q => { q with pq := [pent] })
    (oldestFor (s.quill 0).pq 0 && s.pow.trips == 0 && s.st.poison == [] &&
      answ .storeHomePerform s (fun u => u.mem == Memory.write s.mem 0x1000 [9, 8, 7, 6] && (u.quill 0).pq == [])) = true := by decide +kernel

def loadA : Acc := acc0 page1 [] 8
def loadS : State := labMem (at3 (labOp .load loadA (.sload 3 20)) 0 0 0)
/-- The hypotheses of a load whose access is the last. -/
theorem witness_last_access : LastAccess loadS 0 (th0 loadS) (op0 .load loadA (.sload 3 20)) loadA :=
  ⟨rfl, rfl, by decide +kernel, rfl, fun p hp _ => List.mem_singleton.mp hp, rfl, rfl, by decide +kernel,
   by intro g p h; cases h⟩
theorem witness_load : (oldestLoad (th0 loadS) == some (op0 .load loadA (.sload 3 20)) && loadReady (th0 loadS) (op0 .load loadA (.sload 3 20)) loadA &&
    !bankBusy loadS 0 loadA.tgt && seen loadS 0 loadA == some [1, 2, 3, 4, 5, 6, 7, 8] && loadS.pow.trips == 0 && loadS.st.poison == [] &&
    (th0 loadS).s.length == 48) = true := by decide +kernel
theorem test_load_scalar_pair : answ .loadTakeValue loadS (fun u => (((th0 u).s.drop 19).take 4).map (fun x => (x.val.toNat, x.poison)) ==
    [(0, false), (0x04030201, false), (0x08070605, false), (2, false)]) = true := by decide +kernel
theorem test_load_vector_pair : answ .loadTakeValue (labMem (at3 (labOp .load { loadA with lane := 3 } (.vload 3 4)) 0 0 0)) (fun u =>
    (th0 u).lane 4 3 == 0x04030201 && (th0 u).lane 5 3 == 0x08070605 && (th0 u).lane 4 2 == labThread.lane 4 2) = true := by decide +kernel
theorem test_load_signed_byte : answ .loadTakeValue (at3 { (labOp .load (acc0 page1 [] 1) (.sload 4 20)) with mem := Memory.write lab.mem 0x1000 [0x80] } 0 0 0) (fun u =>
    ((th0 u).s.drop 20).take 1 == [⟨0xFFFF_FF80, false⟩]) = true := by decide +kernel
/-- Each atomic operation on both sizes. -/
def atomS (op : AtomOp) (wide : Bool) : State × Acc :=
  let n := if wide then 8 else 4
  let a := { acc0 page1 ((([0xF0, 2, 3, 0x84, 1, 2, 3, 0x94] : List Byte).take n)) n with cmp := if op = .cas then (([1, 2, 3, 4, 5, 6, 7, 8] : List Byte).take n) else [] }
  (labMem (at3 (labOp (.atomic op wide) a (.satom 20 wide)) 0 0 0), a)
theorem test_atomics : [AtomOp.add, .minS, .minU, .maxS, .maxU, .and, .or, .xor, .xchg, .cas, .zmin].all (fun op => [false, true].all (fun wide =>
    let s := (atomS op wide).1
    let a := (atomS op wide).2
    let b := if wide then 64 else 32
    atomReady (th0 s) (op0 (.atomic op wide) a (.satom 20 wide)) a && touched s 0 5 0 a == [] && (s.quill 0).pq == [] &&
    answ .atomicPerform s (fun u => u.mem == Memory.write s.mem 0x1000 (toBytes a.size (atomValue op b (BitVec.ofNat b (ofBytes (s.bytes 0x1000 a.size)))
      (BitVec.ofNat b (ofBytes a.data)) (BitVec.ofNat b (ofBytes a.cmp))).toNat) && ((th0 u).s.drop 20).take 1 == [⟨0x04030201, false⟩]))) = true := by decide +kernel

theorem test_line_fill : let s := labMem (at3 lab 0 32 0)
    (l1Held ((kindOf (32 * 128)).getD 4) 2 && answ .l1LineFill s (fun u => (u.quill 0).cq.find 32 == some (s.bytes 0x1000 128))) = true := by decide +kernel
theorem test_line_drop : let s := (at3 lab 0 32 0).modQuill 0 (fun q => { q with cq := [(31, []), (32, List.replicate 128 1)] })
    answ .l1LineDrop s (fun u => (u.quill 0).cq == [(31, [])]) = true := by decide +kernel
def missS (walking : Bool) : State :=
  let m : Miss := { vmid := 0, asid := 1, page := 0x50, first := false, who := [0], walking := false }
  let s := at3 lab 0 1 0
  { s with xl := { s.xl with miss := [(0, [m, { m with page := 0x51, first := true, walking := walking }])] } }
theorem test_first_misses_walk_first : answ .tlbMissWalkStart (missS false) (fun u => ((u.xl.miss.find 0).getD []).map (fun m => m.walking) == [false, true]) = true := by decide +kernel
/-- A context whose tables lie at 2, 3, 4 and 5 times 64 KiB and map page 0x51 to physical page 0x77. -/
def walkMem : List Host.Cell :=
  [((2 : Nat) * 65536 + 8, 0x0003_0001#64), (3 * 65536, 0x0004_0001#64), (4 * 65536, 0x0005_0001#64),
   (5 * 65536 + 8 * 0x51, 0x0077_183F#64)].foldl (fun m x => Memory.write m x.1 (toBytes 8 x.2.toNat)) []
def walkS (t : DWord) : State := let s := missS true; { s with mem := walkMem, xl := { s.xl with ctxtab := t } }

def walkLeaf : Leaf := { labLeaf with pa := 0x77_0000 }
theorem test_walk : (walk (walkS 0x20000) [] 0 1 0x51_0000 == (.ok walkLeaf, 16, false)) = true := by decide +kernel
theorem test_walk_ends_misses : answ .walkComplete (walkS 0x20000) (fun u => ((u.xl.miss.find 0).getD []).map (fun m => m.page) == [0x50] &&
    ((u.xl.tlb.find 0).getD []).contains { vmid := 0, asid := some 1, page := 0x51, size := 16, res := .ok walkLeaf }) = true := by decide +kernel
theorem test_walk_fails : (walk (walkS 0) [] 0 1 0x51_0000 == (.bad 8 3 0, 16, false) && answ .walkComplete (walkS 0) (fun u =>
    ((u.xl.miss.find 0).getD []).map (fun m => m.page) == [0x50] && (th0 u).dlvd == [(0x51, .bad 8 3 0)])) = true := by decide +kernel

theorem kind_gddr (a : Nat) (h : a < 2 ^ 38) : kindOf a = some 0 := if_pos h
theorem good_last : GoodLeaf false true 0 (0x77 * 65536 + 0x183F) :=
  ⟨⟨rfl, rfl, rfl, by decide, (nomatch ·), fun _ => rfl⟩, rfl, (nomatch ·), by decide, by decide, by decide, (nomatch ·),
   fun _ a _ h => kind_gddr a (Nat.lt_trans h (by decide))⟩
theorem witness_walk : let s := walkS 0x20000
    sound s ∧ holdsTable (addressOf s.xl.ctxtab.toNat) ∧ holdsTable (addressOf s.xl.vmtab.toNat) ∧
    entryAt s (addressOf s.xl.ctxtab.toNat) 1 = 0x3_0001 ∧ leadsTo s atItself 0x51_0000 2 0x3_0000 0 0x5_0000 ∧
    entryAt s 0x5_0000 (indexAt 0x51_0000 0) = 0x77 * 65536 + 0x183F :=
  ⟨⟨rfl, rfl, rfl⟩, by unfold holdsTable; decide +kernel, by unfold holdsTable; decide +kernel, by decide +kernel,
   .inr ⟨0x3_0000, ⟨rfl, by unfold holdsTable; decide⟩, by unfold goodPointer; decide +kernel,
    .inr ⟨0x4_0000, ⟨by decide +kernel, by unfold holdsTable; decide +kernel⟩, by unfold goodPointer; decide +kernel,
     ⟨by decide +kernel, by unfold holdsTable; decide +kernel⟩, rfl⟩⟩, by decide +kernel⟩

/-- The tables of a guest, whose second stage maps the first 512 MiB where they lie. -/
def guestMem : List Host.Cell :=
  [((2 : Nat) * 65536 + 8, 0x3_0401#64), (3 * 65536, 0x4_0001#64), (4 * 65536, 0x5_0001#64), (5 * 65536 + 8 * 0x51, 0x77_183F#64),
   (9 * 65536 + 8, 0xA_0001#64), (10 * 65536, 0xB_0001#64), (11 * 65536, 0x181F#64)].foldl (fun m x => Memory.write m x.1 (toBytes 8 x.2.toNat)) []
def guestS : State := { walkS 0x20000 with mem := guestMem, xl := { (walkS 0).xl with ctxtab := 0x20000, vmtab := 0x90000 } }
theorem test_guest_walk : (match walk guestS [] 1 1 0x51_0000 with | (.ok l, 16, false) => l.pa == 0x77_0000 && l.user && l.w | _ => false) = true := by decide +kernel
theorem good_second : GoodLeaf true true 1 0x181F :=
  ⟨⟨rfl, rfl, rfl, by decide, fun _ => rfl, fun _ => rfl⟩, rfl, fun _ => rfl, by decide, by decide, by decide, fun _ => ⟨rfl, rfl⟩,
   fun _ a _ h => kind_gddr a (Nat.lt_trans h (by decide))⟩
/-- The second stage of the guest is the identity below 512 MiB. -/
theorem second_stage (x : Nat) (h : x < 2 ^ 29) : secondStage guestS 0xA_0000 x 0x181F 1 x := by
  have h2 : indexAt x 2 = 0 := by unfold indexAt; omega
  have h1 : indexAt x 1 = 0 := by unfold indexAt; omega
  refine ⟨0xB_0000, .inr ⟨0xA_0000, ⟨rfl, by unfold holdsTable; decide⟩, ?_, ?_⟩, ?_, good_second, ?_⟩
  · rw [h2]; unfold goodPointer; decide +kernel
  · rw [h2]; exact .inl ⟨⟨by decide +kernel, by unfold holdsTable; decide +kernel⟩, rfl⟩
  · rw [h1]; decide +kernel
  · rw [show addressOf 0x181F = 0 from rfl, show pageBytes 1 = 2 ^ 29 from rfl, Nat.mod_eq_of_lt h, Nat.zero_add]
theorem witness_guest_walk :
    leadsTo guestS (fun t p => (∃ e2 m2, secondStage guestS 0xA_0000 t e2 m2 p) ∧ holdsTable p) 0x51_0000 2 0x3_0000 0 0x5_0000 ∧
    entryAt guestS 0x2_0000 1 = 0x3_0401 ∧ entryAt guestS 0x9_0000 1 = 0xA_0001 ∧
    entryAt guestS 0x5_0000 (indexAt 0x51_0000 0) = 0x77 * 65536 + 0x183F ∧ secondStage guestS 0xA_0000 0x77_0000 0x181F 1 0x77_0000 := by
  have at' : ∀ t, t + 65536 ≤ 2 ^ 29 → (∃ e2 m2, secondStage guestS 0xA_0000 t e2 m2 t) ∧ holdsTable t := fun t h =>
    ⟨⟨_, _, second_stage t (by omega)⟩, by unfold holdsTable; omega⟩
  refine ⟨.inr ⟨0x3_0000, at' _ (by decide), by unfold goodPointer; decide +kernel, .inr ⟨0x4_0000, ?_, by unfold goodPointer; decide +kernel, ?_, rfl⟩⟩,
    by decide +kernel, by decide +kernel, by decide +kernel, second_stage _ (by decide)⟩
  · rw [show addressOf (entryAt guestS 0x3_0000 (indexAt 0x51_0000 (1 + 1))) = 0x4_0000 by decide +kernel]; exact at' _ (by decide)
  · rw [show addressOf (entryAt guestS 0x4_0000 (indexAt 0x51_0000 (0 + 1))) = 0x5_0000 by decide +kernel]; exact at' _ (by decide)

/-- The worked walk of R66: the tables it names, with a last or a level-1 leaf. -/
def specMem (l1 l0 : DWord) : List Host.Cell :=
  [((0x2_0008 : Nat), 0x4000_0001#64), (0x4000_0010, 0x4001_0001#64), (0x4001_9308, l1), (0x4002_79A8, l0)].foldl
    (fun m x => Memory.write m x.1 (toBytes 8 x.2.toNat)) []
def specWalk (l1 : DWord) : WalkRes × Nat × Bool :=
  walk { State.reset with mem := specMem l1 0x0012_3456_182F#64, xl := { State.reset.xl with ctxtab := 0x2_0000 } } [] 0 1 0x0A4C_2F35_8100
theorem test_walk_of_the_spec : (match specWalk 0x4002_0001 with
    | (.ok l, 16, false) => l.pa + 0x8100 == 0x12_3456_8100 && l.r && l.w && !l.x && l.user && l.kind == 0 && l.pol == 3 | _ => false) = true := by decide +kernel
theorem test_large_page_of_the_spec : (match specWalk 0x20_0000_180F with
    | (.ok l, 29, false) => l.pa + 0xF35_8100 == 0x20_0F35_8100 && l.r && l.w && !l.x && !l.user | _ => false) = true := by decide +kernel
/-- 32 leaves with the contiguity hint give one page of 2 MiB; a leaf out of place gives 64 KiB (R66). -/
def groupMem (odd : Nat) : List Host.Cell :=
  (List.range 32).foldl (fun m i => Memory.write m (5 * 65536 + 8 * (0x40 + i)) (toBytes 8 ((0x60 + i + (if i = odd then 1 else 0)) * 65536 + 0x983F))) walkMem
theorem test_contiguous : ((walk { walkS 0x20000 with mem := groupMem 99 } [] 0 1 0x51_0000).2.1 == 21 &&
    (walk { walkS 0x20000 with mem := groupMem 7 } [] 0 1 0x51_0000).2.1 == 16) = true := by decide +kernel
/-- A pointer read early serves the walk after its table entry has changed (R74, R83). -/
theorem test_walk_cache : (let s := walkRead (walkS 0x20000) 0 1 2; let u := { s with mem := Memory.write s.mem (3 * 65536) (toBytes 8 0) }
    (walk u (wcOf u 0) 0 1 0x51_0000 == (.ok walkLeaf, 16, false) && walk u [] 0 1 0x51_0000 == (.bad 1 2 0, 16, false))) = true := by decide +kernel

/-! ### Waits -/

def waiting (w : Wait) : State := at3 (labWith (fun th => { th with wait := w, wend := 0x44 })) 0 0 0
def ended (u : State) : Bool := (th0 u).wait == .none && (th0 u).pcO == 0x44
theorem test_gang_barrier : let s := waiting (.bar 2); let t := at3 ({ s with gangs := s.gangs.map (fun e => (e.1, { e.2 with bars := [(2, 1), (2, 0), (3, 0)] })) }) 0 2 0
    (liveThreads t ((t.gang 0).getD labGang) == [0, 1] && answ .gangBarrierRelease t (fun u => ended u && (u.gang 0).map (fun g => g.bars) == some [(3, 0)])) = true := by decide +kernel
theorem test_folio_barrier : let s := waiting .fol; let t := { s with fgangs := [(0, { grid := 0, folio := 0, slot := 0, members := [0], arrived := [1, 0] })] }
    answ .folioBarrierRelease t (fun u => ended u && (u.fgangs.find 0).map (fun f => f.arrived) == some []) = true := by decide +kernel
theorem test_pop_wakes : answ .dqpopWake (waiting (.pop 20)) (fun u => ended u && (th0 u).sv 20 == 7 && (th0 u).dqpos == 1) = true := by decide +kernel
theorem test_pop_at_close : let s := waiting (.pop 20); let t := { s with gangs := [(0, { labGang with dq := [], nib := some 1 })] }.setThread 1 { labNib with exited := true }
    (dqWord ((t.gang 0).getD labGang) (th0 t) == none && nibClosed t ((t.gang 0).getD labGang) && answ .dqpopWake t (fun u => (th0 u).wait == .none && (th0 u).pcO == (th0 t).pcO)) = true := by decide +kernel
theorem test_section_enters : (mayEnter (waiting (.ordbeg 4)) 0 labGang 4 && answ .ordbegEnter (waiting (.ordbeg 4)) (fun u => ended u && (u.gang 0).map (fun g => g.held) == some (some (0, 4)))) = true := by decide +kernel
theorem test_mark_wakes : (markReady (th0 (waiting (.mark 0 4))) 0 4 && domStoresDone (th0 (waiting (.mark 0 4))) && (th0 (waiting (.mark 0 4))).rfault == none &&
    answ .markRetire (waiting (.mark 0 4)) ended) = true := by decide +kernel
theorem test_arrival_wakes : answ .arwaitWake (waiting (.arwait (0, 16) 0 (some 2) (some 20))) (fun u => ended u && (th0 u).sv 20 == 0) = true := by decide +kernel
theorem test_drain_wakes : (outstanding (waiting (.edrain 2)) 0 0 == 0 && answ .edrainComplete (waiting (.edrain 2)) ended) = true := by decide +kernel
theorem test_push_wakes : let s := (at3 lab 0 0 0).setThread 1 { labNib with wait := .push 9, wend := 0x44 }
    (dqHeld s labGang + pendingPushes labNib == 1 && answ .dqpushWake s (fun u => match u.thread 1 with | some x => x.wait == .none && x.mq.length == 1 && x.pcO == 0x44 | none => false)) = true := by decide +kernel

/-! ### Shoot-downs -/

def shootS (op : Nat) (done : Bool) : State :=
  let e := fun (v : Nat) (a : Option Nat) (p : Nat) => ({ vmid := v, asid := a, page := p, size := 16, res := .ok labLeaf } : TlbEnt)
  let s := at3 (labWith (fun th => { th with wait := .shootdown, wend := 0x44 })) 0 0 0
  { s with xl := { s.xl with tlb := [(0, [e 1 (some 2) 7, e 1 (some 3) 7, e 1 none 7, e 1 (some 2) 8, e 2 (some 2) 7])],
                             shoots := [{ who := some 0, op := op, vmid := 1, asid := 2, addr := 7, removed := done }] } }
def left (u : State) : List (Nat × Option Nat × Nat) := ((u.xl.tlb.find 0).getD []).map (fun e => (e.vmid, e.asid, e.page))
theorem test_shoot_address : answ .xinvcAddress (shootS 0 false) (fun u => left u == [(1, some 3, 7), (1, some 2, 8), (2, some 2, 7)]) = true := by decide +kernel
theorem test_shoot_context : answ .xinvcContext (shootS 1 false) (fun u => left u == [(1, some 3, 7), (1, none, 7), (2, some 2, 7)]) = true := by decide +kernel
theorem test_shoot_guest : answ .xinvcGuest (shootS 2 false) (fun u => left u == [(2, some 2, 7)]) = true := by decide +kernel
theorem test_shoot_guest_physical : answ .xinvcGuestPhysical (shootS 3 false) (fun u => left u == [(2, some 2, 7)]) = true := by decide +kernel
theorem test_shoot_all : answ .xinvcAll (shootS 4 false) (fun u => left u == [] && u.xl.shoots.map (fun h => h.removed) == [true]) = true := by decide +kernel
theorem test_shoot_retires : (shootQuiet (shootS 0 true) { who := some 0, op := 0, vmid := 1, asid := 2, addr := 7, removed := true } &&
    answ .shootdownRetire (shootS 0 true) (fun u => ended u && u.xl.shoots == [])) = true := by decide +kernel
def rowS (f : Thread → Thread) (on : Bool) (v : DWord) : State := let s := labWith f; { s with inp := { Input.none with on := on, v1 := v } }
theorem test_seginval_row : answ .seginvalWrite (rowS id false 0) (fun u => (th0 u).pcO == 4) = true := by decide +kernel
theorem test_levels_row : answ .tflcntWrite (rowS labSup false 2) (fun u => ((th0 u).sup.map (fun f => f.levels.length)) == [2]) = true := by decide +kernel
theorem test_levels_row_trap : answ .tflcntWrite (rowS labSup false 5) (fun u => ((th0 u).sup.map (fun f => f.cause.toNat % 256)) == [1, 1]) = true := by decide +kernel
theorem test_depth_row : answ .statusDepthWrite (rowS labSup false 2) (fun u => (th0 u).sup.length == 2 && !(th0 u).uck) = true := by decide +kernel
theorem test_depth_row_trap : answ .statusDepthWrite (rowS labSup false 3) (fun u => (th0 u).sup.length == 2 && ((th0 u).sup.map (fun f => f.cause.toNat % 256)) == [1, 1]) = true := by decide +kernel

/-! ### The matrix queue and the engines -/

def labEnt (fn : Nat) : MEnt :=
  { tid := 0, gang := 0, fn := fn, mask := BitVec.allOnes 96, rm := 0, sat := false, s32 := false, fmt := 0, n := 1, d := 0, a := 1024, regs := [],
    aDesc := none, bDesc := [0, 0, 16, 0], ser := 0, seq := fn, snap := [], owed := none }
def accS (e : MEnt) : State :=
  let s := at3 lab 0 0 0
  { s with gangs := [(0, { labGang with acc := [255, 256, 257, 511, 512].map (fun i => (i, BitVec.ofNat 32 (i + 1))) })] }.modQuill 0 (fun q => { q with mx := [e, labEnt 6] })
def commits (e : MEnt) (p : State → Bool) : Bool := answ .matrixEntryCommit (accS e) (fun u => (u.quill 0).mx == [labEnt 6] && p u)
theorem test_aclr : commits (labEnt 0) (fun u => [255, 256, 511, 512].map (accAt u 0) == [256, 0, 0, 513]) = true := by decide +kernel
theorem test_ald : commits { labEnt 1 with d := 4 } (fun u => (th0 u).lane 4 0 == 257 && (th0 u).lane 6 63 == 512 && (th0 u).lane 4 2 == 0 && (th0 u).lane 6 64 == labThread.lane 6 64) = true := by decide +kernel
theorem test_ast : commits { labEnt 2 with regs := List.replicate 256 9, mask := 5 } (fun u => [256, 257, 258, 352, 354, 255].map (accAt u 0) == [9, 258, 9, 9, 9, 256]) = true := by decide +kernel
theorem test_acpy : commits { labEnt 5 with d := 0 } (fun u => [0, 255, 256].map (accAt u 0) == [257, 512, 257]) = true := by decide +kernel
/-- Products of s8 bytes: −1 times 2, 64 times. -/
def mmaE (w : Nat) : MEnt :=
  { labEnt 16 with fmt := w, n := 16, d := 1024, regs := List.replicate 128 0xFFFF_FFFF, snap := (List.range 64).map (fun i => (i, 2)) }
theorem witness_mma : let s := accS (mmaE 0x155)
    ((s.quill 0).mx.head? == some (mmaE 0x155) && !(s.quill 0).halted && mxReady s (mmaE 0x155) && (mxOperands s (mmaE 0x155)).2.2 == none && mxAws s (mmaE 0x155) == (none, none) && fmtAcc 0x155 == 1 && fmtSpm 0x155 == 0 &&
      slabA 0x155 == 64 && slabB 0x155 == 64) = true := by decide +kernel
theorem test_mma_commits : commits (mmaE 0x155) (fun u => [256, 257, 288].map (accAt u 0) == [129, 258, BitVec.ofInt 32 (-128)]) = true := by decide +kernel
theorem test_mma_s8 : (mmaElem 0x155 300 false (List.replicate 64 0xFF) (List.replicate 64 2)).1 = 172 := by decide +kernel
theorem test_mma_u8_s8 : (mmaElem 0x156 300 false (List.replicate 64 0xFF) (List.replicate 64 2)).1 = 32940 := by decide +kernel

def cmdE : EngCmd :=
  { seq := 3, tid := 0, gang := 0, cmd := 0, dst := 0, src := 0, scope := 1, op := 0, pol := 3, mode := .user, asid := 1, vmid := 0, srcA := 0x1000, dstA := 0x2000,
    rows := 1, len := 8, sstr := 0, dstr := 0, idx := 0, aw := some 16, ser := 0, started := true, e := 0, buf := [], wrote := [0, 1, 2, 3], taint := [] }
def engS (cs : List EngCmd) (n2 n3 : Nat) : State := (at3 lab 0 n2 n3).modQuill 0 (fun q => { q with copy := { seq := 9, cmds := cs } })
theorem test_command_starts : let c := { cmdE with started := false, wrote := [] }
    (cmdReady (engS [c] 0 0) c && answ .engineCommandStart (engS [{ cmdE with seq := 2 }, c, { c with seq := 4 }] 0 0) (fun u =>
      (u.quill 0).copy.cmds.map (fun x => x.started) == [true, true, false])) = true := by decide +kernel
theorem test_bytes_count : ((List.range 4).all (fun i => posDone (engS [cmdE] 4 0) 0 .copy cmdE i) && !scrPoisoned lab 0 16 16 &&
    answ .engineBytesCommit (engS [cmdE] 4 0) (fun u => (u.quill 0).copy.cmds.map (fun x => x.e) == [4] && scrRead u 0 16 16 == arrived (awRead lab 0 16) 4)) = true := by decide +kernel
theorem test_last_bytes_end_the_command : let c := { cmdE with e := 4, wrote := [4, 5, 6, 7] }
    ((List.range 4).all (fun i => posDone (engS [c] 4 0) 0 .copy c (4 + i)) && answ .engineBytesCommit (engS [c] 4 0) (fun u => (u.quill 0).copy.cmds == [])) = true := by decide +kernel
/-- A source outside every mapping that the TLBs hold: unmapped by walk, class 1. -/
def faultS : State := let c := { cmdE with srcA := 0x51_0000, wrote := [], aw := none }
  let s := engS [c] 0 2; { s with xl := { s.xl with tlb := [(0, [{ vmid := 0, asid := some 1, page := 0x51, size := 16, res := .ok { walkLeaf with r := false, r1 := false } }]), (8, [])] } }
theorem test_engine_fault : (posFault faultS 0 { cmdE with srcA := 0x51_0000, wrote := [], aw := none } 2 == some (3, 2, 0x51_0002, some 0x403, none) &&
    (workCmd faultS 0 .copy 0 2).isSome && answ .engineFault faultS (fun w => (w.quill 0).halted && !(w.quill 0).efs.stop && issuedDone w 0 &&
      answ .engineFault w (fun u => (u.quill 0).halted && (u.quill 0).efs.stop && (u.quill 0).efs.cls == 3 &&
        (u.quill 0).efs.seq == 3 && (u.quill 0).efs.index == 2 && (u.quill 0).efs.addr == 0x51_0002))) = true := by decide +kernel
def stoppedS : State := (at3 lab 0 0 0).modQuill 0 (fun q => { q with halted := true, efs := { EFrame.zero with stop := true }, copy := { seq := 9, cmds := [cmdE] } })
theorem test_resume : answ .efstatResume stoppedS (fun u => !(u.quill 0).halted && !(u.quill 0).efs.stop) = true := by decide +kernel
theorem test_abort : answ .efstatAbort stoppedS (fun u => !(u.quill 0).efs.stop && (u.quill 0).copy.cmds == [] && (th0 u).exited &&
    (match u.thread 1 with | some x => x.exited | none => false)) = true := by decide +kernel

/-! ### The domain -/

/-- The window of context (1, 0) is open for 1 MiB; peer 3 is admitted. -/
def domS (r : Request) : State :=
  let s := labMem { lab with inp := { Input.none with req := r } }
  { s with fab := { s.fab with domexp := 0x8000_0040_0000_0010, domexpEff := 0x8000_0040_0000_0010, allow := 8 :: List.replicate 7 0 } }
def reqL (k : ReqKind) (off n : Nat) (data : List Byte) : Request := { src := 3, id := 70, kind := k, accs := [{ off := off, size := n, data := data, bad := false }] }
def gives (r : Request) (f : State → State) (c : Option Nat) (d : List (List Byte)) (p : State → Bool) : Bool :=
  answ .domainRequestArrive (f (domS r)) (fun u => u.fab.answers == [(3, 70, c, d)] && p u)
/-- The same of a request that passes its checks and performs in a second step. -/
def serves (r : Request) (d : List (List Byte)) (p : State → Bool) : Bool :=
  answ .domainRequestArrive (domS r) (fun w => w.fab.answers == [] && w.mem == (domS r).mem &&
    w.fab.serving == [{ req := r, kind := 0, vmid := 0, asid := 1, parts := r.accs.map (fun a =>
      { acc := 0, first := 0, pa := a.off, size := a.size, data := a.data, got := none }) }] &&
    answ .domainRequestArrive w (fun u => u.fab.answers == [(3, 70, none, d)] && u.fab.serving == [] && p u))
theorem test_request_not_admitted : gives { reqL .load 0x1000 4 [] with src := 3 } (fun s => { s with fab := { s.fab with allow := List.replicate 8 0 } }) (some 0x12) [] (fun _ => true) = true := by decide +kernel
theorem test_window_shut : gives (reqL .load 0x1000 4 []) (fun s => { s with fab := { s.fab with domexpEff := 0x10 } }) (some 0x10) [] (fun _ => true) = true := by decide +kernel
theorem test_window_end : gives (reqL .load 0xF_FFFC 8 []) id (some 0x11) [] (fun _ => true) = true := by decide +kernel
theorem witness_window : (tlbFind (domS (reqL .load 0x1000 4 [])) 8 0 1 0x1000 == some (labLeaf, 0x1000) && admitted (domS (reqL .load 0x1000 4 [])) (reqL .load 0x1000 4 []) &&
    windowOpen (domS (reqL .load 0x1000 4 [])) && windowSize (domS (reqL .load 0x1000 4 [])) == 0x10_0000 && permBad .load .user labLeaf == none &&
    permBad .store .user labLeaf == none && permBad .atomic .user labLeaf == none) = true := by decide +kernel
theorem test_request_load : serves (reqL .load 0x1000 4 []) [[1, 2, 3, 4]] (fun _ => true) = true := by decide +kernel
theorem test_request_store : serves (reqL .store 0x1002 2 [9, 9]) [[]] (fun u => u.bytes 0x1000 4 == [1, 2, 9, 9]) = true := by decide +kernel
theorem test_request_cas : serves (reqL (.atomic .cas false) 0x1000 4 [9, 8, 7, 6, 1, 2, 3, 4]) [[1, 2, 3, 4]] (fun u => u.bytes 0x1000 4 == [9, 8, 7, 6]) = true := by decide +kernel

/-- A request of thread 0 outstanding to peer 9. -/
def outO (k : OpKind) (n : Nat) : OutReq :=
  { id := 70, peer := 9, lane := 3, quill := 0, port := some 2, sentAt := 50, owner := .thread 0 5 [0],
    req := { src := 0, id := 70, kind := match k with | .store => .store | _ => .load, accs := [{ off := 0x180, size := n, data := [], bad := false }] }, line := 3,
    gone := true }
def farA (n : Nat) : Acc := { acc0 (.dom 9 0x180) [] n with ph := .sent, req := some 70 }
def outS (k : OpKind) (fin : Fin) (i : Input) : State :=
  let s := labOp k (farA 8) fin
  { s with inp := i, tick := 4096 * 2000, fab := { s.fab with out := [outO k 8] } }
theorem witness_outstanding (k : OpKind) (fin : Fin) (i : Input) : Outstanding (outS k fin i) 70 (outO k 8) 0 (th0 (outS k fin i)) (op0 k (farA 8) fin) (farA 8) :=
  ⟨rfl, Nat.succ_ne_zero 8, ⟨[0], rfl⟩, rfl, rfl, ⟨.head _, fun _ hx _ => List.mem_singleton.mp hx⟩, rfl, ⟨rfl, rfl⟩, rfl, rfl, rfl⟩
theorem test_acknowledge : answ .domainStoreAcknowledge (outS .store .none { Input.none with nums := [70] }) (fun u => u.fab.out == [] &&
    (th0 u).mq.all (fun o => o.accs.all (fun a => a.ph == .acked))) = true := by decide +kernel
theorem test_response : answ .domainResponseReceive (outS .load (.sload 3 20) { Input.none with n1 := 70, parts := [[1, 2, 3, 4, 5, 6, 7, 8]] }) (fun u => u.fab.out == [] &&
    ((th0 u).s.drop 20).take 2 == [⟨0x04030201, false⟩, ⟨0x08070605, false⟩]) = true := by decide +kernel
theorem test_refusal : answ .negativeAcknowledge (outS .load (.sload 3 20) { Input.none with n1 := 70, n2 := 0x12 }) (fun u => u.fab.out == [] &&
    (th0 u).rfault == some { addr := 0x0082_4000_0000_0180, peer := 9, cls := 0x12, count := 0 }) = true := by decide +kernel
theorem test_timeout : answ .responseTimeout (outS .load (.sload 3 20) { Input.none with n1 := 70 }) (fun u => u.fab.out == [] && u.fab.expired.length == 1 &&
    (th0 u).rfault.map (fun x => x.cls.toNat) == some 0x16) = true := by decide +kernel

def linkS (n1 n2 : Nat) (v : DWord) : State :=
  let s := outS .load (.sload 3 20) { Input.none with n1 := n1, n2 := n2, v1 := v }
  { s with fab := { s.fab with ports := setAt s.fab.ports 2 { Port.init with state := 2 }, route := [(9, 0x8000_0000_0000_0006)], oldRoute := [(9, 4, 1), (9, 3, 1)] } }
theorem test_replay : answ .linkReplay (linkS 2 0 0) (fun u => (u.fab.ports[2]?).map (fun p => p.replays) == some 1) = true := by decide +kernel
theorem test_link_lost : (FMap.sorted (linkS 2 0 0).fab.route && answ .linkLost (linkS 2 0 0) (fun u => (u.fab.ports[2]?).map (fun p => p.state.toNat) == some 3 &&
    u.fab.route.find 9 == some 0x8000_0000_0000_0002 && u.fab.out.all (fun o => o.port != some 2))) = true := by decide +kernel
theorem test_lane_stops : answ .virtualLaneStop (linkS 2 1 0) (fun u => (u.fab.ports[2]?).map (fun p => p.stopped) == some [1]) = true := by decide +kernel
theorem test_lane_resumes : answ .virtualLaneResume (linkS 2 1 0) (fun u => (u.fab.ports[2]?).map (fun p => p.stopped) == some []) = true := by decide +kernel
theorem test_route : answ .domrouteWrite (linkS 9 0 0xC000_0000_0007_0001) (fun u => u.fab.route.find 9 == some 0x8000_0000_0003_0001 && u.fab.oldRoute.any (fun r => r.1 == 9 && r.2.1 == 3)) = true := by decide +kernel
theorem test_lane_switch : answ .routeLaneSwitch (linkS 9 4 0) (fun u => u.fab.oldRoute == [(9, 3, 1)]) = true := by decide +kernel
theorem test_domexp : answ .domexpWrite (linkS 0 0 0x8000_0041_7FFF_FFFF) (fun u => u.fab.domexp == 0x8000_0041_4000_0000 && u.fab.domexpEff == 0) = true := by decide +kernel

def tickS (v1 v2 : DWord) (on : Bool) : State :=
  { lab with inp := { Input.none with v1 := v1, v2 := v2, on := on, n1 := 5, n2 := 7 }, fab := { lab.fab with tport := 4, exch := some (90, 100, 100) } }
theorem test_exchange : answ .tickExchange (tickS 90 0 false) (fun u => u.fab.exch == some (90, 100, 100)) = true := by decide +kernel
theorem test_exchange_lead : answ .tickExchangeClose (tickS 90 100 false) (fun u => u.fab.exch == none && u.tick == 100 && u.hold == 5 && u.fab.lastadj == 5) = true := by decide +kernel
theorem test_exchange_lag : answ .tickExchangeClose (tickS 90 130 false) (fun u => u.tick == 100 && u.hold == 0 && u.skip == 10 && u.fab.lastadj.toInt == -10 &&
    (passTime u 1).tick == 111 && (passTime u 1).skip == 0 && (passTime u 1).cycles == u.cycles + 1) = true := by decide +kernel
/-- Device 3, with peer 9 on port 4 and peer 1 on port 6. -/
def pathS (f : Fabric → Fabric) (n1 : Nat) (nums : List Nat) : State :=
  let up := fun (p : Nat) => { Port.init with state := 2, ppeer := BitVec.ofNat 9 p }
  { lab with inp := { Input.none with n1 := n1, nums := nums }, fab := f { lab.fab with peer := 3, tsource := 1, tport := 6, ports := setAt (setAt lab.fab.ports 4 (up 9)) 6 (up 1) } }
theorem test_source_found : answ .timeSourceLost (pathS id 0 [0, 0, 0, 0, 2, 0, 5]) (fun u => !u.fab.lost && u.fab.tsource == 0 && u.fab.tport == 4 && u.tick == 100) = true := by decide +kernel
theorem test_source_lost : answ .timeSourceLost (pathS (fun f => { f with ports := setAt f.ports 6 Port.init }) 1 []) (fun u => u.fab.lost && u.fab.tsource == 1 && u.fab.tport == 6) = true := by decide +kernel

/-! ### Storage -/

def stoS (n1 n2 : Nat) (v : DWord) : State :=
  let s := { lab with inp := { Input.none with n1 := n1, n2 := n2, v1 := v }, grids := [(0, { labGrid with done := true })] }
  { s with st := { s.st with staging := [(5, [(10, 1), (524288, 2)]), (6, [(10, 3)])], chrsv := [(7, { share := 4, lent := 10, inEffect := 9, frames := 1 })],
                             windows := [3], poison := [(3 * 2 ^ 32 + 65536, 65536), (0, 64)] } }
theorem test_staging_owner : answ .stagingOwnershipChange (stoS 5 0 0xFFFF_FFFF) (fun u => ((u.st.stgown.find 5).getD [])[0]? == some 0x83FF_3F00 &&
    u.st.staging.find 5 == some [(524288, 2)] && u.st.staging.find 6 == some [(10, 3)]) = true := by decide +kernel
theorem test_reservation : answ .chrsvWrite (stoS 7 0 31) (fun u => (u.st.chrsv.find 7).map (fun x => (x.share, x.inEffect)) == some (16, 9)) = true := by decide +kernel
theorem test_frame_boundary : answ .reservationFrameBoundary (stoS 7 6 0) (fun u => u.st.chrsv.find 7 == some { share := 4, lent := 16, inEffect := 4, frames := 2 }) = true := by decide +kernel
theorem test_astc_format : answ .astcfmtWrite (stoS 2 0 0x80AA) (fun u => u.st.astc[2]? == some 0x80AA && u.st.astc[1]? == some 0x44) = true := by decide +kernel
theorem test_window_opens : answ .inkwellRefreshWindowOpen { stoS 0 0 0 with tick := 134400 } (fun u => u.st.windows == [3, 0]) = true := by decide +kernel
theorem test_window_closes : answ .inkwellRefreshWindowClose { stoS 3 0 0 with tick := 134400 } (fun u => u.st.windows == []) = true := by decide +kernel
theorem test_scrub : (sinceOpen 134400 3 == 117600 && paOf 5 128 < 2 ^ 38 && answ .gddrScrub (stoS 5 128 0) (fun u => poisoned u (paOf 5 128) 1)) = true := by decide +kernel
theorem test_poison_clear : ((chEntries (stoS 0 0 0) 3).filter (fun e => decide (128 < e.2)) == [(3 * 2 ^ 32 + 65536, 65536)] &&
    answ .poisonTableClear (stoS 3 0 0) (fun u => u.st.poison == [(0, 64)])) = true := by decide +kernel
def upset (c : Cellref) (on : Bool) : State := { lab with inp := { Input.none with cell := c, on := on } }
theorem test_corrected : answ .softError (upset (.sreg 0 5) true) (fun u => (th0 u).s == (th0 lab).s) = true := by decide +kernel
theorem test_upset_vector : answ .softError (upset (.vreg 0 3 7) false) (fun u => ((th0 u).vreg 3).poison.getLsbD 7) = true := by decide +kernel
theorem test_upset_scalar : answ .softError (upset (.sreg 0 5) false) (fun u => ((th0 u).s[5]?).map (fun y => y.poison) == some true) = true := by decide +kernel
theorem test_upset_predicate : answ .softError (upset (.pred 0 2 1) false) (fun u => ((th0 u).kpoison 2).getLsbD 1) = true := by decide +kernel
theorem test_upset_scratchpad : answ .softError (upset (.scratch 0 9) false) (fun u => (u.gang 0).any (fun g => g.scrPoison.contains 9)) = true := by decide +kernel
theorem test_upset_accumulator : answ .softError (upset (.acc 0 9) false) (fun u => (u.gang 0).any (fun g => g.accPoison.contains 9)) = true := by decide +kernel
theorem test_upset_line : answ .softError ((upset (.l1 0 9) false).modQuill 0 (fun q => { q with cq := [(9, [])] })) (fun u => (u.quill 0).cq == []) = true := by decide +kernel
theorem test_upset_gddr : answ .softError (upset (.gddr 9) false) (fun u => poisoned u 576 1) = true := by decide +kernel
theorem test_upset_l2 : answ .softError (upset (.l2Dirty 9) false) (fun u => poisoned u 576 1) = true := by decide +kernel
theorem test_upset_staging : answ .softError (upset (.staging 4 9) false) (fun u => u.st.stgPoison == (List.range 16).map (fun i => (4, i))) = true := by decide +kernel
theorem test_upset_inkwell : answ .softError (upset (.inkwell (inkBase / 128)) false) (fun u => poisoned u inkBase 1) = true := by decide +kernel

/-! ### Placement and pre-emption -/

def placeS (resident : Bool) : State :=
  at3 { lab with gangs := [], threads := [], fgangs := [], grids := [(0, { labGrid with op := { labOper with resident := resident } })] } 0 0 0
def placed (u : State) : Bool :=
  (u.gang 1).any (fun x => x.quill == 1 && x.index == 1 && x.warps == [2] && x.slots == [0] && x.grid == 0) &&
  (u.thread 2).any (fun t => t.pcO == 0x40 && t.quill == 1 && t.warp == 0 && (t.s.map (fun x => x.val.toNat)) ==
    [0xFFFF_FFFF, 0xFFFF_FFFF, 0xFFFF_FFFF, 1, 0, 0, 256, 0x1234, 0, 0, 0, 0, 0, 0, 0, 0] && t.lane 5 7 == 0x7FA0_0005) &&
  (u.grids.find 0).any (fun g => g.next == 2 && g.lastQuill == some 1)
def placeReady (s : State) (g : Grid) : Bool :=
  mayServe s 0 g && g.left == 1 && (match findPlace s g with | (s1, some (none, [(1, _)])) => !mustRaise s1 g.ker 0 | _ => false)
theorem witness_place : placeReady (placeS false) labGrid = true := by decide +kernel
theorem test_place : answ .gangPlace (placeS false) placed = true := by decide +kernel
theorem test_place_resident : answ .residentGridPlace (placeS true) placed = true := by decide +kernel
theorem test_release : let s := at3 { lab with gangs := [(0, { labGang with ended := true, fgang := none }), (1, labGang)] } 0 0 0
    (!landing s 0 { labGang with ended := true, fgang := none } && answ .allocationRelease s (fun u => u.gangs.map (fun e => e.1) == [1] && u.threads.map (fun e => e.1) == [])) = true := by decide +kernel
/-- A folio gang of two members leaves together. -/
def folioS (both : Bool) : State :=
  at3 { lab with gangs := [(0, { labGang with ended := true, fgang := some 0 }), (1, { labGang with ended := both, fgang := some 0, quill := 1, warps := [], nib := none })] } 0 0 0
theorem test_release_folio : (answ .allocationRelease (folioS true) (fun u => u.gangs.length == 0 && u.threads.length == 0 && u.fgangs.length == 0) &&
    answ .allocationRelease (folioS false) (fun u => u.gangs.length == 2 && u.fgangs.length == 1)) = true := by decide +kernel
/-- Grid 1, of a queue of priority 1 that pre-empts, waits; the rail of die 0 is too low for it. -/
def delayS : State :=
  { lab with tick := 10000, inp := { Input.none with n1 := 1 }, grids := [(0, labGrid), (1, { labGrid with queue := 1 })]
             pow := { lab.pow with level := (List.range 8).map (fun d => (d, 3)) }
             scrip := { lab.scrip with q := [(0, Queue.init), (1, { Queue.init with ctl := 0x4800_0000_0000_0000 })] } }
theorem witness_delay : (!fitsNow delayS 1 && choosePart delayS 1 { labGrid with queue := 1 } == some 0 && (delayS.queue 1).ctl.getLsbD 62 && (delayS.scrip.drain == []) &&
    delayS.scrip.ptcfg.toNat / 2 ^ 32 % 65536 * 4096 < 10000) = true := by decide +kernel
def stops (u : State) : Bool := u.scrip.drain == [0] && (u.quill 0).halted
theorem test_delay : answ .preemptDelayExpiry delayS stops = true := by decide +kernel
theorem test_preempt_partition : answ .ptreqPartition (at3 lab 0 0 0) (fun u => stops u && u.scrip.ptbusy) = true := by decide +kernel
theorem test_preempt_queue : answ .ptreqQueue (at3 lab 0 0 0) (fun u => stops u && u.scrip.ptbusy) = true := by decide +kernel
def drainS : State := let s := (at3 lab 0 0 0).modQuill 0 (fun q => { q with halted := true, cq := [(1, [])] }); let s1 := (List.range 96).foldl (fun s q => s.modQuill q (fun x => { x with halted := true })) s
  { s1 with scrip := { s1.scrip with drain := [0] } }
theorem witness_drained : ((partQuills drainS 0).all (quillDrained drainS) && !shadowHeld drainS 0) = true := by decide +kernel
theorem test_exchange_shadow : answ .shadowExchange drainS (fun u => u.gangs == [] && u.threads.length == 0 && u.scrip.drain == [] &&
    u.scrip.saved.map (fun x => (x.part, x.shadow, (x.quills.flatMap (fun q => q.gangs.map (fun e => e.1))), (x.quills.flatMap (fun q => q.threads.map (fun e => e.1))))) == [(0, true, [0], [0, 1])]) = true := by decide +kernel
/-- The saved partition, in a shadow bank of partition p or in its save area. -/
def savedOf (p : Nat) (shadow : Bool) : Saved :=
  { part := p, shadow := shadow, fgangs := lab.fgangs, since := 0, quills := [{ quill := Quill.init, gangs := lab.gangs, threads := lab.threads }] }
def savedS (p : Nat) (shadow : Bool) (n1 n2 : Nat) : State :=
  at3 { lab with gangs := [], threads := [], fgangs := [], grids := [], scrip := { lab.scrip with saved := [savedOf p shadow] } } n1 n2 0
theorem test_spill : answ .stateSpill (savedS 0 true 0 0) (fun u => u.scrip.saved.map (fun x => x.shadow) == [false]) = true := by decide +kernel
theorem test_fill : ((emptyParts (savedS 0 false 0 1)).contains 1 && !shadowHeld (savedS 0 false 0 1) 1 && goesFirst (savedS 0 false 0 1) 0 (savedOf 0 false) &&
    answ .stateFill (savedS 0 false 0 1) (fun u => u.scrip.saved.map (fun x => (x.part, x.shadow)) == [(1, true)])) = true := by decide +kernel
theorem test_resume_partition : ((emptyParts (savedS 1 true 0 1)).contains 1 && goesFirst (savedS 1 true 0 1) 0 (savedOf 1 true) && (savedOf 1 true).residents (savedS 1 true 0 1) == [] &&
    (savedOf 1 true).level ≤ dieLevel (savedS 1 true 0 1) (dieOf (8 * partBase (savedS 1 true 0 1) 1)) &&
    answ .partitionResume (savedS 1 true 0 1) (fun u => u.scrip.saved.length == 0 && u.gangs.map (fun e => (e.1, e.2.quill)) == [(0, 8 * partBase u 1)] &&
      u.threads.map (fun e => (e.1, e.2.quill, e.2.segFresh)) == [(0, 8 * partBase u 1, true), (1, 8 * partBase u 1, true)])) = true := by decide +kernel

/-! ### Queues -/

/-- A packet of four words, at a slot of the ring at 0x8000. -/
def pk (w : List Nat) : Packet := { index := 2, bytes := w.flatMap (fun x => toBytes 8 x) ++ List.replicate (64 - 8 * w.length) 0 }
def labQ : Queue := { Queue.init with ctl := 0x1_0000_0000, base := 0x8000, en := true, state := 1 }
def queueS (x : Queue) : State := let s := labMem (at3 lab 0 0 0); { s with tick := 100000, scrip := { s.scrip with q := [(0, x)] } }
def headS (p : Packet) : State := queueS { labQ with pre := [p, pk [1]] }
/-- Every byte of a range lies where the hub's TLB says, as AtHub asks. -/
def atHub (s : State) (va n : Nat) (acc : AK) : Bool :=
  (List.range n).all (fun i => tlbFind s 8 (s.queue 0).vmid (s.queue 0).asid (va + i) == some (labLeaf, va + i)) && permBad acc .sup labLeaf == none
def clears (p : Packet) (k : Nat) : Bool := p.kind == k && p.clean && p.tailClean
def does (i : Instr) (p : Packet) (e : QExec) (f : State → Bool) : Bool :=
  answ i (headS p) (fun u => (u.queue 0).cur == some p && (u.queue 0).exec == e && f u)

theorem witness_hub : (atHub (headS (pk [1])) 0x1000 8 .load && atHub (headS (pk [1])) 0x1000 8 .store && atHub (headS (pk [1])) 0x8080 48 .atomic) = true := by decide +kernel
theorem test_queue_enabled : let s := { queueS { labQ with en := false, state := 0 } with mem := walkMem, xl := { lab.xl with ctxtab := 0x20000 } }
    (ctxValid s 0 1 && decide (5 ≤ bootStage s) && answ .qctlEnable { s with boot := 4 } (fun u => !(u.queue 0).en) && answ .qctlEnable s (fun u => (u.queue 0).en && (u.queue 0).state == 1)) = true := by decide +kernel
theorem test_queue_disabled : answ .qctlDisable (queueS labQ) (fun u => !(u.queue 0).en && (u.queue 0).state == 0) = true := by decide +kernel
theorem test_queue_disabling : answ .qctlDisable (queueS { labQ with cur := some (pk [0x21]), exec := .waiting 5 0, state := 3 }) (fun u => (u.queue 0).en && (u.queue 0).state == 5 &&
    (u.queue 0).exec == .retiring 7 0 0 0) = true := by decide +kernel
theorem test_notify : answ .qnotify (queueS { labQ with paused := true, lastEval := 5 }) (fun u => !(u.queue 0).paused && (u.queue 0).lastEval == 0) = true := by decide +kernel
/-- Slot 2 is the next, holding a valid no-operation, or nothing. -/
def ringS (h : Nat) (x : Queue) : State := let s := queueS { x with retired := 2 }; { s with mem := Memory.write s.mem 0x8080 (toBytes 8 h) }
theorem test_fetch : (mayFetch labQ && answ .packetFetch (ringS 1 labQ) (fun u => (u.queue 0).pre == [pk [1]] && (u.queue 0).fetched == 1)) = true := by decide +kernel
theorem test_fetch_pauses : answ .packetFetch (ringS 0 labQ) (fun u => (u.queue 0).pre == [] && (u.queue 0).paused && (u.queue 0).lastPoll == 100000) = true := by decide +kernel
theorem test_poll : answ .packetPoll (ringS 1 { labQ with paused := true, lastPoll := 58000 }) (fun u => (u.queue 0).pre == [pk [1]] && !(u.queue 0).paused) = true := by decide +kernel
theorem test_noop : (clears (pk [1]) 0 && does .noopPacket (pk [1]) (.retiring 0 0 0 0) (fun _ => true)) = true := by decide +kernel
theorem test_fence : (clears (pk [0x61]) 6 && does .fetchFence (pk [0x61]) (.retiring 0 0 0 0) (fun u => (u.queue 0).pre == [])) = true := by decide +kernel
theorem test_reserved : (clears (pk [0x71]) 7 && does .reservedPacket (pk [0x71]) (.retiring 9 0 0 0) (fun _ => true)) = true := by decide +kernel
theorem test_launch : (clears (pk [0x11, 0x1000, 1, 0]) 1 && does .launchPacket (pk [0x11, 0x1000, 1, 0]) (.chain 0 0 0 0 0 false) (fun _ => true)) = true := by decide +kernel
def waitP (v c : Nat) : Packet := pk [0x21, 0x1000, v, c]
theorem test_wait_true : (clears (waitP 0x0807060504030201 0) 2 && does .waitPacket (waitP 0x0807060504030201 0) (.retiring 0 0 0 0) (fun _ => true)) = true := by decide +kernel
theorem test_wait_waits : does .waitPacket (waitP 0 2) (.waiting 100000 0x0807060504030201) (fun u => (u.queue 0).state == 3) = true := by decide +kernel
def waitQ (p : Packet) : State := queueS { labQ with cur := some p, exec := .waiting 500 7, state := 3 }
theorem test_wait_evaluates : answ .waitEvaluate (waitQ (waitP 0 3)) (fun u => (u.queue 0).exec == .retiring 0 0 0 0) = true := by decide +kernel
theorem test_wait_goes_on : answ .waitEvaluate (waitQ (waitP 5 0)) (fun u => (u.queue 0).exec == .waiting 500 0x0807060504030201) = true := by decide +kernel
theorem test_wait_times_out : answ .waitTimeout (waitQ (waitP 5 0x5_0000_0000)) (fun u => (u.queue 0).exec == .retiring 8 0 0 7) = true := by decide +kernel
def sigP (op : Nat) : Packet := pk [0x31, 0x1000, 2, op]
theorem test_signals : [0, 1, 2].all (fun op => clears (sigP op) 3 && does (signalRow op) (sigP op) (.updating 0 none) (fun u =>
    u.dword 0x1000 == [2, 0x08070605040301FF, 0x0807060504030203].getD op 0)) = true := by decide +kernel
/-- The same machine with its first two megabytes in host memory. -/
def farS (s : State) : State :=
  let t : TlbEnt := { vmid := 0, asid := some 1, page := 0, size := 21, res := .ok { labLeaf with pa := hostBase, kind := 3, pol := 1 } }
  { s with xl := { s.xl with tlb := [(0, [t]), (8, [t])] }, mem := Memory.write [] (hostBase + 0x1000) [5] }
theorem test_host_signal : (clearOf (hostBase + 0x1000) (hostBase + 0x8080) ∧ noHalf (farS (headS (sigP 2))) 0 (hostBase + 0x1000)) ∧
    answ .signalAdd (farS (headS (sigP 2))) (fun w => (w.queue 0).exec == .updating 0 (some (hostBase + 0x1000, 7)) && w.byte (hostBase + 0x1000) == 5 &&
      answ .packetRetire w (fun u => u.byte (hostBase + 0x1000) == 7 && (u.queue 0).retired == 1)) = true :=
  ⟨⟨by unfold clearOf; decide +kernel, fun e _ _ he hq => by
    rcases List.mem_singleton.mp he with rfl; exact absurd rfl hq⟩, by decide +kernel⟩
theorem test_reserved_bit : ([([0x2_0000_0001], 0), ([0x11, 0x1000, 0x1000, 0], 1), ([0x21, 0x1000, 0, 4], 2), ([0x31, 0x1000, 0, 9], 3), ([0x31, 0x1000, 0, 8], 3)] : List (List Nat × Nat)).all (fun x =>
    (pk x.1).kind == x.2 && !((pk x.1).clean && (pk x.1).tailClean) && does (packetRow (pk x.1) x.2) (pk x.1) (.retiring 9 0 0 0) (fun _ => true)) = true := by decide +kernel
theorem test_copy_packet : (clears (pk [0x41, 0x1000, 0x3000, 8]) 4 && (rangeKinds (headS (pk [1])) 0 0x1000 8 ++ rangeKinds (headS (pk [1])) 0 0x3000 8).all (fun k => k == 0 || k == 3) &&
    does .copyPacket (pk [0x41, 0x1000, 0x3000, 8]) (.retiring 0 0 0 0) (fun u => u.bytes 0x3000 9 == [1, 2, 3, 4, 5, 6, 7, 8, 0])) = true := by decide +kernel
def fillP : Packet := pk [0x51, 0x1000, 0x40_0000, 128]
theorem test_fill_packet : (clears fillP 5 && does .inkwellFillPacket fillP (.fill 0) (fun u => (u.queue 0).state == 4 && u.st.inkfill == [0])) = true := by decide +kernel
/-- Page 0x40 of the context lies in the inkwell. -/
def fillS : State :=
  let s := queueS { labQ with cur := some fillP, exec := .fill 0, state := 4 }
  { s with grids := [], st := { s.st with inkfill := [0] }
           xl := { s.xl with tlb := [(8, [{ vmid := 0, asid := some 1, page := 2, size := 21, res := .ok { labLeaf with pa := inkBase, kind := 1, pol := 2 } },
                                          { vmid := 0, asid := some 1, page := 0, size := 21, res := .ok labLeaf }])] } }
theorem test_fill_starts : ((List.range 128).all (fun i => (tlbFind fillS 8 0 1 (0x40_0000 + i)).map (fun x => (x.1.kind, x.2)) == some (1, inkBase + i)) &&
    rangeKinds fillS 0 0x40_0000 128 == [1] && answ .inkwellFillStart fillS (fun u => u.bytes inkBase 9 == [1, 2, 3, 4, 5, 6, 7, 8, 0] && (u.queue 0).exec == .retiring 0 0 0 0)) = true := by decide +kernel
def retS (code : Nat) : State := queueS { labQ with cur := some (pk [1]), exec := .retiring code 0 0 5, state := 2 }
theorem test_retire : (!(pk [1]).intr && answ .packetRetire (retS 0) (fun w => (w.queue 0).exec == .updating 0 none &&
    w.mem == statusMem (retS 0) 0x8080 5 0 && answ .packetRetire w (fun u => (u.queue 0).exec == .idle && (u.queue 0).retired == 1 &&
      u.mem == Memory.write w.mem 0x8080 (toBytes 8 (ofBytes (w.bytes 0x8080 8) / 2 * 2))))) = true := by decide +kernel
theorem test_retire_failed : answ .packetRetire (retS 9) (fun w => answ .packetRetire w (fun u =>
    (u.queue 0).exec == .idle && (u.queue 0).retired == 1 && (u.queue 0).lasterr == 9)) = true := by decide +kernel
/-- A launch whose signal stands at 0x1000 counts it down. -/
def retL : State := queueS { labQ with cur := some (pk [0x11, 0x2000, 0, 0x1000]), exec := .retiring 0 0 1 0, state := 2 }
theorem test_retire_signal : answ .packetRetire retL (fun u => (u.queue 0).exec == .updating 0x1_0000_0000_0000 none && u.dword 0x1000 == 0x0807060504030200) = true := by decide +kernel
/-- A slot in host memory, of which all but its last eight bytes have been read. -/
theorem test_host_slot : let s := farS (queueS { labQ with retired := 2, head := 1 :: List.replicate 39 0 })
    (mayFetch (s.queue 0) && answ .packetFetch s (fun u => (u.queue 0).pre == [{ index := 2, bytes := 1 :: List.replicate 47 0 }] && (u.queue 0).head == []) &&
     answ .packetFetch (s.modQueue 0 (fun x => { x with head := [] })) (fun u => (u.queue 0).paused && (u.queue 0).pre == [])) = true := by decide +kernel

/-! ### Chains and segment requests -/

/-- Words of 64 bits written into memory. -/
def pokes (m : List Host.Cell) (l : List (Nat × Nat)) : List Host.Cell := l.foldl (fun m x => Memory.write m x.1 (toBytes 8 x.2)) m
/-- An operator record at 0x2000 for the kernel descriptor at 0x2100, whose code is segment 1 of the handle table at 1 MiB. -/
def chainMem : List Host.Cell := pokes [] [(0x2000, 0x2100), (0x2008, 0x1234), (0x2010, 0x1_0000_0002), (0x2018, 0x0000_0010_0000_0001),
  (0x2100, 0x40_0000_0005), (0x2108, 0x0001_0001_0000_0000), (0x2110, 0x0101_0000_0102), (0x10_0010, 0x51_0000), (0x10_0018, 0x100_0001_0001)]
def chainP : Packet := pk [0x11, 0x2000, 0, 0]
def chainQ (e : QExec) (sh : Option (Sum (Oper × Kernel) (Nat × Nat × DWord × Bool))) : State :=
  let s := queueS { labQ with cur := some chainP, exec := e, shadow := sh, state := 2 }
  { s with mem := chainMem, grids := [], xl := { s.xl with segtab := 0x10_0003 } }
def chainO : Oper := { labOper with mbx := List.replicate 16 0, join := true }
def chainK : Kernel := { labKernel with vregs := 16, sregs := 16, mbx := 0, kid := 5 }
theorem witness_record : let s := chainQ (.chain 0 0 0 0 0 false) none
    (operOf (s.bytes 0x2000 128) == chainO && kernelOf (s.bytes 0x2100 64) == chainK && !operBad (s.bytes 0x2000 128) chainO && !kernelBad s 0 1 (s.bytes 0x2100 64) chainK &&
      !tooLarge chainK && chainLength chainP == 1 && atHub s 0x2000 128 .load && atHub s 0x2100 64 .load) = true := by decide +kernel
theorem test_record_expands : answ .chainRecordExpand (chainQ (.chain 0 0 0 0 0 false) none) (fun u => (u.queue 0).shadow == some (.inl (chainO, chainK))) = true := by decide +kernel
/-- A reserved flag in the record, a misaligned descriptor, no warps, too many warps, too much scratchpad; 16 warps of 256 registers. -/
theorem test_record_errors : ([([(0x2018, 0x0000_0050_0000_0001)], 3), ([(0x2000, 0x2104)], 4), ([(0x2108, 0x0000_0001_0000_0000)], 4), ([(0x2108, 0x0011_0001_0000_0000)], 4),
    ([(0x2110, 0x0121_0000_0102)], 4), ([(0x2108, 0x0010_0001_0000_0000), (0x2110, 0x0101_0000_0120)], 1)] : List (List (Nat × Nat) × Nat)).all (fun x => let s := chainQ (.chain 0 0 0 0 0 false) none
    answ .chainRecordExpand { s with mem := pokes s.mem x.1 } (fun u => (u.queue 0).shadow == some (.inr (x.2, 0, 0, true)))) = true := by decide +kernel
theorem test_record_poisoned_entry : let s := chainQ (.chain 0 0 0 0 0 false) none
    (segPoisoned { s with st := { s.st with poison := [(0x10_0000, 64)] } } 1 && answ .chainRecordExpand { s with st := { s.st with poison := [(0x10_0000, 64)] } } (fun u =>
      (u.queue 0).shadow == some (.inr (6, 0x14, 0x10_0010, true)))) = true := by decide +kernel
theorem test_swap : let s := chainQ (.chain 0 0 0 0 0 false) (some (.inl (chainO, chainK)))
    (swapReady s 0 true && answ .launchBankSwap s (fun u => (u.queue 0).exec == .chain 1 0 0 0 0 false && (u.grids.find 1).any (fun g => g.op == chainO && g.ker == chainK && g.next == 0 && g.queue == 0))) = true := by decide +kernel
/-- A fill of another queue that stands part-way holds the next grid of a chain back (R120). -/
theorem test_swap_waits_for_fill : let s := chainQ (.chain 0 0 0 0 0 false) (some (.inl (chainO, chainK)))
    let t := { s.setQueue 1 { s.queue 1 with exec := .fill 128 } with st := { s.st with inkfill := [1] } }
    (swapReady t 0 true && fillPartWay t && answ .launchBankSwap t (fun u => u == t)) = true := by decide +kernel
theorem test_swap_error : answ .launchBankSwap (chainQ (.chain 0 0 0 0 0 false) (some (.inr (4, 0, 0x2000, false)))) (fun u => (u.queue 0).exec == .chain 1 0 4 0 0x2000 true && u.grids == []) = true := by decide +kernel
/-- The last gang of the grid has been handed over and has ended. -/
def drainG (abort : Bool) : State :=
  { chainQ (.chain 1 1 0 0 0 false) none with gangs := [], grids := [(0, { labGrid with next := 2, abort := abort })] }
theorem test_grid_drains : (!gridHolds (drainG false) 0 && answ .gridDrainComplete (drainG false) (fun u => (u.grids.find 0).any (fun g => g.done))) = true := by decide +kernel
theorem test_grid_drains_abort : answ .gridDrainComplete (drainG true) (fun u => (u.queue 0).exec == .chain 1 1 0x0A 0 0 true) = true := by decide +kernel
theorem test_chain_retires : let s := { chainQ (.chain 1 1 0 0 0 false) none with grids := [(0, { labGrid with next := 2, done := true }), (1, { labGrid with queue := 1 })] }
    (flying s 0 == [] && answ .chainRetire s (fun u => (u.queue 0).exec == .retiring 0 0 1 0 && u.grids.map (fun e => e.1) == [1])) = true := by decide +kernel

/-- A request block at 0x8000 of context (1, 0). -/
def segM (op : Nat) (l : List (Nat × Nat)) : State :=
  let s := lab
  { s with mem := pokes walkMem ([(0x8000, op + 2 ^ 38), (0x8008, 0x51_0000), (0x8010, 256)] ++ l), xl := { s.xl with segtab := 0x10_0003, ctxtab := 0x20000 }
           scrip := { s.scrip with seg := { reg := 0x8000, busy := true, code := 0, alloc := [1], freeing := [] } } }
def segDone (c : Nat) (u : State) : Bool := !u.scrip.seg.busy && u.scrip.seg.code == c && u.dword 0x8030 == BitVec.ofNat 64 c
theorem witness_block : (inGddr 0x8000 64 && !(readBlock (segM 0 [])).bad && !(readBlock (segM 0 [])).segBad && (readBlock (segM 0 [])).kind == 0 && nextHandle (segM 0 []) == some 2 &&
    inGddr (segEntry (segM 0 []) 0) (16 * (segLast (segM 0 []) + 1))) = true := by decide +kernel
theorem test_allocate : answ .segreqAllocate (segM 0 []) (fun u => segDone 0 u && u.scrip.seg.alloc == [2, 1] && u.dword 0x10_0020 == 0x51_0000 && u.dword 0x10_0028 == 0x100_0001_0000 &&
    u.bytes 0x8014 4 == [2, 0, 0, 0]) = true := by decide +kernel
theorem test_validate : answ .segreqValidate (segM 1 [(0x8010, 0x1_0000_0100), (0x10_0018, 0x100_0001_0000)]) (fun u => segDone 0 u && u.dword 0x10_0018 == 0x100_0001_0001) = true := by decide +kernel
theorem test_revoke : answ .segreqRevoke (segM 2 [(0x8010, 0x1_0000_0100), (0x10_0018, 0x100_0001_0001)]) (fun u => segDone 0 u && u.dword 0x10_0018 == 0x100_0001_0000 && u.scrip.seg.alloc == []) = true := by decide +kernel
/-- An object of one text section of 16 bytes at 0x9000, loaded to 0x770000, its page mapped without write permission. -/
def loadM : State :=
  segM 3 [(0x8010, 0), (0x8018, 0x9000), (0x8020, 104 + 4627), (0x8028, 0x77_0000), (5 * 65536 + 8 * 0x51, 0x0077_1837),
    (0x9000, 0x1_0001_314F_584B), (0x9010, 0x1_0001_0000), (0x9018, 0x40), (0x9030, 0x1213_0000_0068), (0x9040, 0x60_0000_0000), (0x9048, 8), (0x9050, 16), (0x9060, 0x1234_528C)]
/-- The object's section is placed and its page sealed: what follows the signature. -/
theorem witness_signed_load : let b := readBlock loadM
    let k := kxoOf (loadM.bytes b.file b.flen)
    (b.kind == 3 && !b.bad && rangeKind b.file b.flen == some 0 && loadM.pow.trips == 0 && k.siglen == 4627 && decide (k.sigoff + 4627 ≤ k.bs.length) && !k.misplaced b &&
    (match allocHandle loadM { b with limit := 16 } with
     | some (h, s1) => (match fillGot (placeImage s1 k b.dest) k b.dest b.base h with
       | some s2 => (match applyRels k b.dest b.base h k.nrel 0 (fillHandles s2 k b.dest h) with
         | (s3, none) => unmapped (mapImage s3 b k) b k == none && pagesSealed (mapImage s3 b k) b 16 && s3.bytes 0x77_0000 4 == [0x8C, 0x52, 0x34, 0x12]
         | _ => false)
       | none => false)
     | none => false)) = true := by decide +kernel

/-- An object whose signature block is not one. -/
def unsignedM : State := { loadM with mem := pokes loadM.mem [(0x9030, 0x1212_0000_0068)] }
theorem test_unsigned_load : answ .segreqSignedLoad unsignedM (fun u => segDone 2 u && u.scrip.seg.alloc == [1] && u.scrip.measures == []) = true := by decide +kernel

/-! ### Heads, cores and bands -/

/-- Head 1: 16 by 16 pixels, 100 ticks a line, 20 lines, lead of 16 lines, words of 30 bits. -/
def labHead : Head :=
  { Head.init with ctl := 0x0010_000F_000F_0001, tim := 0x0000_6400_0000_0014, code := 0x0000_0100_0000_0010, ring := 0, hist := 0x10_0000, link := 0x8000_1000_0000_0000 }
def liveHead : Head := { labHead with ctl := 0x8010_000F_000F_0001, live := true, tEn := 100 }
def headD (x : Head) (i : Input) : State := let s := { lab with inp := { i with n1 := 1 }, tick := 5000 }; { s with duct := { s.duct with heads := [(1, x)] } }
theorem test_head_enabled : (labHead.mayEnable && answ .hdctlEnable (headD { labHead with ctl := 0 } { Input.none with v1 := 0x8010_000F_000F_0001 }) (fun u => headOf u 1 ==
    { liveHead with tEn := 5000, pose := List.replicate 16 0 })) = true := by decide +kernel
theorem test_head_disabled : answ .hdctlDisable (headD liveHead Input.none) (fun u => !(headOf u 1).en && (headOf u 1).bands == []) = true := by decide +kernel
theorem test_hotplug : answ .hotplug (headD labHead { Input.none with v1 := 0xFFFF_FFFF_FFFF_FFFF }) (fun u => (headOf u 1).link == 0x8000_FFFF_0000_017F) = true := by decide +kernel
theorem test_link_lost_dp : answ .displayportLinkLost (headD liveHead { Input.none with v1 := 0x17F }) (fun u => (headOf u 1).link == 0x17F) = true := by decide +kernel
theorem test_code_write : let s := { lab with inp := { Input.none with n1 := 0x30, data := [1, 2, 3] } }
    (!codeCovered s 0x30 3 && answ .ductusCodeWrite s (fun u => codeBytes u 0x2F 5 == [0, 1, 2, 3, 0])) = true := by decide +kernel
theorem test_band_starts : (mayStart (headD liveHead Input.none) 1 && answ .bandStart (headD liveHead Input.none) (fun u => (headOf u 1).nextBand == 1 &&
    (headOf u 1).bands == [{ n := 0, b := 0, deadline := 1500, frame := none, pose := List.replicate 16 0, delivered := [], st := .waiting }])) = true := by decide +kernel
def labBand (st : BandSt) (e : Nat) : Band := { n := 0, b := 0, deadline := e, frame := none, pose := List.replicate 16 7, delivered := [], st := st }
def bandHead (st : BandSt) (e : Nat) : Head := { liveHead with bands := [labBand st e], nextBand := 1, refs := [{ n := 0, dst := 0, emitted := 0, fell := false }], histSrc := some (1, 6) }
theorem test_dispatch : let s := headD (bandHead .waiting 9000) Input.none
    (nextReady s == some (1, 0, 0) && answ .bandDispatch s (fun u => (coreOf u 1).busy == some (1, 0, 0) && (coreOf u 1).pc == 1 && (coreOf u 1).c.take 5 == [1, 0, 0, 0, 9000] &&
      (bandOf u 1 0 0).map (fun e => e.st) == some .running)) = true := by decide +kernel
/-- Core 1 runs the band; its bundle writes the time left to c5. -/
def runS (code : FMap Byte) : State :=
  let s := headD (bandHead .running 9000) Input.none
  { s with duct := { s.duct with cores := [(1, { Core.init with busy := some (1, 0, 0), pc := 1 })], code := code } }
def leftCode : FMap Byte := [(0x1C, 0x52), (0x1D, 0x01)]
theorem witness_bundle : (legalBundle 1 (bundleAt (runS leftCode) 1) && (match slotL (runS leftCode) (coreOf (runS leftCode) 1) { vmid := 0, asid := 0, frame := none } (slotWord (bundleAt (runS leftCode) 1) 0) with
    | (_, .ok (_, none)) => true | _ => false) && (match slotS (coreOf (runS leftCode) 1) (ctlIn (runS leftCode) (bandHead .running 9000) (labBand .running 9000) (runS leftCode).tick) (slotWord (bundleAt (runS leftCode) 1) 3)
      (coreOf (runS leftCode) 1) with | .ok (c, nx) => c.cv 5 == 4000 && nx == .seq | .error _ => false)) = true := by decide +kernel
theorem test_bundle : answ .ductusBundle (runS leftCode) (fun u => (coreOf u 1).cv 5 == 4000 && (coreOf u 1).pc == 2 && u.mem == []) = true := by decide +kernel
theorem test_empty_bundle : answ .ductusBundle (runS []) (fun u => coreOf u 1 == { coreOf (runS []) 1 with pc := 2 }) = true := by decide +kernel
def lateS (st : BandSt) (i : Input) : State :=
  let s := headD (bandHead st 4000) i
  { s with duct := { s.duct with cores := [(1, { Core.init with busy := if st = .running then some (1, 0, 0) else none, pc := 1 })] } }
theorem test_deadline_waiting : answ .bandDeadline (lateS .waiting Input.none) (fun u => (bandOf u 1 0 0).map (fun e => e.st) == some (.falling 1 6)) = true := by decide +kernel
theorem test_deadline_running : answ .bandDeadline (lateS .running Input.none) (fun u => (bandOf u 1 0 0).map (fun e => e.st) == some (.falling 2 6) && (coreOf u 1).busy == none) = true := by decide +kernel
theorem test_line_timeout : answ .reprojectionLineTimeout (lateS (.falling 1 6) Input.none) (fun u => (bandOf u 1 0 0).map (fun e => e.st) == some (.falling 6 6)) = true := by decide +kernel
theorem test_scan_out : (mayScan (headD (bandHead .emitted 4000) Input.none) 1 && answ .scanOutLine (headD (bandHead .emitted 4000) Input.none) (fun u => (headOf u 1).scan == 1 &&
    (headOf u 1).sent.map (fun x => (x.1, x.2.1, x.2.2.length)) == some (0, 0, 16))) = true := by decide +kernel
theorem test_scan_out_blank : (mayScan (headD { liveHead with ctl := labHead.ctl } Input.none) 1 && answ .scanOutLine (headD { liveHead with ctl := labHead.ctl } Input.none) (fun u =>
    (headOf u 1).sent == some (0, 0, List.replicate 16 0))) = true := by decide +kernel

/-! ### Power -/

def powS (i : Input) (f : Power → Power) : State := { lab with inp := i, pow := f lab.pow }
theorem test_rail_settles : answ .railSettled (powS { Input.none with n1 := 2 } (fun p => { p with target := [(2, (6, false))] })) (fun u => u.pow.level == [(2, 6)] && u.pow.target == [(2, (6, true))]) = true := by decide +kernel
theorem test_rail_lowers : let s := { powS { Input.none with n1 := 2 } (fun p => { p with level := [(2, 6)] }) with gangs := [(0, { labGang with quill := 192, level := some 1 })] }
    (wantedLevel s 2 == 1 && answ .railLower s (fun u => u.pow.level == [(2, 1)] && (u.quill 192).div == [3, 5, 7, 5])) = true := by decide +kernel
def sampleI : Input := { Input.none with n1 := 2, nums := 8000 :: List.replicate 63 3000, nums2 := 12801 :: List.replicate 31 0 }
theorem witness_sample : (sampleI.nums.length == 64 && sampleI.nums2.length == 32 && sampleI.n1 == 2) = true := by decide +kernel
theorem test_suspect_clears : answ .sensorSuspectClear (powS { Input.none with n1 := 2, n2 := 5 } (fun p => { p with sensors := [(261, { Sensor.init with sus := true, raw := 77 })] })) (fun u =>
    !(sensorOf u 261).sus && (sensorOf u 261).value == 77) = true := by decide +kernel
theorem test_throttle : answ .throttleWrite (powS { Input.none with n1 := 9, n2 := 70 } (fun p => { p with throttle := [(9, { status := 0, share := 3, count := 4 })] })) (fun u => (throttleOf u 9).share == 64 && (throttleOf u 9).count == 5) = true := by decide +kernel

/-! ### The host and bring-up -/

def hostS (i : Input) : State := let s := labMem { lab with inp := i }; { s with host := { s.host with up := true }, log := { s.log with pendMsg := true, lastMsg := some 50 }, tick := 4250 }
def bar2 : Input := { Input.none with n2 := 2, n3 := 0x1000 }
theorem test_host_writes : answ .hostWrite (hostS { bar2 with data := [9, 9] }) (fun u => u.bytes 0x1000 3 == [9, 9, 3]) = true := by decide +kernel
theorem test_host_writes_beyond : answ .hostWrite (hostS { bar2 with n3 := 2 ^ 38 - 1, data := [9, 9] }) (fun u => u.mem == (hostS bar2).mem) = true := by decide +kernel
theorem test_host_reads : answ .hostRead (hostS { bar2 with n4 := 3 }) (fun u => u.host.reads == [(0, [1, 2, 3])]) = true := by decide +kernel
theorem test_log_message : answ .errorLogMsiSpanEnd (hostS bar2) (fun u => !u.log.pendMsg && u.log.lastMsg == some 4250 && u.host.msi == [32]) = true := by decide +kernel
theorem test_register_write : [(Agent.scriptorium, (0x12_0000#64)), (.host, 0x12_0000), (.warp, 0)].all (fun x => answ .registerWrite (hostS { Input.none with n1 := 0x1000, n2 := 8, v1 := 0x12_0001, who := x.1 }) (fun u => u.xl.ctxtab == x.2)) = true := by decide +kernel
theorem test_host_in_detect : answ .registerWrite { hostS { Input.none with n1 := 0x1000, n2 := 8, v1 := 0x12_0001, who := .host } with host := State.reset.host } (fun u => u.xl.ctxtab == 0) = true := by decide +kernel
theorem test_reset_event : answ .moduleReset (hostS Input.none) (fun u => u.tick == 0 && u.threads.length == 0 && u.boot == 1 && u.mem == []) = true := by decide +kernel
def bootS (n : DWord) (i : Input) : State := { State.reset with boot := n, inp := i, mem := [(5, 1)], st := { State.reset.st with poison := [(0, 64)] } }
theorem witness_authentication : ((bootS 1 Input.none).boot.toNat % 16 == 1 && !(bootS 1 Input.none).host.halted) = true := by decide +kernel
theorem test_gddr_training : answ .gddr7Training (bootS 2 Input.none) (fun u => u.boot == 3 && u.mem == [] && u.st.poison == []) = true := by decide +kernel
def trained : PortResult := { port := 4, pass224 := 0x7D, pass112 := 0x1E, pass56 := 0xFF, rev := false, ppeer := 9, pport := 1 }
theorem test_port_training_starts : answ .domainPortTraining (bootS 3 Input.none) (fun u => u.boot == 3 && u.fab.ports.all (fun p => p.state == 1)) = true := by decide +kernel
def training (s : State) : State := { s with fab := { s.fab with ports := s.fab.ports.map (fun p => { p with state := 1 }) } }
theorem test_port_training : answ .domainPortTraining (training <| bootS 3 { Input.none with n1 := 70, n2 := 200, n3 := 3, nums := [0, 0, 0, 0, 2], ports := [trained] }) (fun u => u.boot == 4 && u.fab.peer == 70 && u.fab.size == 200 &&
    u.fab.tsource == 3 && u.fab.tport == 4 && u.fab.ports.all (fun p => p.state != 1) && u.fab.allow == [0, 64, 0, 0, 0, 0, 0, 0] && u.fab.route == [(9, 0x8000_0000_0000_0010)]) = true := by decide +kernel
theorem test_pcie : answ .pcieLinkUp (bootS 4 Input.none) (fun u => u.boot == 5 && u.host.up) = true := by decide +kernel
def retraining (n : BitVec 2) : State := { lab with inp := { Input.none with ports := [trained] }, fab := { lab.fab with ports := setAt lab.fab.ports 4 { Port.init with state := n } } }
theorem test_retrain_starts : answ .linkRetrain (retraining 3) (fun u => (u.fab.ports[4]?).map (fun p => p.state.toNat) == some 1) = true := by decide +kernel
theorem test_retrain : 4 ≤ (retraining 1).boot.toNat % 16 ∧ answ .linkRetrain (retraining 1) (fun u =>
    (u.fab.ports[4]?).map (fun p => p.state.toNat) == some 2 && u.fab.route == [(9, 0x8000_0000_0000_0010)]) = true := by decide +kernel
theorem test_report : answ .attestationReport (bootS 5 { Input.none with data := List.replicate 64 1 }) (fun u => u.host.reports.length == 1) = true := by decide +kernel

/-! ## Steps, fetches, prefixes -/

def fetched (w : FetchRes) (x : Word) : Bool := match w with | .word y => y == x | _ => false
def placedS (nbits w : Nat) : State := State.reset.withFetchWord nbits w
def inTurn (nbits w : Nat) : State := turned (placedS nbits w) 1 []
/-- What stands before the first unit of a placed word. -/
def mayTurn (nbits w : Nat) : Bool :=
  (placedS nbits w).agenda == [{ dt := 1, act := .thread 0 }] && canRun (placedS nbits w) (codeThread 0) && !(codeThread 0).segFresh
theorem placed_thread (nbits w : Nat) : (placedS nbits w).thread 0 = some (codeThread 0) := rfl
def then' (nbits w : Nat) (p : Thread → Bool) : Bool := match step (placedS nbits w) with | .next u => (u.thread 0).any p | _ => false

theorem witness_step_short : (mayTurn 32 0x1234_528C && fetched (fetchWord (inTurn 32 0x1234_528C) (codeThread 0) 0) 0x1234_528C && wordClass 0x1234_528C == .short &&
    decode 0x1234_528C 0 == some (.slh 0x12345 5)) = true := by decide +kernel
theorem test_step_short : then' 32 0x1234_528C (fun t => t.sv 5 == 0x1234_5000 && t.pcO == 4) = true := by decide +kernel
theorem witness_step_long : (mayTurn 64 0x0001_0000_0403_0011 && fetched (fetchWord (inTurn 64 0x0001_0000_0403_0011) (codeThread 0) 0) 0x0403_0011 &&
    fetched (fetchWord (inTurn 64 0x0001_0000_0403_0011) (codeThread 0) 4) 0x0001_0000 && wordClass 0x0403_0011 == .long && (decode 0x0403_0011 0x0001_0000).isSome) = true := by decide +kernel
theorem test_step_long : then' 64 0x0001_0000_0403_0011 (fun t => t.pcO == 8 && t.loops == [{ handle := 1, start := 8, stop := 20, left := 3 }]) = true := by decide +kernel
/-- An xreg prefix of dx = 1 before slh of s5: s37 is written. -/
theorem witness_step_prefix : (mayTurn 64 0x1234_528C_0000_0023 && fetched (fetchWord (inTurn 64 0x1234_528C_0000_0023) (codeThread 0) 0) 0x23 &&
    fetched (fetchWord (inTurn 64 0x1234_528C_0000_0023) (codeThread 0) 4) 0x1234_528C && wordClass 0x23 == .pre && decode 0x23 0 == some (.xreg 0 0 1) && (Instr.xreg 0 0 1).prefixOk &&
    isInstruction [0x23] (.slh 0x12345 5) && !(Instr.slh 0x12345 5).isTransfer && (Instr.xreg 0 0 1).modifies (.slh 0x12345 5)) = true := by decide +kernel
theorem test_step_prefix : then' 64 0x1234_528C_0000_0023 (fun t => t.sv 37 == 0x1234_5000 && t.pcO == 8) = true := by decide +kernel
theorem test_step_illegal : then' 32 0x0000_001F (fun t => t.mode == .sup && t.sup.map (fun f => f.cause.toNat) == [1]) = true := by decide +kernel

def bads (w : FetchRes) (c : Nat) (v : DWord) : Bool := match w with | .bad x y z => x == c && y == v && z == 0 | _ => false
theorem test_fetch_no_segment : bads (fetchWord (inTurn 32 0) { codeThread 0 with seg := none } 0) 0x17 1 = true := by decide +kernel
theorem test_fetch_limit : bads (fetchWord (inTurn 32 0) (codeThread 0) 0x1_0000) 0x18 0x1_0000 = true := by decide +kernel
theorem witness_fetch_hit : ((match translate (inTurn 32 0x1234_528C) (codeThread 0) .fetch .user (0x1_0000 + 4) with | .hit _ pa => pa == 0x1_0004 && !homeStopped (inTurn 32 0x1234_528C) pa | _ => false) &&
    codeSeg.base == 0x1_0000 && codeSeg.limit == 0x1_0000) = true := by decide +kernel
theorem test_fetch_poison : bads (fetchWord { inTurn 32 0 with st := { State.reset.st with poison := [(0x1_0000, 64)] } } (codeThread 0) 8) 0x29 8 = true := by decide +kernel
theorem test_fetch_little_endian : fetched (fetchWord { inTurn 32 0 with mem := Memory.write [] 0x1_0004 [0x78, 0x56, 0x34, 0x12] } (codeThread 0) 4) 0x1234_5678 = true := by decide +kernel

/-- An event's turn. -/
theorem witness_event_turn : let s : State := { State.reset with agenda := [{ dt := 2, act := .event .l1LineDrop { Input.none with n2 := 9 } }] }
    (isEvent .l1LineDrop && s.pow.trips == 0 && (match exec .l1LineDrop { turned s 2 [] with inp := { Input.none with n2 := 9 } } with | .next t => !t.hung | _ => false) &&
      (match step s with | .next t => t.tick == 2 && t.agenda == [] | _ => false)) = true := by decide +kernel
theorem test_reset_inv : Sys2Proof.Inv State.reset := ⟨by decide, rfl⟩

def latched (l : Latch) : State := labWith (fun th => { th with latch := l })
/-- A prefix joins the unit; one whose field is out of range, and one that is orphaned, trap. -/
theorem test_prefix_joins : answ (.rmode 1 true false) (latched Latch.empty) (fun u => (th0 u).latch.px.r == some (1, true, false) && (th0 u).latch.n == 1) = true := by decide +kernel
theorem test_prefix_illegal : (!(Instr.rmode 7 true false).prefixOk && answ (.rmode 7 true false) (latched Latch.empty) (fun u => (th0 u).sup.map (fun f => f.cause.toNat) == [1])) = true := by decide +kernel
theorem test_prefix_orphan : answ (.pairx 1) (latched { Latch.empty with orphan := some (2, 0x77) }) (fun u => (th0 u).sup.map (fun f => (f.cause.toNat, f.val)) == [(3, 0x77_0000_0002)]) = true := by decide +kernel
theorem test_fetch_fault_row : answ .instructionFetchFault (latched { Latch.empty with fetch := some (0x18, 4, 0) }) (fun u => (th0 u).sup.map (fun f => (f.cause.toNat, f.val)) == [(0x18, 4)]) = true := by decide +kernel
theorem test_vector_fault : let s := labWith (fun th => { labSup th with atVec := 1, latch := { Latch.empty with fetch := some (0x18, 4, 0) } })
    (match exec .instructionFetchFault s with | .next u => (th0 u).mode == .hyp || (th0 u).exited | _ => false) = true := by decide +kernel

/-! ## Checks of a unit, transfers, loops, traps -/

theorem test_transfer_misaligned : (ready (.ljmp .abs 0 0 6) lab labThread && answ (.ljmp .abs 0 0 6) lab (fun u => (th0 u).sup.map (fun f => (f.cause.toNat, f.val)) == [(0x11, 6)])) = true := by decide +kernel
theorem test_transfer_below_zero : (ready (.b (BitVec.ofInt 21 (-16)) false 0) lab labThread && (transferOf labThread (.b (BitVec.ofInt 21 (-16)) false 0)).map (fun x => x.2.2.1) == some (-64) &&
    answ (.b (BitVec.ofInt 21 (-16)) false 0) lab (fun u => (th0 u).sup.map (fun f => (f.cause.toNat, f.val)) == [(0x18, BitVec.ofInt 64 (-64))])) = true := by decide +kernel
def loopF (n : BitVec 8) : T64 := { z with a := n, b := 4 }
theorem test_loop_skips : (ready (.loop true (loopF 0)) lab labThread && answ (.loop true (loopF 0)) lab (fun u => (th0 u).pcO == 24 && (th0 u).loops == [])) = true := by decide +kernel
def fourLevels (th : Thread) : Thread := { th with loops := List.replicate 4 { handle := 1, start := 0, stop := 0x100, left := 2 } }
theorem test_fifth_level : (ready (.loop true (loopF 3)) (labWith fourLevels) (fourLevels labThread) && answ (.loop true (loopF 3)) (labWith fourLevels) (fun u =>
    (th0 u).sup.map (fun f => (f.cause.toNat, f.levels.length)) == [(6, 4)])) = true := by decide +kernel
def closing (l : List Level) : Thread := { labThread with loops := l, latch := { Latch.empty with w0 := 0 } }
theorem test_close_check : [([], 4), ([(8, 3)], 4), ([(0, 3)], 0x40), ([(0, 1), (0, 2)], 0x40), ([(0, 1), (9, 1)], 4), ([(2 ^ 32, 3)], 4), ([(0, 0)], 4), ([(0, 0), (0, 2)], 0x40)].all (fun c =>
    let t := retire (closing (c.1.map (fun l => { handle := 1, start := 0x40, stop := l.1, left := BitVec.ofNat 32 l.2 }))); t.pcO == c.2) = true := by decide +kernel
theorem test_prefix_blamed : (illegalVal (.vfaddT64 .f64 z) { Latch.empty with px := { Px.none with p := some 2 } } == 0x4B &&
    illegalVal (.vfaddF32T32 false 0 0 1) { Latch.empty with px := { Px.none with p := some 1 } } == 0x2B) = true := by decide +kernel
theorem test_illegal_unit : (!legalIn (.dqpush z) labThread && answ (.dqpush { z with guard := 3, gneg := true }) lab (fun u => (th0 u).sup.map (fun f => f.cause.toNat) == [1])) = true := by decide +kernel
def masked (th : Thread) : Thread := th.setMask 0
theorem test_empty_mask : (!executes (.vaddT32 false 0 false 2 1 3) (masked labThread) && answ (.vaddT32 false 0 false 2 1 3) (labWith masked) (fun u => (th0 u).pcO == 4)) = true := by decide +kernel
def atHvec (th : Thread) : Thread := { labSup (th.setMask 1) with mode := .hyp, atVec := 2 }

/-- The same under an all-zero mask: a lane instruction passes, and the entry point stays in force (R397). -/
def atHvecIdle (th : Thread) : Thread := (atHvec th).setMask 0
theorem test_entry_point_idle : answ (.vaddT32 false 0 false 2 1 3) (labWith atHvecIdle) (fun u =>
    (th0 u).hyp.isEmpty && entryFails (.saddT32 21 5 18) (th0 u)) = true := by decide +kernel

theorem test_entry_point : (legalIn (.vaddT32 false 0 false 2 1 3) (atHvec labThread) && entryFails (.vaddT32 false 0 false 2 1 3) (atHvec labThread) && answ (.vaddT32 false 0 false 2 1 3) (labWith atHvec) (fun u =>
    ((th0 u).hyp.map (fun f => f.cause.toNat % 256)) == [2])) = true := by decide +kernel
/-- A row of one byte and elements of four. -/
def oddRow : Instr := .cpyt 1 0 { z with a := 16, md := 2 }
theorem test_row_length : (legalIn oddRow (masked labThread) && !executes oddRow (masked labThread) && !opPending (labWith masked) 0 (masked labThread) (Opd.rs 20 1) && answ oddRow (labWith masked) (fun u =>
    (th0 u).sup.map (fun f => f.cause.toNat) == [1])) = true := by decide +kernel
theorem test_privileged : (privFails .tretT32 labThread && answ .tretT32 lab (fun u => (th0 u).sup.map (fun f => f.cause.toNat) == [2])) = true := by decide +kernel
theorem test_unallocated : (rangeTrap labThread ((Instr.vaddT32 false 0 false 20 1 3).opds Px.none) == some (0, 20) && answ (.vaddT32 false 0 false 20 1 3) lab (fun u =>
    (th0 u).sup.map (fun f => (f.cause.toNat, f.val)) == [(4, 20)])) = true := by decide +kernel
def taggedT (th : Thread) : Thread := { th with uck := true, v := setAt th.v 2 { labV 2 with tag := true } }
theorem test_tagged : (taggedRead (taggedT labThread) ((Instr.vaddT32 false 0 false 2 1 3).opds Px.none) == some 2 && answ (.vaddT32 false 0 false 2 1 3) (labWith taggedT) (fun u =>
    (th0 u).sup.map (fun f => (f.cause.toNat, f.val)) == [(5, 2)])) = true := by decide +kernel
def ent (c : Nat) : Entry := { cause := c, orig := 0, set := 5, pc := 0x20, val := 9, syn := 3 }
theorem test_entry_sup : (receiver .user 0 0x30 == .sup && (let t := th0 (trapThread lab 0 labThread (ent 0x30)); t.mode == .sup && t.sup.length == 1 && t.mask == 5)) = true := by decide +kernel
theorem test_entry_hyp : (receiver .user 0 0x51 == .hyp && (let t := th0 (trapThread lab 0 labThread (ent 0x51)); t.mode == .hyp && t.hyp.length == 1)) = true := by decide +kernel
theorem test_return_user : (ready .tretT32 (labWith labSup) (labSup labThread) && answ .tretT32 (labWith labSup) (fun u => (th0 u).mode == .user && (th0 u).mask == 7 && (th0 u).pcO == 0x80)) = true := by decide +kernel
theorem test_return_sup : (ready .tretT32 (labWith labHyp) (labHyp labThread) && answ .tretT32 (labWith labHyp) (fun u => (th0 u).mode == .sup && (th0 u).hyp == [])) = true := by decide +kernel
def inHyp (th : Thread) : Thread := { labHyp th with hyp := [labFrame 2, labFrame 1] }
theorem test_return_hyp : (ready .tretT32 (labWith inHyp) (inHyp labThread) && answ .tretT32 (labWith inHyp) (fun u => (th0 u).mode == .hyp && (th0 u).hyp.length == 1)) = true := by decide +kernel
theorem test_exit : (domStoresDone labThread && labThread.rfault == none && labGang.held == none && answ .exitT32 lab (fun u => (th0 u).exited && (u.thread 1).any (fun x => !x.exited))) = true := by decide +kernel

/-! ## Privileged registers -/

def setX (x : DWord) (th : Thread) : Thread := (labHyp th).setSp 16 x
def mtpF (n : BitVec 8) : T64 := { z with a := 16, c := n }
theorem test_segtab : (ready (.mtp (mtpF 0x24)) (labWith (setX 0x5_0000_0003)) (setX 0x5_0000_0003 labThread) && answ (.mtp (mtpF 0x24)) (labWith (setX 0x5_0000_0003)) (fun u =>
    u.xl.segtab == 0x5_0000_0003 && (th0 u).pcO == 4)) = true := by decide +kernel
theorem test_seginval : (ready (.mtp (mtpF 0x25)) (labWith (setX 1)) (setX 1 labThread) && answ (.mtp (mtpF 0x25)) (labWith (setX 1)) (fun u => (th0 u).pcO == 4)) = true := by decide +kernel
theorem test_xinvc_operation : (xinvcBad (labWith (setX 0xA000_0000_0000_0000)) (setX 0xA000_0000_0000_0000 labThread) 0xA000_0000_0000_0000 == some 1 && answ (.mtp (mtpF 0x26)) (labWith (setX 0xA000_0000_0000_0000)) (fun u =>
    (th0 u).hyp.map (fun f => f.cause.toNat % 256) == [1, 1])) = true := by decide +kernel
def supX (x : DWord) (th : Thread) : Thread := (labSup th).setSp 16 x
theorem test_xinvc_privileged : (ready (.mtp (mtpF 0x26)) (labWith (supX 0x8000_0000_0000_0000)) (supX 0x8000_0000_0000_0000 labThread) && xinvcBad (labWith (supX 0x8000_0000_0000_0000)) (supX 0x8000_0000_0000_0000 labThread) 0x8000_0000_0000_0000 == some 2 &&
    answ (.mtp (mtpF 0x26)) (labWith (supX 0x8000_0000_0000_0000)) (fun u => (th0 u).sup.map (fun f => f.cause.toNat % 256) == [2, 1])) = true := by decide +kernel
theorem test_xinvc : (xinvcBad (labWith (setX 0x2000_5000_0000_0000)) (setX 0x2000_5000_0000_0000 labThread) 0x2000_5000_0000_0000 == none && answ (.mtp (mtpF 0x26)) (labWith (setX 0x2000_5000_0000_0000)) (fun u =>
    (th0 u).wait == .shootdown && u.xl.shoots == [{ who := some 0, op := 1, vmid := 0, asid := 5, addr := 0, removed := false }])) = true := by decide +kernel

/-! ## The remaining hypotheses, and values of the spec's examples -/

/-- Lane values of a register. -/
def withV (n : Nat) (f : Nat → Word) (th : Thread) : Thread := { th with v := setAt th.v n { labV 1 with lanes := Lanes.make f } }
def withS (l : List (Nat × Word)) (th : Thread) : Thread := l.foldl (fun t x => t.setS x.1 x.2) th
/-- An instruction run on thread 0 with its registers set. -/
def runs (i : Instr) (f : Thread → Thread) (p : Thread → Bool) : Bool := ready i (labWith f) (f labThread) && answ i (labWith f) (fun u => p (th0 u))

def divF : T64 := { z with d := 40, a := 41, b := 42, c := 43 }
/-- The corners of division (R320's table). -/
theorem test_division : [((7 : Word), (2 : Word), (3 : Word), (1 : Word), (0 : Word)), (BitVec.ofInt 32 (-7), 2, BitVec.ofInt 32 (-3), BitVec.ofInt 32 (-1), 0),
    (5, 0, 0xFFFF_FFFF, 5, flIdz.setWidth 32), (0x8000_0000, 0xFFFF_FFFF, 0x8000_0000, 0, flIov.setWidth 32)].all (fun x =>
    runs (.sdiv true divF) (withS [(41, x.1), (42, x.2.1)]) (fun t => t.sv 40 == x.2.2.1 && t.sv 43 == x.2.2.2.1 && t.fstat == x.2.2.2.2)) = true := by decide +kernel
/-- A division by zero with its trap enabled. -/
def idzOn (th : Thread) : Thread := { withS [(41, 5), (42, 0)] th with fstat := (flIdz.setWidth 32) <<< 16 }
theorem test_enabled_flag : ((computed (idzOn labThread) (.sdiv true divF)).map (fun r => r.2 &&& enabled (idzOn labThread)) == some flIdz &&
    runs (.sdiv true divF) idzOn (fun t => t.mode == .sup && t.sup.map (fun f => (f.cause.toNat, f.val)) == [(0x30, flIdz.setWidth 64)] && t.sv 40 == 0xFFFF_FFFF && t.fstat == (((flIdz.setWidth 32 : Word) <<< 16) ||| flIdz.setWidth 32))) = true := by decide +kernel
theorem test_scan : (runs (.vscan false { z with d := 9, a := 4 }) (withV 4 (fun L => BitVec.ofNat 32 (L + 1))) (fun t => (List.range 5).map (t.lane 9) == [1, 3, 6, 10, 0])) = true := by decide +kernel
theorem witness_saturating_sum : ((Instr.vred .addS { z with md := 0x10, a := 4 }).wf Px.none && runs (.vred .addS { z with d := 40, md := 0x10, a := 4 }) (withV 4 (fun _ => 0x7000_0000)) (fun t => t.sv 40 == 0x7FFF_FFFF && t.fstat == flSat.setWidth 32)) = true := by decide +kernel
/-- The example of R324. -/
theorem test_match : runs (.match_ { z with d := 8, a := 4, c := 2 }) (fun th => (withV 4 (fun L => [7, 3, 7, 9, 3, 7].getD L 0) th).setMask 0x3F) (fun t =>
    (List.range 6).map (t.lane 8) == [0x25, 0x12, 0x25, 0x08, 0x12, 0x25] && t.lane 9 0 == 0 && t.kbits 2 == 0xB) = true := by decide +kernel
/-- The examples of R433, in blocked and in Morton order, and the plain orders. -/
theorem test_walker : ((List.range 15).map (walkAt { labOper with gx := 5, gy := 3, order := 3, bx := 2, by' := 2 }) ==
      [(0, 0, 0), (1, 0, 0), (0, 1, 0), (1, 1, 0), (2, 0, 0), (3, 0, 0), (2, 1, 0), (3, 1, 0), (4, 0, 0), (4, 1, 0), (0, 2, 0), (1, 2, 0), (2, 2, 0), (3, 2, 0), (4, 2, 0)] &&
    (List.range 15).map (walkAt { labOper with gx := 5, gy := 3, order := 2 }) ==
      [(0, 0, 0), (1, 0, 0), (0, 1, 0), (1, 1, 0), (2, 0, 0), (3, 0, 0), (2, 1, 0), (3, 1, 0), (0, 2, 0), (1, 2, 0), (2, 2, 0), (3, 2, 0), (4, 0, 0), (4, 1, 0), (4, 2, 0)] &&
    (List.range 6).map (walkAt { labOper with gx := 3, gy := 2 }) == [(0, 0, 0), (1, 0, 0), (2, 0, 0), (0, 1, 0), (1, 1, 0), (2, 1, 0)] &&
    (List.range 6).map (walkAt { labOper with gx := 3, gy := 2, order := 1 }) == [(0, 0, 0), (0, 1, 0), (1, 0, 0), (1, 1, 0), (2, 0, 0), (2, 1, 0)]) = true := by decide +kernel
theorem witness_rings_off : ringsOff lab := ⟨rfl, rfl, fun q => by
  unfold State.queue; by_cases h : q = 0 <;> simp [lab, FMap.find, h, State.reset, Queue.init]⟩

/-- A load whose address is misaligned in lanes 1 and 3, and its mark that waits. -/
def oddV : Thread → Thread := withV 2 (fun L => if L = 1 ∨ L = 3 then 0x1002 else 0x1000)
theorem test_misaligned_lanes : (runs (.vldM32 2 0 2 8) oddV (fun t => t.sup.map (fun f => (f.cause.toNat, f.val)) == [(0x11, 0x1002)] && t.mask == 0xA) &&
    (match memForm (labWith oddV) (oddV labThread) (.vldM32 2 0 2 8) with
     | some f => (f.reqs.find? (fun q => isBad (f.check q))).map (fun r => r.lane) == some 1 && f.reqs.all (fun q => match f.check q with | .miss _ => false | _ => true)
     | none => false)) = true := by decide +kernel
/-- Addresses that each check refuses (R26, R27, R28, R35, R42, R43, R67): cause of the first refusal of a store under a leaf. -/
def refusal (l : Leaf) (base addr : DWord) : Nat :=
  let s := { lab with xl := { lab.xl with tlb := [(0, [{ vmid := 0, asid := some 1, page := 0, size := 21, res := .ok l }])] } }
  match checkGlobal s labThread .store (asks 0 base addr 4 []) with | .bad c _ y => c + 256 * (y.toNat % 32) | _ => 0
theorem test_checks_name_their_cause : (refusal labLeaf 0x1000 0x100_0000_0000_1000 == 0x10 && refusal labLeaf 0x1000 0x80_0000_0000_0000 == 0x10 &&
    refusal labLeaf 0x1002 0x1002 == 0x11 && refusal labLeaf 0x80_0000_0000_0000 0x80_0000_0000_0000 == 0x14 &&
    refusal { labLeaf with w := false, w1 := false } 0 0x1000 == 0x420 && refusal { labLeaf with user := false } 0 0x1000 == 0x620 &&
    refusal { labLeaf with kind := 1 } 0 0x1000 == 0x16 && refusal labLeaf 0 0x1000 == 0) = true := by decide +kernel
theorem test_scratchpad_range : ([0x100_0000, 0x10_0000, 0x90_0000, 0x10_0000 - 4, 0x80_0000].map (fun a : Word =>
    match checkScr lab labThread 0 (asks 0 (a.setWidth 64) (a.setWidth 64) 8 []) with | .bad c _ _ => c | _ => 0) == [0x12, 0x12, 0x12, 0x11, 0]) = true := by decide +kernel
def pending (th : Thread) : Thread := { th with mq := [op0 .store (acc0 page1 [1] 1) .none], ser := 6 }
theorem test_mark_waits : (!markReady (pending labThread) 0 2 && runs (.markT32 0 2) pending (fun t => t.wait == .mark 0 2)) = true := by decide +kernel
theorem test_mark_retires : (markReady labThread 0 2 && runs (.markT32 0 2) id (fun t => t.wait == .none && t.pcO == 4)) = true := by decide +kernel
theorem test_edrain_waits : let s := lab.modQuill 0 (fun q => { q with copy := { seq := 9, cmds := [cmdE] } })
    (outstanding s 0 0 == 1 && ready (.edrain { z with md := 0x40 }) s labThread && answ (.edrain { z with md := 0x40 }) s (fun u => (th0 u).wait == .edrain 2)) = true := by decide +kernel
theorem test_halt : answ (.halt z) (labWith labSup) (fun u => (th0 u).exited && (u.thread 1).any (fun x => x.exited) && (u.grids.find 0).any (fun g => g.halt)) = true := by decide +kernel
/-- Products and sums of the table of R358. -/
theorem test_float_mul : (let r := fMul Fmt.f32 .rne false 0x3F80_0001 0x3F80_0001; r.bits == 0x3F80_0002 && r.flags == (flNx)) = true := by decide +kernel
theorem test_float_overflow : (let r := fAdd Fmt.f32 .rne false 0x7F40_0000 0x7F40_0000; r.bits == 0x7F80_0000 && r.flags == (flOf ||| flNx)) = true := by decide +kernel

/-! ## Where units trap or wait instead: gang control, remote faults, late flags, full frames -/

def trapsWith (u : State) (c : Nat) (v : DWord) : Bool := ((th0 u).sup.map (fun f => (f.cause.toNat % 256, f.val))).head? == some (c, v)
/-- The small machine with another gang. -/
def gangWith (f : Gang → Gang) : State := { lab with gangs := [(0, f labGang)] }
/-- A unit of gang control traps under another gang; s8 holds 0x1000. -/
def gangTraps (i : Instr) (f : Gang → Gang) (s : State) (c : Nat) (v : DWord) : Bool :=
  let u : State := { s with gangs := [(0, f labGang)] }
  ready i u labThread && gangTrap u labThread (f labGang) i == some (c, v) && answ i u (fun t => trapsWith t c v)
theorem test_gang_control_traps :
    (gangTraps (.ordbeg { z with a := 8 }) (fun g => { g with frontier := 0x1001 }) lab 0x43 0x1000 &&
     gangTraps (.ordend { z with a := 8 }) (fun g => { g with held := some (1, 0x1000) }) lab 0x43 0x1000 &&
     gangTraps (.ordend { z with a := 8 }) (fun g => { g with held := some (0, 0x1001) }) lab 0x43 0x1000 &&
     gangTraps (.dqpop { z with d := 20 }) (fun g => { g with nib := none }) lab 0x41 0 &&
     gangTraps (.dqpop { z with d := 20 }) (fun g => { g with dq := [] }) (lab.setThread 1 { labNib with exited := true }) 0x40 0 &&
     gangTraps (.barFol z) (fun g => { g with fgang := none }) lab 0x42 0) = true := by decide +kernel
/-- ordbeg behind a section that is held; its wait ends in a trap or goes on to the section. -/
theorem test_section_held : (let s := gangWith (fun g => { g with held := some (1, 7) })
    ready (.ordbeg { z with a := 8 }) s labThread && (gangEffect s labThread { labGang with held := some (1, 7) } (.ordbeg { z with a := 8 })).isSome &&
    answ (.ordbeg { z with a := 8 }) s (fun u => (th0 u).wait == .ordheld 0x1000 (labThread.active (Instr.ordbeg z).guard))) = true := by decide +kernel
theorem test_held_section_wait : (let s := fun (h : Option (Nat × Word)) (n : Nat) =>
      { waiting (.ordheld 4 3) with gangs := [(0, { labGang with held := h, frontier := n })] }
    answ .ordbegEnter (s (some (1, 7)) 0) (fun u => u == s (some (1, 7)) 0) && answ .ordbegEnter (s none 5) (fun u => trapsWith u 0x43 4 && (th0 u).mask == 3) &&
    answ .ordbegEnter (s none 3) (fun u => (th0 u).wait == .ordbeg 4 && (u.gang 0).map (fun g => g.frontier) == some 4)) = true := by decide +kernel

/-- A refused domain store of the thread; one that is still outstanding. -/
def rfaulted (th : Thread) : Thread := { th with rfault := some { addr := 0x80_0000_0000_0000, peer := 9, cls := 0x12, count := 0 } }
def farStore (th : Thread) : Thread := { th with mq := [op0 .store { acc0 (.dom 9 0x180) [1] 1 with ph := .sent, req := some 70 } .none], ser := 6 }
def standsBy (i : Instr) (s : State) : Bool := answ i s (fun u => (th0 u).latch.kept && (th0 u).pcO == (th0 s).pcO && (th0 u).sup == [] && (th0 u).wait == .none)
/-- A store with release, a mark, an arrival and an exit of system scope: each takes the remote fault, and each but the arrival waits. -/
def relStore : Instr := .vstT64 2 { z with d := 8, a := 2, md := 0xB0 }
theorem test_release_points : ([relStore, .markT32 0 4, .markT64 { z with md := 0x90 }, .exitT32].all (fun i =>
      ready i (labWith rfaulted) (rfaulted labThread) && domStoresDone (rfaulted labThread) &&
      answ i (labWith rfaulted) (fun u => trapsWith u 0x38 0 && (th0 u).rfault == none && (th0 u).sup.map (fun f => (f.rdom, f.rinfo)) == [(0x80_0000_0000_0000, 0x9009)]) &&
      ready i (labWith farStore) (farStore labThread) && !domStoresDone (farStore labThread) && standsBy i (labWith farStore)) &&
    (match memForm (labWith rfaulted) (rfaulted labThread) relStore with
     | some f => f.rel == some 5 && f.reqs.all (fun r => match f.check r with | .ok _ => true | _ => false)
     | none => false)) = true := by decide +kernel
theorem test_arrival_remote_fault : (let f : T64 := { z with a := 20, b := 18, md := 0x80 }
    ready (.arrive f) (labWith rfaulted) (rfaulted labThread) && (wordAt (labWith rfaulted) (rfaulted labThread) (labThread.sv 20)).isSome &&
    f.m 31 29 == 4 && answ (.arrive f) (labWith rfaulted) (fun u => trapsWith u 0x38 0)) = true := by decide +kernel
theorem test_exit_in_section : (let s := gangWith (fun g => { g with held := some (0, 7) })
    ready .exitT32 s labThread && answ .exitT32 s (fun u => trapsWith u 0x44 7)) = true := by decide +kernel

/-- Late flags: a matrix entry that has still to commit, and one that raised an enabled flag. -/
def readStat : Instr := .fsmov .rd { z with d := 20 }
theorem test_late_wait : (let s := lab.modQuill 0 (fun q => { q with mx := [labEnt 6] })
    lateWaits s readStat 0 labThread && standsBy readStat s) = true := by decide +kernel
def lateTh (th : Thread) : Thread := { th with late := [{ fl := flNx, matrix := true, scal := false, d := 0, len := 0 }] }
theorem test_late_trap : (lateAwaited readStat (lateTh labThread) == flNx && !lateWaits (labWith lateTh) readStat 0 (lateTh labThread) &&
    answ readStat (labWith lateTh) (fun u => trapsWith u 0x30 (flNx.setWidth 64) && (th0 u).late == [])) = true := by decide +kernel

/-- Delegation (R399), a full frame stack, both full, and the nib (R401). -/
theorem test_delegation : (receiver .user 4 0x20 == .hyp && receiver .user 3 0x20 == .sup && receiver .sup 2 0x0C == .hyp && receiver .sup 1 0x0C == .sup &&
    receiver .user 0x7F 0x50 == .sup && receiver .hyp 0 0x50 == .hyp && causeGroups.contains (0x0B, 0) && causeGroups.contains (0x18, 1) && !causeGroups.contains (0x19, 1)) = true := by decide +kernel
def fullSup (th : Thread) : Thread := { labSup th with sup := [labFrame 1, labFrame 0] }
def fullBoth (th : Thread) : Thread := { fullSup th with hyp := [labFrame 2, labFrame 1] }
theorem test_overflow : (let u := trapThread (labWith fullSup) 0 (fullSup labThread) (ent 0x30)
    (th0 u).mode == .hyp && (th0 u).sup == (fullSup labThread).sup && (th0 u).hyp.map (fun f => f.cause.toNat) == [0x4030_0058]) = true := by decide +kernel
theorem test_overflow_ends_the_gang : (let u := trapThread (labWith fullBoth) 0 (fullBoth labThread) (ent 0x30)
    (th0 u).exited && (u.thread 1).any (fun x => x.exited) && (u.grids.find 0).any (fun g => g.overflow)) = true := by decide +kernel
theorem test_nib_trap : (let u := trapThread lab 1 labNib (ent 0x20)
    (u.quill 0).halted && (u.quill 0).fault.any (fun f => f.stream == 3 && f.cls == 0x1F && f.index == 0x20 && f.addr == 9 && f.syn == some (3, 0, 1))) = true := by decide +kernel
/-- A fetch fault of a unit behind the first traps as any other does. -/
theorem test_later_fetch_fault : (let s := labWith (fun th => { labSup th with atVec := 3, latch := { Latch.empty with fetch := some (0x18, 4, 0) } })
    answ .instructionFetchFault s (fun u => !(th0 u).exited && trapsWith u 0x18 4)) = true := by decide +kernel
/-- A row of odd length at a hypervisor entry point is illegal first. -/
def atHvecRow (th : Thread) : Thread := { labSup th with mode := .hyp, atVec := 2 }
theorem test_row_at_entry_point : (legalIn oddRow (atHvecRow labThread) && entryFails oddRow (atHvecRow labThread) && answ oddRow (labWith atHvecRow) (fun u =>
    (th0 u).hyp.map (fun f => f.cause.toNat % 256) == [1])) = true := by decide +kernel

/-! ## Atomics of the scratchpad and of several lanes; misaligned index arrays; requests that later checks refuse -/

theorem test_scratchpad_atomic : (let a := acc0 (.scr 0 16) [5, 0, 0, 0] 4
    let s := scrWrite (at3 (labOp (.atomic .add false) a (.satom 20 false)) 0 0 0) 0 16 [3, 0, 0, 0]
    atomReady (th0 s) (op0 (.atomic .add false) a (.satom 20 false)) a &&
    answ .atomicPerform s (fun u => u.mem == s.mem && scrRead u 0 16 4 == [8, 0, 0, 0] && ((th0 u).s.drop 20).take 1 == [⟨3, false⟩])) = true := by decide +kernel
/-- Lanes 2 and 5 add at one place; a store of another byte range is pending. -/
def lanesA (t : Tgt) : List Acc := [{ acc0 t [5, 0, 0, 0] 4 with lane := 2 }, { acc0 t [7, 0, 0, 0] 4 with lane := 5 }]
def lanesS (t : Tgt) : State :=
  let s := at3 (labWith (fun th => { th with mq := [{ op0 (.atomic .add false) (acc0 t [] 4) (.vatom 4 false) with accs := lanesA t }], ser := 6 })) 0 0 0
  (scrWrite { s with mem := Memory.write lab.mem 0x1000 [3] } 0 16 [3, 0, 0, 0]).modQuill 0 (fun q => { q with pq := [{ pent with pa := 0x1004 }] })
def lanesGot (u : State) : Bool := [2, 5].map ((th0 u).lane 4) == [3, 8] && (th0 u).lane 4 3 == labThread.lane 4 3
theorem witness_lanes (t : Tgt) (ht : t = page1 ∨ t = .scr 0 16) : LanesAtomic (lanesS t) 0 (th0 (lanesS t))
    { op0 (.atomic .add false) (acc0 t [] 4) (.vatom 4 false) with accs := lanesA t } (lanesA t) t .add false 4 := by
  rcases ht with rfl | rfl <;>
    exact ⟨rfl, rfl, by decide +kernel, fun p hp _ => List.mem_singleton.mp hp, ⟨rfl, by decide⟩, ⟨rfl, rfl, rfl⟩, by decide +kernel,
      by decide +kernel, by decide +kernel, by decide +kernel⟩
theorem test_lanes_in_memory : answ .atomicPerform (lanesS page1) (fun u => u.mem == Memory.write lab.mem 0x1000 [15] && lanesGot u) = true := by decide +kernel
theorem test_lanes_in_scratchpad : answ .atomicPerform (lanesS (.scr 0 16)) (fun u => scrRead u 0 16 4 == [15, 0, 0, 0] && lanesGot u) = true := by decide +kernel

def crookedC : EngCmd := { cmdE with cmd := cmdGat, rows := 2, len := 4, idx := 18, wrote := [] }
def crookedS : State := let s := (at3 lab 0 0 5).modQuill 0 (fun q => { q with gather := { seq := 9, cmds := [crookedC] } }); { s with inp := { s.inp with stream := .gather } }
theorem test_misaligned_indices : (workCmd crookedS 0 .gather 0 5 == some crookedC && answ .engineFault crookedS (fun u =>
    (u.quill 0).halted && (u.quill 0).fault.any (fun f => f.cls == 0x0A && f.seq == 3 && f.index == 5 && f.addr == 22))) = true := by decide +kernel

/-- Another leaf at the hub; a walk there that ended in a fault of class 9. -/
def hubLeaf (l : Leaf) (s : State) : State :=
  { s with xl := { s.xl with tlb := [(8, [{ vmid := 0, asid := some 1, page := 0, size := 21, res := .ok l }])] } }
theorem test_request_permission : (gives (reqL .store 0x1000 4 [1, 2, 3, 4]) (hubLeaf { labLeaf with w := false, w1 := false }) (some 4) [] (fun _ => true) &&
    gives (reqL .load 0x1000 4 []) (hubLeaf { labLeaf with r := false, r1 := false }) (some 3) [] (fun _ => true) &&
    gives (reqL .load 0x1000 4 []) (hubLeaf { labLeaf with user := false }) (some 6) [] (fun _ => true)) = true := by decide +kernel
theorem test_request_kind : (gives (reqL .store 0x1000 4 [1, 2, 3, 4]) (hubLeaf { labLeaf with kind := 1, pa := inkBase }) (some 0x18) [] (fun _ => true) &&
    gives (reqL .load 0x1000 2 []) (hubLeaf { labLeaf with kind := 4 }) (some 0x17) [] (fun _ => true)) = true := by decide +kernel
theorem test_request_poison : gives (reqL .load 0x1000 4 []) (fun s => { s with st := { s.st with poison := [(0x1000, 64)] } }) (some 0x14) [] (fun _ => true) = true := by decide +kernel
/-- A walk for the request has ended in a fault of class 9. -/
theorem test_request_unmapped : (let s0 := domS (reqL .load 0x1000 4 [])
    let s : State := { s0 with xl := { s0.xl with tlb := [], dlvd := [{ who := hubAgent s0, vmid := 0, asid := 1, page := 0, res := .bad 9 1 0 }] } }
    (match (hubTranslate s 0 1 0x1000 false).2 with | .error (c, _, _) => c == 9 | _ => false) &&
    answ .domainRequestArrive s (fun u => u.fab.serving == [] && u.fab.answers == [(3, 70, some 9, [])])) = true := by decide +kernel
/-- A load of two accesses is taken in, performs a part at a time and is answered with both. -/
def two : Request := { reqL .load 0x1000 4 [] with accs := [{ off := 0x1000, size := 4, data := [], bad := false }, { off := 0x1004, size := 2, data := [], bad := false }] }
theorem test_request_of_two : (answ .domainRequestArrive (domS two) (fun u => u.fab.serving.map (fun v => v.parts.map (fun p => (p.acc, p.pa, p.got))) == [[(0, 0x1000, none), (1, 0x1004, none)]] &&
    answ .domainRequestArrive { u with inp := { u.inp with n4 := 1 } } (fun w => w.fab.answers == [] &&
      w.fab.serving.map (fun v => v.parts.map (fun p => p.got)) == [[none, some [5, 6]]] &&
      answ .domainRequestArrive { w with inp := { w.inp with n4 := 0 } } (fun x => x.fab.serving == [] &&
        x.fab.answers == [(3, 70, none, [[1, 2, 3, 4], [5, 6]])])))) = true := by decide +kernel

/-! ## Words of the spec -/

theorem test_words : [
    ((0x0004_1182 : Word), (0 : Word), some (Instr.vaddT32 false 0 false 2 1 3)), (0x4012_1182, 0, some (.vaddT32 true 0 false 9 1 3)),
    (0x4020_2438, 0, some (.vldM32 2 16 2 8)), (0x4080_82BC, 0, some (.vstM32 2 0x40 8 5)), (0x04C0_0048, 0, some (.markT32 2 3)),
    (0x0004_118A, 0, some (.vfaddF32T32 false 2 1 3)), (0x00C8_328A, 0, some (.vfminF32T32 false 4 3 5)), (0x0082_020A, 0, some (.vfmulF32T32 false 1 0 4)),
    (0x2A29_2839, 0x0905_002B, some (.vfma .f32 { z with d := 40, a := 41, b := 42, c := 43, md := 9 })),
    (0x2A29_2839, 0x0905_212B, some (.vfma .f32 { z with d := 40, a := 41, b := 42, c := 43, md := 9, hint := 2, guard := 1 })),
    (0x0082_3112, 0, some (.vcmpT32 false 0 2 1 3 2)), (0x00C0_C61E, 0, some (.vcvtT32 0 0 3 12 12)), (0x0006_1449, 0x0011_0000, some (.vcred .dw { z with d := 20, a := 6 })),
    (0xFFFF_85A0, 0, some (.b (BitVec.ofInt 21 (-16)) true 3)), (0x0000_1120, 0, some (.b 2 false 2)), (0xC000_002C, 0, some .exitT32),
    (0x0000_0023, 0, some (.xreg 0 0 1)), (0x0000_00E7, 0, some (.rmode 1 true true)), (0x0000_002B, 0, some (.pairx 1)), (0x0000_00EF, 0, some (.cpol 1 3)),
    (0x1234_528C, 0, some (.slh 0x12345 5)), (0x0000_1410, 0, some (.spch 1 8)), (0x1FFF_5A88, 0, some (.saddi 0xFFF 21 21)), (0x0003_8C08, 0, some (.saddi 1 24 24)),
    (0x2000_1809, 0, some (.sset false 24 0 0)), (0x0000_1911, 0x0023_0000, some (.mbx { z with d := 25 })), (0x0119_0011, 0, some (.loop false { z with a := 25, b := 1 })),
    (0x2808_146D, 0x0000_000C, some (.mma false false { z with d := 20, a := 8, b := 40, c := 12 })),
    (0x0010_0019, 0x0009_0024, some (.mtp { z with a := 16, c := 0x24 })), (0x0004_142D, 0x0008_0002, some (.match_ { z with d := 20, a := 4, c := 2 })),
    (0x0014_0011, 0x0010_0000, some (.ordbeg { z with a := 20 })), (0x0808_1069, 0, some (.tex { z with d := 16, a := 8, b := 8 })),
    (0x0010_0075, 0x7004_0000, some (.cpy 1 0 { z with a := 16, md := 0x70 })), (0x1214_0061, 0x6010_0000, some (.arrive { z with a := 20, b := 18, md := 0x60 })),
    (0x0006_2098, 0, some (.kop 0 3 2 1)), (0x2140_119A, 0, some (.vswzUpT32 5 1 3)), (0x0C0A_0859, 0x0002_0000, some (.satom false false .add { z with d := 8, a := 10, b := 12 })),
    (0, 0, none), (0x0000_001F, 0, none), (0x0000_00FC, 0, none)].all (fun x => decode x.1 x.2.1 == x.2.2) = true := by decide +kernel
/-- The table's own numbering, with words to spare. -/
theorem test_table_word : (decodeTableWord 32 0x0004_1182 == some (.vaddT32 false 0 false 2 1 3) && decodeTableWord 64 0x0905_002B_2A29_2839 ==
    some (.vfma .f32 { z with d := 40, a := 41, b := 42, c := 43, md := 9 })) = true := by decide +kernel
theorem test_encoding_back : ([.vaddT32 false 0 false 2 1 3, .vfma .f32 { z with d := 40, a := 41, b := 42, c := 43, md := 9 }, .slh 0x12345 5] : List Instr).all (fun i =>
    i.wf Px.none && hasWords i && decodeBytes ((encode i).flatMap (fun w => toBytes 4 w.toNat) ++ [7]) == some (i, [7])) = true := by decide +kernel

/-! ## Ill-formed terms, each refused by one check -/

def f (d a b c md : BitVec 8) : T64 := { z with d := d, a := a, b := b, c := c, md := md }
theorem refused_scalar : ([.rmode 5 true false, .rmode 1 false true, .pairx 0, .pairx 3, .cpol 3 0, .saddT64 (.reg (f 1 2 4 0 0x20)), .saddT64 (.reg (f 0 0 0 1 0)), .saddT64 (.reg (f 0 0 0 0 1)),
    .saddT64 (.immD 1 2 0), .ssubT64 (f 0 0 0 0 0x40), .sandT64 (.immD 0 2 0), .sandT64 (.reg (f 0 0 0 0 0x10)), .sshlT64 (f 1 2 0 0 0x20), .sshrT64 true (f 0 0 0 0 0x10),
    .smulT64 (.reg (f 0 0 0 0 0x20)), .smulT64 (.hi true (f 0 0 0 0 0x10)), .sminT64 true (.reg (f 0 0 0 1 0)), .smaxT64 true (.immD 0 0 0), .sdiv true (f 0 0 0 0 1), .sbf .insert (f 0 0 32 1 0), .sbf .insert (f 0 0 0 0 0),
    .sbf .insert (f 0 0 31 2 0), .scnt .pop (f 0 0 1 0 0), .sset false 0 1 0, .sset true 1 0 0, .sshli 32 0 0, .scmp 6 0 0 1, .scmp 0 0 0 0, .kop 6 0 0 1, .kop 4 1 0 1, .kop 0 0 0 0, .kopKs 0 0, .msplit false 0 2,
    .ljmp .abs 0 1 0, .ljmp .abs 1 0 0, .ljmp .seg 0 1 0, .lcall .abs 1 0 0, .lcall .abs 0 1 0] : List Instr).all (fun i => !i.wf Px.none) = true := by decide +kernel
theorem refused_control : ([.loop true (f 1 0 1 0 0), .loop true (f 0 0 0 0 0), .loop false (f 0 0 1 0 1), .loopCnt (f 0 1 0 0 0), .barGang (f 0 0 0 16 0), .barFol (f 0 0 0 1 0), .ordbeg (f 1 0 0 0 0), .ordend (f 0 0 1 0 0),
    .ordrel (f 0 0 0 0 1), .phase (f 0 1 0 0 0), .clkdiv (f 0 0 0 1 0), .clkdiv (f 0 0 0 33 0), .clkdiv (f 0 0 0 2 4), .rdtick true (f 1 0 0 0 0), .inkcal (f 0 0 1 0 0), .mbx (f 0 0 0 16 0), .ipf .pf (f 1 0 0 0 0),
    .fsmov .rd (f 0 1 0 0 0), .fsmov .wr (f 1 0 0 0 0), .dqpush (f 1 0 0 0 0), .dqpop (f 0 1 0 0 0), .syscallT64 (f 1 0 0 0 0), .tretT64 (f 0 0 0 0 1), .mfp (f 1 0 0 0 0), .mfp (f 0 0 0 9 0), .mtp (f 1 0 0 0x24 0),
    .mtp (f 0 1 0 0x24 0)] : List Instr).all (fun i => !i.wf Px.none) = true := by decide +kernel
theorem refused_vector : ([.vaddT32 false 3 false 1 0 0, .vandT32 false 1 0 0 0, .vshlI32 32 0 0, .vaddT64 true (.reg 3 (f 1 0 0 0 0)), .vaddT64 true (.reg 0 (f 0 0 0 1 0)), .vavgT64 true (.reg 0 (f 0 0 0 0 0x10)),
    .vshlT64 (.imm 0 0 32), .vaddaT32 false 0 1 0, .vaddaT64 (.imm 1 0 0), .vaddaT64 (.reg 0 (f 0 1 0 0 0)), .vbrevT64 0 (f 0 0 1 0 0), .vbrevT64 1 (f 0 0 0 0 0), .vmad true 3 (f 0 0 0 0 0), .vclamp true 0 (f 0 0 0 0 0x10),
    .vshf 1 (f 0 0 0 0 0), .vbf .extractU 0 (f 0 0 16 17 0), .vbyte 0 (f 0 0 0 0 0x80), .vaddc 0 (f 0 0 0 0 0), .vset true 1 0 0, .vset false 0 1 0, .vdiv true (f 0 0 0 0 1), .vmulhi true (f 0 0 0 1 0), .vmulw true (f 1 0 0 0 0),
    .vcmpT32 false 1 0 0 0 1, .vcmpT32 false 0 10 0 0 1, .vcmpT32 false 0 0 0 0 0, .vcmpT64 0 0 (f 1 0 0 0 0x60), .vcmpT64 0 0 (f 1 0 0 1 0), .vcmpT64 0 0 (f 1 0 0 8 0x20), .vselT64 (f 0 0 0 8 0), .vbcastT64 (f 0 0 1 0 0),
    .vextrT32 96 0 0, .vinsT64 (f 0 0 0 96 0), .vlidT64 (f 0 1 0 0 0), .vkvT64 (f 0 0 0 8 0), .vswzUpT32 0 0 0, .vswzUpT32 96 0 0, .vswzXorT32 0 0 0, .vpermT64 (f 1 0 0 0 0x20), .vswzT64 0 (f 0 0 0 96 0), .match_ (f 0 0 0 0 0),
    .vred .minS (f 0 0 0 0 0x10), .vred .addS (f 1 0 0 0 0x20), .vscan true (f 0 0 0 0 1)] : List Instr).all (fun i => !i.wf Px.none) = true := by decide +kernel
theorem refused_memory : ([.sldM32 3 0 0 1, .sstM32 4 0 0 0, .sldM32 7 0 0 0, .sldM32 6 0 0 2, .vldM32 2 0 1 0, .sldT64 false 2 (f 0 0 0 0 0xD0), .sldT64 false 2 (f 0 0 0 0 0x20), .sldT64 true 2 (f 0 0 0 0 0x0C), .sldT64 false 2 (f 0 0 0 0 2),
    .sldT64 false 2 (f 0 0 0 0 1), .vpf false (f 1 0 0 0 0), .vpf true (f 0 1 0 0 0), .vatom false false .zmin (f 0 0 0 0 0), .vatom false true .fadd (f 0 0 0 0 0), .vatom false false .add (f 0 0 0 1 0), .vatom false false .add (f 1 0 0 0 4),
    .vatom false false .add (f 0 0 0 0 0x20), .vatom false true .add (f 1 0 0 0 0), .satom false false .add (f 0 1 0 0 0), .xpatSet (f 0 0 0 4 0), .xpatGet (f 0 1 0 0 0), .xld (f 0 1 0 0 0), .xld (f 0 0 0 4 0), .markT32 5 0, .markT32 0 6,
    .markT64 (f 0 0 0 0 0x14), .arwait (f 0 0 0 0 8), .arwait (f 1 0 0 0 0), .arwait (f 0 0 0 0 0x20), .arrive (f 0 0 0 0 0xC0), .arrive (f 1 0 0 0 0)] : List Instr).all (fun i => !i.wf Px.none) = true := by decide +kernel
theorem refused_float : ([.vfaddT64 .f32 (f 0 0 0 0 0x0D), .vfaddT64 .f32 (f 0 0 0 0 1), .vfaddT64 .f64 (f 1 0 0 0 0), .vfaddT64 .f32 (f 0 0 0 1 0), .vfminT64 .f32 (f 0 0 0 0 8), .vfma .f64 (f 0 0 0 1 0), .vfsgn .f32 (f 0 0 1 0 0x60),
    .vfclass .f64 (f 0 1 0 0 0), .vfcmp false 0 (f 0 0 0 0 0), .vfcmp true 0 (f 1 1 0 0 0), .vfdot2 true (f 0 0 0 0 0x20), .vfdiv .f32 (f 0 0 0 1 0), .vfsqrt .f32 (f 0 0 1 0 0), .vfrcp .f32 (f 0 0 0 0 0x80), .vcvtT32 0 0 0 0 0,
    .vcvtT32 0 12 0 0 0, .vcvtT32 2 2 0 0 0, .vcvtT32 1 0 1 0 0, .vcvtT64 4 5 (f 0 0 0 0 0), .vcvtT64 0 2 (f 0 0 0 0 0x20), .vfrnd .f32 (f 0 0 0 0 0x80), .vbxpk (f 0 0 0 0 0xC0), .vbxex (f 0 0 0 1 0), .vdwadd (f 1 0 0 0 0),
    .vdwmul (f 0 0 1 0 0x20), .vdwnorm (f 0 0 1 0 0), .vcred .f32 (f 1 0 0 0 0), .vcred .f64 (f 2 0 0 0 0), .vcred .dw (f 0 1 0 0 0), .vtbl .idx (f 0 0 0 0 8), .vtbl .lin (f 0 0 1 0 0)] : List Instr).all (fun i => !i.wf Px.none) = true := by decide +kernel
theorem refused_matrix : ([.tex (f 0 0 1 0 0), .texl (f 0 0 0 1 0), .tex4 (f 0 0 0 0 1), .texq (f 1 0 0 0 0), .mma false false (f 0 0 1 0 0), .mma true false (f 0 1 0 0 0), .mma false false (f 0 0 0 0 0x20), .mvote (f 0 0 0 0 0),
    .mvote (f 1 1 0 0 0), .aclr (f 1 0 0 0 0), .ald (f 0 0 1 0 0), .ast (f 1 0 0 0 0), .aadd (f 0 0 0 0 0x40), .acvt (f 0 0 0 0 0x20), .acpy (f 0 0 1 0 0), .amax (f 0 0 0 0 0x40), .abx (f 0 0 0 0 0x60), .cpy 3 0 (f 0 0 0 0 0),
    .cpy 0 0 (f 0 1 0 0 0), .cpy 0 0 (f 0 0 1 0 0), .cpy 0 0 (f 0 0 0 0 0xC0), .cpy 0 0 (f 0 0 0 0 1), .cpyt 0 0 (f 0 0 0 0 4), .gat 0 1 (f 0 0 0 0 0), .sct 1 1 (f 0 0 0 0 0), .cfill 0 0 (f 0 0 0 0 0), .rred 1 1 (f 0 0 0 0 0),
    .rred 0 1 (f 0 0 0 0 7), .edrain (f 0 0 0 0 0xC0), .ecnt (f 0 1 0 0 0)] : List Instr).all (fun i => !i.wf Px.none) = true := by decide +kernel
/-- Checks that depend on prefixes: extensions of fields that a form does not have, pairs at odd registers. -/
def ext (d a b : BitVec 3) : Px := { Px.none with x := some (d, a, b) }
theorem refused_prefixed : ([(ext 0 0 1, Instr.saddi 0 0 0), (ext 0 1 0, .slh 0 0), (ext 1 0 0, .scmp 0 0 0 1), (ext 0 0 1, .kop 0 0 0 1), (ext 1 0 0, .kopKs 0 1), (ext 0 1 0, .kopSk 0 3), (ext 0 1 0, .msplit false 1 3), (ext 0 0 1, .mjoin 0),
    (ext 0 0 1, .vaddI32 0 0 0), (ext 0 0 1, .vbrevT32 0 0), (ext 1 0 0, .vcmpT32 false 0 0 0 0 1), (ext 0 0 1, .vbcastT32 0 0), (ext 0 1 0, .vlidT32 0), (ext 0 0 1, .vswzDnT32 1 0 0), (ext 0 0 1, .vldM32 2 0 0 0), (ext 1 0 0, .markT32 0 0),
    (ext 0 0 1, .vcvtT32 0 0 3 0 0), ({ Px.none with p := some 1 }, .vfaddF32T32 false 0 0 1), ({ Px.none with p := some 2 }, .vfmulF32T32 false 0 1 0), ({ Px.none with p := some 2 }, .vfaddT64 .f64 (f 0 0 0 0 0)),
    ({ Px.none with p := some 1 }, .vfaddT64 .f64 (f 2 0 0 0 0))] : List (Px × Instr)).all (fun p => !p.2.wf p.1) = true := by decide +kernel

end Sys2Proof.Tests
end

section
/-! Division (R286): its results in integers, and the trap that follows a unit whose flag is enabled (R242). -/
namespace Sys2Proof.Machine

/-! ## A trap that follows a complete unit -/

/-- The trap stands after the unit: its frame is taken from the retired thread (R242, R252). -/
theorem settle_after {s s' : State} {t : Nat} {th th' : Thread} (e : s'.thread t = some th') (c : Nat) (set : Mask) (v : DWord) :
    settle s t th (.after s' c set v) = .next (trapThread (s'.setThread t (retire th')) t (retire th')
      { cause := c, orig := 0, set := set, pc := (retire th').pcO, val := v, syn := 0 }) := by
  simp [settle, e]

/-- Flags raised by the instruction as a whole, some of them enabled. -/
theorem wholeFlags_enabled {s : State} {th : Thread} {set : Mask} {fl : Flags} (h : fl &&& enabled th ≠ 0) :
    wholeFlags s th set fl = .after (s.setThread s.cur (addFlags th fl)) 0x30 set ((fl &&& enabled th).setWidth 64) :=
  if_neg h

/-- The arithmetic trap of an enabled flag follows the unit, whose results stand (R242). -/
theorem settle_wholeFlags_enabled {s : State} {th th' : Thread} {set : Mask} {fl : Flags} (h : fl &&& enabled th' ≠ 0) :
    settle s s.cur th (wholeFlags s th' set fl) =
      .next (trapThread (s.setThread s.cur (retire (addFlags th' fl))) s.cur (retire (addFlags th' fl))
        { cause := 0x30, orig := 0, set := set, pc := (retire (addFlags th' fl)).pcO,
          val := (fl &&& enabled th').setWidth 64, syn := 0 }) := by
  rw [wholeFlags_enabled h, settle_after (State.thread_setThread ..), State.setThread_setThread]

/-! ## The quotient and the remainder -/

theorem toInt_eq_intMin_iff (a : Word) : a.toInt = -2 ^ 31 ↔ a = 0x8000_0000#32 := by
  rw [← BitVec.toInt_inj]; rfl

theorem toInt_eq_neg_one_iff (b : Word) : b.toInt = -1 ↔ b = BitVec.allOnes 32 := by
  rw [← BitVec.toInt_inj]; rfl

theorem divide_zero (signed : Bool) (a : Word) : divide signed a 0 = (BitVec.ofNat 32 (2 ^ 32 - 1), a, flIdz) := rfl

theorem divide_overflow {a b : Word} (ha : a.toInt = -2 ^ 31) (hb : b.toInt = -1) : divide true a b = (a, 0, flIov) := by
  rw [toInt_eq_intMin_iff] at ha
  rw [toInt_eq_neg_one_iff] at hb
  subst ha hb
  rfl

theorem divide_signed {a b : Word} (h0 : b ≠ 0) (h : ¬ (a.toInt = -2 ^ 31 ∧ b.toInt = -1)) :
    divide true a b = (BitVec.ofInt 32 (a.toInt.tdiv b.toInt), BitVec.ofInt 32 (a.toInt - a.toInt.tdiv b.toInt * b.toInt), 0) := by
  rw [toInt_eq_intMin_iff, toInt_eq_neg_one_iff] at h
  have hrem : a.toInt.tmod b.toInt = a.toInt - a.toInt.tdiv b.toInt * b.toInt := by rw [Int.tmod_def, Int.mul_comm]
  simp only [divide, if_neg h0, if_neg h, if_true, w32, hrem]

theorem divide_unsigned {a b : Word} (h0 : b ≠ 0) :
    divide false a b = (BitVec.ofNat 32 (a.toNat / b.toNat), BitVec.ofNat 32 (a.toNat - a.toNat / b.toNat * b.toNat), 0) := by
  simp only [divide, if_neg h0, Bool.false_eq_true, if_false, Nat.mod_eq_sub_div_mul]

/-- The table of R286, its corners first. -/
theorem divide_eq (signed : Bool) (a b : Word) :
    divide signed a b =
      if b = 0 then (BitVec.ofNat 32 (2 ^ 32 - 1), a, flIdz)
      else if signed = true ∧ a.toInt = -2 ^ 31 ∧ b.toInt = -1 then (a, 0, flIov)
      else if signed then (BitVec.ofInt 32 (a.toInt.tdiv b.toInt), BitVec.ofInt 32 (a.toInt - a.toInt.tdiv b.toInt * b.toInt), 0)
      else (BitVec.ofNat 32 (a.toNat / b.toNat), BitVec.ofNat 32 (a.toNat - a.toNat / b.toNat * b.toNat), 0) := by
  by_cases h0 : b = 0
  · rw [if_pos h0, h0, divide_zero]
  rw [if_neg h0]
  cases signed with
  | false => simpa using divide_unsigned h0
  | true =>
    by_cases h : a.toInt = -2 ^ 31 ∧ b.toInt = -1
    · rw [if_pos ⟨rfl, h⟩, divide_overflow h.1 h.2]
    · rw [if_neg (fun hc => h hc.2), if_pos rfl, divide_signed h0 h]

/-! ## The instruction -/

/-- The thread once sdiv has written its quotient and then its remainder, and raised its flag. -/
def divided (signed : Bool) (f : T64) (th : Thread) : Thread :=
  let r := divide signed (th.sv f.a.toNat) (th.sv f.b.toNat)
  addFlags ((th.setS f.d.toNat r.1).setS f.c.toNat r.2.1) r.2.2

/-- The flag that sdiv raises, where its trap is enabled. -/
def divTraps (signed : Bool) (f : T64) (th : Thread) : Flags :=
  (divide signed (th.sv f.a.toNat) (th.sv f.b.toNat)).2.2 &&& enabled th

theorem exec_sdiv_ready {signed : Bool} {f : T64} {s : State} {th : Thread} (h : Ready (.sdiv signed f) s th) :
    let r := divide signed (th.sv f.a.toNat) (th.sv f.b.toNat)
    exec (.sdiv signed f) s = settle s s.cur th
      (wholeFlags s ((th.setS f.d.toNat r.1).setS f.c.toNat r.2.1) (th.active (Instr.sdiv signed f).guard) r.2.2) :=
  instr_ready h _

theorem sdiv_retires {signed : Bool} {f : T64} {s : State} {th : Thread} (h : Ready (.sdiv signed f) s th)
    (quiet : divTraps signed f th = 0) : Retires (.sdiv signed f) s (divided signed f th) := by
  unfold Retires
  rw [exec_sdiv_ready h, wholeFlags_quiet (by simpa [divTraps] using quiet), settle_done]
  rfl

theorem sdiv_traps {signed : Bool} {f : T64} {s : State} {th : Thread} (h : Ready (.sdiv signed f) s th)
    (loud : divTraps signed f th ≠ 0) :
    exec (.sdiv signed f) s = .next (trapThread (s.setThread s.cur (retire (divided signed f th))) s.cur (retire (divided signed f th))
      { cause := 0x30, orig := 0, set := th.active (Instr.sdiv signed f).guard, pc := (retire (divided signed f th)).pcO,
        val := (divTraps signed f th).setWidth 64, syn := 0 }) := by
  rw [exec_sdiv_ready h, settle_wholeFlags_enabled (by simpa [divTraps] using loud)]
  simp only [enabled_setS]
  rfl

/-- Settles O57: sdiv is `divide`, which R286's table describes; the flags then retire the unit or trap after it. -/
theorem divisionFormsQuotientAndRemainder : Obligations.DivisionFormsQuotientAndRemainder := by
  unfold Obligations.DivisionFormsQuotientAndRemainder
  intro signed f s th i h
  simp only [← divide_eq]
  exact ⟨sdiv_retires h, fun loud => ⟨_, sdiv_traps h loud⟩⟩

end Sys2Proof.Machine
end

section
/-! Vector registers: what is read after lanes have been written, and which operands are allocated (R38, R86-R91). -/
namespace Sys2Proof.Machine

/-! ## Thread.setV: the other files, the other registers, the lanes -/

@[simp] theorem Thread.setV_s (th : Thread) (n : Nat) (m : Mask) (f : Nat → Word) : (th.setV n m f).s = th.s := by
  unfold Thread.setV; split <;> rfl
@[simp] theorem Thread.setV_k (th : Thread) (n : Nat) (m : Mask) (f : Nat → Word) : (th.setV n m f).k = th.k := by
  unfold Thread.setV; split <;> rfl

theorem Thread.vreg_setV_other (th : Thread) {n n' : Nat} (m : Mask) (f : Nat → Word) (h : n' ≠ n) :
    (th.setV n m f).vreg n' = th.vreg n' := by
  unfold Thread.setV
  split
  · rfl
  · simp [Thread.vreg, setAt, List.getElem?_set_ne h.symm]

theorem Thread.lane_setV_same (th : Thread) {n L : Nat} (m : Mask) (f : Nat → Word) (hn : n < th.v.length) (hL : L < 96) :
    (th.setV n m f).lane n L = if m.getLsbD L then f L else th.lane n L := by
  unfold Thread.setV
  split
  · rename_i h0; simp [h0]
  · simp [Thread.lane, Thread.vreg, setAt, hn, hL]

/-! ## Allocated operands -/

theorem outOfRange_vector {th : Thread} {o : Opd} (hf : o.f = .v) (h : th.v.length < o.n + o.len) :
    outOfRange th o = some (0, max o.n th.v.length) := by
  simp [outOfRange, hf, Nat.not_le.mpr h]

/-- A vector operand beyond the allocation raises the register-range trap, whatever the others are (R38). -/
theorem rangeTrap_vector {th : Thread} {os : List Opd} {o : Opd} (ho : o ∈ os) (hf : o.f = .v)
    (h : th.v.length < o.n + o.len) : rangeTrap th os ≠ none := by
  have hbad : (0, max o.n th.v.length) ∈ (os.filterMap (outOfRange th)).filter (fun p => p.1 == 0) :=
    List.mem_filter.2 ⟨List.mem_filterMap.2 ⟨o, ho, outOfRange_vector hf h⟩, rfl⟩
  simp only [rangeTrap]
  split
  · simp
  · rename_i hlow
    rw [List.min?_eq_none_iff, List.map_eq_nil_iff] at hlow
    simp [hlow] at hbad

theorem ready_vector_allocated {i : Instr} {s : State} {th : Thread} {o : Opd} (h : Ready i s th)
    (ho : o ∈ i.opds th.latch.px) (hf : o.f = .v) : o.n + o.len ≤ th.v.length :=
  Nat.le_of_not_lt fun hlt => rangeTrap_vector ho hf hlt h.allocated

end Sys2Proof.Machine
end

section
/-! Prefixes and running sums: which instructions no prefix modifies (R263-R266), and the scans of R326. -/
namespace Sys2Proof.Machine
open Sys2Proof.Claims

/-! ## Instructions that no prefix modifies -/

theorem modifies_eq_false {i : Instr} (hx : i.takesX = false) (hr : i.rounds = false) (hs : i.satMarked = false)
    (hp : i.takesPair = false) (hc : i.takesCpol = false) (p : Instr) : p.modifies i = false := by
  unfold Instr.modifies
  split <;> simp [*]

/-! ## Running sums as sums over sets of lanes -/

/-- Adding the chosen elements one after the other gives their sum. -/
theorem foldl_add_chosen {α : Type} (p : α → Bool) (g : α → Word) (xs : List α) (t : Word) :
    xs.foldl (fun t x => if p x then t + g x else t) t = t + ((xs.filter p).map g).sum := by
  induction xs generalizing t with
  | nil => simp
  | cons x xs ih => cases hp : p x <;> simp [hp, ih, add_assoc]

/-- A sum of words is the sum of their numbers modulo 2^32. -/
theorem ofNat_sum_toNat {α : Type} (g : α → Word) (xs : List α) :
    BitVec.ofNat 32 ((xs.map (fun x => (g x).toNat)).sum) = (xs.map g).sum := by
  induction xs with
  | nil => rfl
  | cons x xs ih => simp [BitVec.ofNat_add, ih]

/-- The lanes of a set below a bound, picked from all lanes or from those below the bound. -/
theorem filter_below {n N : Nat} (h : n ≤ N) (q : Nat → Bool) :
    (List.range N).filter (fun l => q l && decide (l < n)) = (List.range n).filter q := by
  obtain ⟨k, rfl⟩ := Nat.exists_eq_add_of_le h
  have below : (List.range n).filter (fun l => q l && decide (l < n)) = (List.range n).filter q :=
    List.filter_congr fun l hl => by simp [List.mem_range.1 hl]
  have above : ((List.range k).map (n + ·)).filter (fun l => q l && decide (l < n)) = [] := by simp
  rw [List.range_add, List.filter_append, below, above, List.append_nil]

/-- The first lane that the sum of lane L leaves out. -/
def scanEnd (exc : Bool) (L : Nat) : Nat := if exc then L else L + 1

theorem lt_scanEnd (exc : Bool) (l L : Nat) : decide (l < scanEnd exc L) = if exc then decide (l < L) else decide (l ≤ L) := by
  cases exc <;> simp [scanEnd]

/-- What vscan writes to lane L: the sum over the active lanes before `scanEnd` (R326). -/
theorem scanSum_eq_laneSum (th : Thread) (a : Nat) (m : Mask) (exc : Bool) {L : Nat} (hL : L < 96) :
    scanSum th a m exc L = laneSum m (th.lane a) (fun l => if exc then decide (l < L) else decide (l ≤ L)) := by
  have hend : scanEnd exc L ≤ 96 := by unfold scanEnd; split <;> omega
  calc scanSum th a m exc L
      = (((List.range (scanEnd exc L)).filter (fun l => m.getLsbD l)).map (th.lane a)).sum := by
        rw [← BitVec.zero_add (List.sum _)]; exact foldl_add_chosen ..
    _ = laneSum m (th.lane a) (fun l => decide (l < scanEnd exc L)) := by
        unfold laneSum; rw [filter_below hend, ofNat_sum_toNat]
    _ = _ := by simp only [lt_scanEnd]

/-! ## The instruction -/

theorem vscan_retires {exc : Bool} {f : T64} {s : State} {th : Thread} (h : Ready (.vscan exc f) s th) :
    let m := th.active (Instr.vscan exc f).guard
    Retires (.vscan exc f) s (th.setV f.d.toNat m (scanSum th f.a.toNat m exc)) :=
  (instr_ready h _).trans (settle_done ..)

theorem vscan_dest_allocated {exc : Bool} {f : T64} {s : State} {th : Thread} (h : Ready (.vscan exc f) s th) :
    f.d.toNat < th.v.length :=
  ready_vector_allocated (o := ⟨.v, f.d.toNat, 1, false, true, .lane⟩) h (List.mem_cons_self ..) rfl

/-- A modifier field that is not zero makes vscan illegal (R326). -/
theorem vscan_illegal {exc : Bool} {f : T64} (h : f.md ≠ 0) (th : Thread) : legalIn (.vscan exc f) th = false := by
  have hwf : (Instr.vscan exc f).wf th.latch.px = false := by
    change (f.only true true false false && f.md == 0) = false
    rw [beq_eq_false_iff_ne.2 h, Bool.and_false]
  simp [legalIn, hwf]

/-- Settles O58: a lane-by-lane write of the running sums, each of which is the sum over the lanes that R326 names. -/
theorem scansFormRunningSums : Obligations.ScansFormRunningSums := by
  unfold Obligations.ScansFormRunningSums
  intro exc f i
  refine ⟨?effect, vscan_illegal, modifies_eq_false rfl rfl rfl rfl rfl⟩
  case effect =>
    intro s th h m A
    refine ⟨_, vscan_retires h, fun L hL => ?_, fun n hn => Thread.vreg_setV_other _ _ _ hn, Thread.setV_s .., Thread.setV_k ..,
      Thread.setV_fstat ..⟩
    rw [Thread.lane_setV_same _ _ _ (vscan_dest_allocated h) hL, scanSum_eq_laneSum _ _ _ _ hL]

end Sys2Proof.Machine
end

section
/-! The launch walker (R433): the order of the gangs in each z, and the coordinates in the scalar registers of a thread at launch (R208). -/
namespace Sys2Proof.Machine
open Sys2Proof.Claims

/-! ## Ranges cut into parts -/

theorem map_range_add {α : Type} (f : Nat → α) (a b : Nat) :
    (List.range (a + b)).map f = (List.range a).map f ++ (List.range b).map (fun k => f (a + k)) := by
  simp [List.range_add, Function.comp_def]

/-- The first n of the blocks that `s * N` indices form, `s * b` to the block; the last one may be shorter. -/
theorem map_range_firstBlocks {α : Type} (f : Nat → α) (s b N n : Nat) :
    (List.range (s * min (n * b) N)).map f =
      (List.range n).flatMap (fun r => (List.range (s * min b (N - r * b))).map (fun k => f (r * (s * b) + k))) := by
  induction n with
  | zero => simp
  | succ n ih =>
    have cut : min ((n + 1) * b) N = min (n * b) N + min b (N - n * b) := by rw [Nat.succ_mul]; omega
    have start : ∀ k ∈ List.range (s * min b (N - n * b)), f (s * min (n * b) N + k) = f (n * (s * b) + k) := by
      intro k hk
      have hpos : 0 < min b (N - n * b) := Nat.pos_of_mul_pos_left (Nat.zero_lt_of_lt (List.mem_range.1 hk))
      rw [Nat.min_eq_left (by omega : n * b ≤ N), Nat.mul_left_comm]
    rw [cut, Nat.mul_add, map_range_add, ih, List.map_congr_left start, List.range_succ, List.flatMap_append]
    simp

theorem map_range_blocks {α : Type} (f : Nat → α) (s N : Nat) {b : Nat} (hb : 0 < b) :
    (List.range (s * N)).map f = (List.range ((N + b - 1) / b)).flatMap (fun r =>
      (List.range (s * min b (N - r * b))).map (fun k => f (r * (s * b) + k))) := by
  have all : N ≤ (N + b - 1) / b * b := by
    rw [← Nat.ceilDiv_eq_add_pred_div, Nat.mul_comm]; exact le_smul_ceilDiv hb
  rw [← map_range_firstBlocks, Nat.min_eq_right all]

theorem line_index_lt {w h j i : Nat} (hi : i < w) (hj : j < h) : j * w + i < w * h := by
  calc j * w + i < (j + 1) * w := by rw [Nat.succ_mul]; omega
    _ ≤ w * h := by rw [Nat.mul_comm w]; exact Nat.mul_le_mul_right _ hj

theorem mul_add_div_of_lt {a b k : Nat} (hk : k < b) : (a * b + k) / b = a := by
  rw [Nat.mul_comm, Nat.mul_add_div (by omega), Nat.div_eq_of_lt hk, Nat.add_zero]

/-- The indices of a rectangle, line by line. -/
theorem map_range_lines {α : Type} (f : Nat → α) (w h : Nat) :
    (List.range (w * h)).map f = (List.range h).flatMap (fun j => (List.range w).map (fun i => f (j * w + i))) := by
  have full := map_range_firstBlocks f w 1 h h
  rw [Nat.mul_one, Nat.min_self] at full
  rw [full]
  refine List.flatMap_congr fun j hj => ?_
  have one : min 1 (h - j * 1) = 1 := by have := List.mem_range.1 hj; omega
  rw [one, Nat.mul_one]

theorem flatMap_range_guard {α : Type} (g : Nat → List α) (a n b : Nat) :
    (List.range b).flatMap (fun i => if a + i < n then g i else []) = (List.range (min b (n - a))).flatMap g := by
  induction b with
  | zero => simp
  | succ b ih =>
    rw [List.range_succ, List.flatMap_append, ih]
    by_cases h : a + b < n
    · have h1 : min b (n - a) = b := by omega
      have h2 : min (b + 1) (n - a) = b + 1 := by omega
      simp [h, h1, h2, List.range_succ]
    · have h1 : min (b + 1) (n - a) = min b (n - a) := by omega
      simp [h, h1]

/-! ## Morton order -/

theorem sum_range_single {m n : Nat} (h : n < m) (v : Nat) :
    ((List.range m).map (fun i => if n = i then v else 0)).sum = v :=
  (Finset.sum_ite_eq (Finset.range m) n (fun _ => v)).trans (if_pos (Finset.mem_range.2 h))

theorem everySecond_zero (k : Nat) : everySecond k 0 = 0 := by simp [everySecond]

/-- A number whose base-4 digit n, above all others, is q: digit n gives one bit to a coordinate. -/
theorem everySecond_digit {k n c : Nat} (hk : k < 2) (hn : n < 33) (hc : c < 2 ^ (2 * n)) {q : Nat} (hq : q < 4) :
    everySecond k (2 ^ (2 * n) * q + c) = everySecond k c + if q.testBit k then 2 ^ n else 0 := by
  have term : ∀ i, (if (2 ^ (2 * n) * q + c).testBit (2 * i + k) then 2 ^ i else 0) =
      (if c.testBit (2 * i + k) then 2 ^ i else 0) + if n = i then (if q.testBit k then 2 ^ n else 0) else 0 := by
    intro i
    have low : n ≤ i → c.testBit (2 * i + k) = false := fun h =>
      Nat.testBit_lt_two_pow (hc.trans_le (Nat.pow_le_pow_right (by decide) (by omega)))
    rw [Nat.testBit_two_pow_mul_add q hc]
    rcases lt_trichotomy i n with h | rfl | h
    · simp [show 2 * i + k < 2 * n by omega, show n ≠ i by omega]
    · simp [low]
    · have high : q.testBit (2 * i + k - 2 * n) = false :=
        Nat.testBit_lt_two_pow (hq.trans_le (Nat.pow_le_pow_right (n := 2) (i := 2) (by decide) (by omega)))
      simp [show ¬ 2 * i + k < 2 * n by omega, show n ≠ i by omega, low h.le, high]
  simp only [everySecond, term, List.sum_map_add, sum_range_single hn]

/-- The pairs of a square of side 2^n at (ox, oy), in Morton order. -/
def mortonSquare (n ox oy : Nat) : List (Nat × Nat) :=
  (List.range (2 ^ (2 * n))).map (fun c => (ox + everySecond 0 c, oy + everySecond 1 c))

theorem mortonSquare_zero (ox oy : Nat) : mortonSquare 0 ox oy = [(ox, oy)] := by
  simp [mortonSquare, everySecond_zero]

/-- The codes whose digit n is q give the quadrant that q's two bits name. -/
theorem map_mortonDigit {n : Nat} (hn : n < 33) {q : Nat} (hq : q < 4) (ox oy : Nat) :
    (List.range (2 ^ (2 * n))).map (fun c =>
      (ox + everySecond 0 (2 ^ (2 * n) * q + c), oy + everySecond 1 (2 ^ (2 * n) * q + c))) =
    mortonSquare n (ox + if q.testBit 0 then 2 ^ n else 0) (oy + if q.testBit 1 then 2 ^ n else 0) := by
  refine List.map_congr_left fun c hc => ?_
  have hc := List.mem_range.1 hc
  rw [everySecond_digit (by decide) hn hc hq, everySecond_digit (by decide) hn hc hq]
  simp only [Nat.add_assoc, Nat.add_comm]

theorem mortonSquare_succ {n : Nat} (hn : n < 33) (ox oy : Nat) :
    mortonSquare (n + 1) ox oy = mortonSquare n ox oy ++ mortonSquare n (ox + 2 ^ n) oy ++
      mortonSquare n ox (oy + 2 ^ n) ++ mortonSquare n (ox + 2 ^ n) (oy + 2 ^ n) := by
  have four : 2 ^ (2 * (n + 1)) = 2 ^ (2 * n) * 1 + 2 ^ (2 * n) + 2 ^ (2 * n) + 2 ^ (2 * n) := by
    rw [Nat.mul_succ, Nat.pow_add]; omega
  have at2 : 2 ^ (2 * n) * 1 + 2 ^ (2 * n) = 2 ^ (2 * n) * 2 := by omega
  have at3 : 2 ^ (2 * n) * 2 + 2 ^ (2 * n) = 2 ^ (2 * n) * 3 := by omega
  have digit1 := map_mortonDigit hn (q := 1) (by decide) ox oy
  have digit2 := map_mortonDigit hn (q := 2) (by decide) ox oy
  have digit3 := map_mortonDigit hn (q := 3) (by decide) ox oy
  conv_lhs => rw [mortonSquare, four, map_range_add, map_range_add, map_range_add, at2, at3, digit1, digit2, digit3]
  simp [mortonSquare, Nat.testBit]

/-- The pair lies in the grid. -/
def inGrid (gx gy : Nat) (p : Nat × Nat) : Bool := decide (p.1 < gx) && decide (p.2 < gy)

theorem inSquare_quadrants (gx gy ox oy h : Nat) :
    inSquare gx gy ox oy (h + h) = inSquare gx gy ox oy h + inSquare gx gy (ox + h) oy h + inSquare gx gy ox (oy + h) h +
      inSquare gx gy (ox + h) (oy + h) h := by
  have cut : ∀ g o, min (h + h) (g - o) = min h (g - o) + min h (g - (o + h)) := by omega
  simp only [inSquare, cut]
  ring

/-- The walker's count into a square of side 2^n visits the pairs of the square in Morton order, those outside the grid skipped. -/
theorem map_mortonAt (gx gy : Nat) {n : Nat} (hn : n ≤ 33) (ox oy : Nat) :
    (List.range (inSquare gx gy ox oy (2 ^ n))).map (mortonAt gx gy n ox oy) = (mortonSquare n ox oy).filter (inGrid gx gy) := by
  induction n generalizing ox oy with
  | zero =>
    have single : inSquare gx gy ox oy 1 = if inGrid gx gy (ox, oy) then 1 else 0 := by
      have side : ∀ g o, min 1 (g - o) = if o < g then 1 else 0 := by intro g o; split <;> omega
      simp only [inSquare, side, inGrid]
      by_cases hx : ox < gx <;> simp [hx]
    rw [mortonSquare_zero, Nat.pow_zero, single]
    cases h : inGrid gx gy (ox, oy) <;> simp [h, mortonAt]
  | succ n ih =>
    have ih := ih (by omega)
    rw [mortonSquare_succ (by omega), Nat.pow_succ, Nat.mul_two, inSquare_quadrants]
    simp only [map_range_add, List.filter_append, ← ih]
    refine congrArg₂ _ (congrArg₂ _ (congrArg₂ _ ?_ ?_) ?_) ?_
    all_goals
      refine List.map_congr_left fun k hk => ?_
      have hk := List.mem_range.1 hk
      rw [mortonAt]
    · rw [if_pos hk]
    · rw [if_neg (by omega), if_pos (by omega), Nat.add_sub_cancel_left]
    · rw [if_neg (by omega), if_neg (by omega), if_pos (by omega)]
      congr 1; omega
    · rw [if_neg (by omega), if_neg (by omega), if_neg (by omega)]
      congr 1; omega

theorem ceilLog2_eq {x e : Nat} (hx : x < 2 ^ 32) (he : x ≤ 2 ^ e) (least : ∀ d, x ≤ 2 ^ d → e ≤ d) : ceilLog2 x = e := by
  have h : (List.range 33).find? (fun n => decide (x ≤ 2 ^ n)) = some e := by
    rw [List.find?_range_eq_some]
    refine ⟨by simpa using he, List.mem_range.2 (Nat.lt_succ_of_le (least 32 hx.le)), fun j hj => ?_⟩
    have : ¬ x ≤ 2 ^ j := fun hle => absurd (least j hle) (by omega)
    simp [this]
  simp [ceilLog2, firstBelow, h]

/-! ## Blocked order -/

/-- The gang in column i and line j of block c in row r of blocks. -/
theorem blockedAt_block {gx gy bx hy r c j i : Nat} (hi : i < min bx (gx - c * bx)) (hj : j < min hy (gy - r * hy)) :
    blockedAt gx gy bx hy (r * (gx * hy) + (c * (bx * min hy (gy - r * hy)) + (j * min bx (gx - c * bx) + i))) =
      (c * bx + i, r * hy + j) := by
  generalize hh : min hy (gy - r * hy) = h at hj ⊢
  generalize hw : min bx (gx - c * bx) = w at hi ⊢
  have line : j * w + i < w * h := line_index_lt hi hj
  have block : j * w + i < bx * h := line.trans_le (Nat.mul_le_mul_right _ (by omega))
  have row : c * (bx * h) + (j * w + i) < gx * hy := by
    calc c * (bx * h) + (j * w + i) < (c * bx + w) * h := by rw [Nat.add_mul, Nat.mul_assoc]; omega
      _ ≤ gx * hy := Nat.mul_le_mul (by omega) (by omega)
  simp only [blockedAt, mul_add_div_of_lt row, mul_add_div_of_lt block, mul_add_div_of_lt hi, Nat.add_sub_cancel_left, hh, hw,
    Nat.mul_add_mod_of_lt hi]

/-- The list of R433 without the pairs that an edge block lacks. -/
theorem blockOrder_eq (gx gy bx hy : Nat) :
    blockOrder gx gy bx hy =
      (List.range ((gy + hy - 1) / hy)).flatMap (fun r => (List.range ((gx + bx - 1) / bx)).flatMap (fun c =>
        (List.range (min hy (gy - r * hy))).flatMap (fun j => (List.range (min bx (gx - c * bx))).map (fun i =>
          (c * bx + i, r * hy + j))))) := by
  have line : ∀ r c j, (List.range bx).filterMap (fun i =>
      if c * bx + i < gx ∧ r * hy + j < gy then some (c * bx + i, r * hy + j) else none) =
      if r * hy + j < gy then (List.range (min bx (gx - c * bx))).map (fun i => (c * bx + i, r * hy + j)) else [] := by
    intro r c j
    by_cases h : r * hy + j < gy
    · simp only [h, and_true, if_true]
      rw [List.map_eq_flatMap, ← flatMap_range_guard, List.filterMap_eq_flatMap_toList]
      exact List.flatMap_congr fun i _ => by split <;> rfl
    · simp [h]
  simp only [blockOrder, line, flatMap_range_guard]

theorem map_blockedAt (gx gy : Nat) {bx hy : Nat} (hbx : 0 < bx) (hhy : 0 < hy) :
    (List.range (gx * gy)).map (blockedAt gx gy bx hy) = blockOrder gx gy bx hy := by
  rw [blockOrder_eq, map_range_blocks _ gx gy hhy]
  refine List.flatMap_congr fun r _ => ?_
  rw [Nat.mul_comm gx (min _ _), map_range_blocks _ _ gx hbx]
  refine List.flatMap_congr fun c _ => ?_
  rw [Nat.mul_comm _ (min bx _), map_range_lines]
  refine List.flatMap_congr fun j hj => List.map_congr_left fun i hi => ?_
  rw [Nat.mul_comm _ bx]
  exact blockedAt_block (List.mem_range.1 hi) (List.mem_range.1 hj)

/-! ## The walker in the four orders -/

theorem walkAt_rowMajor {o : Oper} (ho : o.order = 0) {x y : Nat} (hx : x < o.gx) (hy : y < o.gy) (z : Nat) :
    walkAt o ((z * o.gy + y) * o.gx + x) = (x, y, z) := by
  have hk := line_index_lt hx hy
  have index : (z * o.gy + y) * o.gx + x = z * (o.gx * o.gy) + (y * o.gx + x) := by ring
  simp [walkAt, ho, index, Nat.mul_add_mod_of_lt hk, mul_add_div_of_lt hk, Nat.mul_add_mod_of_lt hx, mul_add_div_of_lt hx]

theorem walkAt_columnMajor {o : Oper} (ho : o.order = 1) {x y : Nat} (hx : x < o.gx) (hy : y < o.gy) (z : Nat) :
    walkAt o ((z * o.gx + x) * o.gy + y) = (x, y, z) := by
  have hk : x * o.gy + y < o.gx * o.gy := by rw [Nat.mul_comm o.gx]; exact line_index_lt hy hx
  have index : (z * o.gx + x) * o.gy + y = z * (o.gx * o.gy) + (x * o.gy + y) := by ring
  simp [walkAt, ho, index, Nat.mul_add_mod_of_lt hk, mul_add_div_of_lt hk, Nat.mul_add_mod_of_lt hy, mul_add_div_of_lt hy]

/-- One z of a grid whose order numbers the plane by p. -/
theorem map_walkAt {o : Oper} {p : Nat → Nat × Nat} (plane : ∀ k, k < o.gx * o.gy → (walkAt o k).1 = (p k).1 ∧ (walkAt o k).2.1 = (p k).2)
    (z : Nat) : (List.range (o.gx * o.gy)).map (fun k => walkAt o (z * (o.gx * o.gy) + k)) =
      ((List.range (o.gx * o.gy)).map p).map (fun q => (q.1, q.2, z)) := by
  rw [List.map_map]
  refine List.map_congr_left fun k hk => ?_
  have hk := List.mem_range.1 hk
  obtain ⟨hx, hy⟩ := plane k hk
  simp only [Function.comp_apply, ← hx, ← hy, walkAt, Nat.mul_add_mod_of_lt hk, Nat.mod_eq_of_lt hk, mul_add_div_of_lt hk]

theorem map_walkAt_morton {o : Oper} (ho : o.order = 2) {e : Nat} (hx : o.gx < 2 ^ 32) (hy : o.gy < 2 ^ 32)
    (he : max o.gx o.gy ≤ 2 ^ e) (least : ∀ d, max o.gx o.gy ≤ 2 ^ d → e ≤ d) (z : Nat) :
    (List.range (o.gx * o.gy)).map (fun k => walkAt o (z * (o.gx * o.gy) + k)) =
      ((mortonSquare e 0 0).filter (inGrid o.gx o.gy)).map (fun q => (q.1, q.2, z)) := by
  have hlog : ceilLog2 (max o.gx o.gy) = e := ceilLog2_eq (max_lt hx hy) he least
  have hplane : inSquare o.gx o.gy 0 0 (2 ^ e) = o.gx * o.gy := by
    obtain ⟨hxe, hye⟩ := max_le_iff.1 he
    simp [inSquare, hxe, hye]
  have he33 : e ≤ 33 := (least 32 (max_lt hx hy).le).trans (by decide)
  rw [← map_mortonAt _ _ he33, hplane]
  exact map_walkAt (fun k hk => by simp [walkAt, ho, hlog, Nat.mod_eq_of_lt hk]) z

theorem map_walkAt_blocked {o : Oper} (ho : o.order = 3) (hbx : 0 < o.bx) (hby : 0 < o.by') (z : Nat) :
    (List.range (o.gx * o.gy)).map (fun k => walkAt o (z * (o.gx * o.gy) + k)) =
      (blockOrder o.gx o.gy o.bx o.by').map (fun q => (q.1, q.2, z)) := by
  rw [← map_blockedAt _ _ hbx hby]
  exact map_walkAt (fun k hk => by simp [walkAt, ho, Nat.mod_eq_of_lt hk]) z

/-! ## The coordinates at launch -/

theorem launchS_coordinates {n : Nat} (h : 6 ≤ n) (low : Word) (c : Nat × Nat × Nat) (s6 : Nat) (arg : DWord) :
    (launchS n low c s6 arg)[3]? = some { val := BitVec.ofNat 32 c.1, poison := false } ∧
    (launchS n low c s6 arg)[4]? = some { val := BitVec.ofNat 32 c.2.1, poison := false } ∧
    (launchS n low c s6 arg)[5]? = some { val := BitVec.ofNat 32 c.2.2, poison := false } := by
  have h3 : 3 < n := by omega
  have h4 : 4 < n := by omega
  have h5 : 5 < n := by omega
  simp [launchS, h3, h4, h5]

/-- The scalar registers of a warp, or of the nib (R208). -/
theorem launchThread_s (s : State) (gid : Nat) (x : Grid) (c : Nat × Nat × Nat) (q slot member fmem : Nat) (w : Option Nat) :
    (launchThread s gid x c q slot member fmem w).s =
      launchS (if w.isSome then x.ker.sregs else x.ker.nibSregs) (if w.isSome then BitVec.allOnes 32 else 0) c
        (fmem * 2 ^ 24 + member * 2 ^ 16 + x.ker.warps * 256 + w.getD 255) x.op.arg := rfl

/-- Settles O59: each order's count is matched with its list, Morton order by quadrants and blocked order by rows, blocks and lines. -/
theorem theWalkerNumbersGangsInTheRecordedOrder : Obligations.TheWalkerNumbersGangsInTheRecordedOrder := by
  unfold Obligations.TheWalkerNumbersGangsInTheRecordedOrder
  intro o _ _ hx hy
  refine ⟨fun ho x y z h h' => walkAt_rowMajor ho h h' z, fun ho x y z h h' => walkAt_columnMajor ho h h' z, ?morton,
    fun ho hbx hby z => map_walkAt_blocked ho hbx hby z, ?launch⟩
  case morton =>
    intro ho e z he least
    rw [map_walkAt_morton ho hx hy he least, ← Nat.pow_add, ← Nat.two_mul]
    simp [mortonSquare, inGrid, List.filter_map, Function.comp_def]
  case launch =>
    intro s gid q slot member fmem n x w _ hwarp hnib c th
    have six : 6 ≤ if w.isSome then x.ker.sregs else x.ker.nibSregs := by
      cases w with
      | none => simpa using hnib
      | some _ => exact hwarp
    simp only [th, launchThread_s]
    exact launchS_coordinates six ..

end Sys2Proof.Machine
end
